-- ==== Sys2Proof/Word.lean ====
section
/-! DEFINITION. The word types, and the names the commands' operands are made of:
the two links (12 R189), the two heads (06 R104), the four banks (05 R86) and the two
platen switches (03, opening text). -/
namespace Sys2Proof

/-- The 16 data bits of a link word (R187). -/
abbrev Word := BitVec 16

/-- One byte of capture memory (R25). -/
abbrev Byte := BitVec 8

/-- One word of the image port (R171). -/
abbrev PortWord := BitVec 32

/-- A link, named for its master (R189). -/
inductive MasterLink where
  | station
  | turner
  deriving DecidableEq, Repr

/-- A camera head, and the page position it images (R104, R86). -/
inductive Head where
  | left
  | right
  deriving DecidableEq, Repr

/-- A strobe bank: LU and LL light the LEFT position, RU and RL the RIGHT (R86). -/
inductive Bank where
  | lu
  | ll
  | ru
  | rl
  deriving DecidableEq, Repr

/-- A switch of the platen (chapter 3, opening text). -/
inductive PlatenSwitch where
  | up
  | down
  deriving DecidableEq, Repr

end Sys2Proof
end

