-- ==== Sys2Proof/Syntax.lean ====
section
/-! DEFINITION. The commands of the block, one constructor per row of the table of steps.
A command of a link carries its parameter words (R189) in the order the master clocks them. -/
namespace Sys2Proof

/-- A command sent to the block: a word on a link, a whole command of a master, or an event at
one of its inputs. -/
inductive Instr where
  -- link words (R187, R188): the 16 data bits and the parity bit as received
  | commandWord (link : MasterLink) (data : Word) (parity : Bool)
  | parameterWord (link : MasterLink) (data : Word) (parity : Bool)
  | fillerWord (link : MasterLink) (data : Word) (parity : Bool)
  | partialWordDiscard (link : MasterLink) (bits : Nat)
  -- commands of both links
  | readStatus (link : MasterLink)
  | takeNotices (link : MasterLink)
  | clearLinkFlags (link : MasterLink)
  | readLeaf (link : MasterLink) (handle leaf : Word)
  | rescanHead (link : MasterLink)
  -- turner commands
  | turnRequest (direction : Word)
  | picked (count : Word)
  | swept
  | clear
  | aborted
  | turnerFault
  -- station commands: the volume account
  | openVolume (partSequence leaves : Word) (volumeCeiling : BitVec 48) (sideCeiling : BitVec 32)
      (length : Word) (chars : List Word)
  | closeVolume
  | discardVolume (handle : Word)
  | forgetVolume (handle : Word)
  | readVolume (handle : Word)
  | readSummary (handle : Word)
  | setCeilings (volumeCeiling : BitVec 48) (sideCeiling : BitVec 32)
  | setSideMarks (leaf face declared skip : Word)
  | markRescan (leaf face : Word)
  | setOpening (opening : Word)
  | leafRewrite (words : List Word)
  -- station commands: the slot store
  | accept (slot : Word)
  | reject (slot : Word)
  | readSlot (slot : Word)
  | clearCounters
  -- station commands: the cradle
  | lower
  | raise
  | resume
  | setTimers (travel settle grant frameLeft frameRight : Word)
  -- station commands: lighting and capture
  | setLighting (fields : List Word)
  | readLighting
  | expose (sides leftPanel rightPanel : Word)
  | setCorrection (words : List Word)
  | readCapture (head : Word)
  | darkSeed (head : Word)
  | darkCapture (heads : Word)
  | flatCapture (heads target : Word)
  | gainLoad (head channel first count : Word) (entries : List Word)
  | readGain (head channel first count : Word)
  | readCalibration (head : Word)
  | setMeasurement (words : List Word)
  | setKeep (mode motionTest degradedTest : Word)
  | readMeasurement (head : Word)
  -- station commands: runs and delivery
  | run (count : Word)
  | seek (opening : Word)
  | stopRun
  | readRun
  | setDelivery (format auto : Word)
  | deliver (slot : Word)
  | cancelDelivery
  | readDelivery
  -- station commands: faults and reset
  | readFaults
  | clearFaults
  | partialReset
  -- events
  | pinReset
  | initPassEnd
  | stopLineAsserted
  | stopLineReleased
  | pedalAsserted
  | pedalReleased
  | downSwitchAsserted
  | upSwitchAsserted
  | switchCleared (switch : PlatenSwitch)
  | pressureLost
  | pressureReturned
  | travelTimerExpiry
  | settleTimerExpiry
  | grantTimerExpiry
  | frameTimerExpiry (head : Head)
  | strobePulseEnd (bank : Bank)
  | lineStart (head : Head)
  | sample (head : Head) (value : BitVec 12)
  | lineEnd (head : Head)
  | frameEnd (head : Head)
  | imagePortWordTaken
  deriving DecidableEq, Repr

end Sys2Proof
end

