-- ==== Sys2Proof/Decode.lean ====
section
/-! DEFINITION. The commands that words spell by the table's bits. -/
namespace Sys2Proof

/-- No row of the table of steps gives bits: a command of the block is a row with operands, and the
words of the links are operands of their own rows (12 R187). So no word spells a row. -/
def decodeTableWord (_nbits _w : Nat) : Option Instr := none

end Sys2Proof
end

