-- ==== Sys2Proof/Config.lean ====
section
/-! DEFINITION. What the part fixes for good, and the free values: what the manual does not state. -/
namespace Sys2Proof.Config

/-- Leaf records of one handle (R1). -/
def leavesPerHandle : Nat := 2048

/-- Bytes of one slot of capture memory (R25). -/
def slotBytes : Nat := 536870912

/-- Bytes from one line of a slot to the next (R25). -/
def lineStride : Nat := 36864

/-- Columns of the gain table per head and channel (R133). -/
def gainColumns : Nat := 6144

/-- Masked columns of a line (R104). -/
def maskedColumns : Nat := 32

/-- Unity gain (R118). -/
def unityGain : Nat := 16384

/-- Places of the rescan list (R79). -/
def rescanPlaces : Nat := 64

/-- FREE VALUE (log 14). When both captures of a run's exposure were aborted, R159 does not say
whose head and cause the end record's detail names: true for LEFT. Applied to the draw counter. -/
opaque bothAbortedNamesLeft : Nat → Bool

/-- FREE VALUE (log 13). R195 codes a flag word 0 or 1; what another value of SET SIDE MARKS' skip
word writes is not stated. Applied to the draw counter and the word. -/
opaque oddFlagWord : Nat → Word → Bool

end Sys2Proof.Config
end

