-- ==== Sys2Proof/Machine/State.lean ====
section
/-! DEFINITION. The state of the block as plain data, and the state right after a pin reset. -/
namespace Sys2Proof.Machine

/-! ### Small shapes -/

/-- One of a thing per head, or per page position. -/
structure PerHead (α : Type) where
  left : α
  right : α
  deriving DecidableEq, Repr

/-- A place in the volume table (R1). -/
inductive Handle where
  | zero
  | one
  deriving DecidableEq, Repr

/-- One of a thing per volume handle. -/
structure PerHandle (α : Type) where
  zero : α
  one : α
  deriving DecidableEq, Repr

/-- One of a thing per link. -/
structure PerLink (α : Type) where
  station : α
  turner : α
  deriving DecidableEq, Repr

/-- One of a thing per strobe bank, in the order of R86. -/
structure PerBank (α : Type) where
  lu : α
  ll : α
  ru : α
  rl : α
  deriving DecidableEq, Repr

/-- A colour channel (R104). -/
inductive Channel where
  | r
  | g
  | b
  deriving DecidableEq, Repr

/-- One of a thing per channel. -/
structure PerChannel (α : Type) where
  r : α
  g : α
  b : α
  deriving DecidableEq, Repr

/-- A face of a leaf, coded RECTO 0 and VERSO 1 (R195). -/
inductive Face where
  | recto
  | verso
  deriving DecidableEq, Repr

/-- A side of the volume: a leaf and a face (00, "Faces and sides"). -/
structure Side where
  leaf : Nat
  face : Face
  deriving DecidableEq, Repr

/-- A slot number (R25). -/
abbrev SlotNo := Fin 8

/-- A rectangle of a frame. -/
structure Box where
  left : Nat
  top : Nat
  width : Nat
  height : Nat
  deriving DecidableEq, Repr

/-- The check status of a word that does not read clean (R178). -/
inductive WordErr where
  | single
  | uncorrectable
  deriving DecidableEq, Repr

/-! ### Links -/

/-- The refusal reasons, in the order of the table under "Refusals" (00), read row by row. -/
inductive Reason where
  | notOwner | badParam | linkError | initializing | late
  | cradleState | halted | runActive
  | noVolume | tableFull | undecided | endOfVolume | openingUncertain | recordDamaged
  | exposureInFlight | slotsFull | doseLimit | nothingToCapture | generationLimit
  | nothingToDeliver | busy
  deriving DecidableEq, Repr

/-- What a block answers to a command: accepted with its result words, or refused (R188). -/
inductive Reply where
  | accepted (words : List Word)
  | refused (reason : Reason)
  deriving DecidableEq, Repr

/-- The commands of the two links (R189). -/
inductive Cmd where
  | readStatus | takeNotices | clearLinkFlags | readLeaf | rescanHead
  | turnRequest | picked | swept | clear | aborted | turnerFault
  | openVolume | closeVolume | discardVolume | forgetVolume | readVolume | readSummary
  | setCeilings | setSideMarks | markRescan | setOpening | leafRewrite
  | accept | reject | readSlot | clearCounters
  | lower | raise | resume | setTimers
  | setLighting | readLighting | expose
  | setCorrection | readCapture | darkSeed | darkCapture | flatCapture
  | gainLoad | readGain | readCalibration
  | setMeasurement | setKeep | readMeasurement
  | run | seek | stopRun | readRun
  | setDelivery | deliver | cancelDelivery | readDelivery
  | readFaults | clearFaults | partialReset
  deriving DecidableEq, Repr

/-- The receive state of a link: at the start of a transaction or with its command taken; collecting
a command's words, oldest first; or discarding words until the next command word (R188, R191). -/
inductive Receive where
  | idle
  | collecting (cmd : Cmd) (words : List Word)
  | discarding
  deriving DecidableEq, Repr

/-- A word of a response: its status word (`none` is ACCEPTED, `some` a refusal), or a result word. -/
inductive ResponseWord where
  | status (refusal : Option Reason)
  | data (word : Word)
  deriving DecidableEq, Repr

/-- The five sticky flags of a link (R191). -/
structure LinkFlags where
  parity : Bool
  abandoned : Bool
  unknown : Bool
  wrongLink : Bool
  late : Bool
  deriving DecidableEq, Repr

/-- One link controller (R187 to R192). -/
structure Link where
  rx : Receive
  /-- what is still to be clocked out of the pending response; empty when none is pending -/
  response : List ResponseWord
  /-- the notice set, bit i for the kind in place i of the link's list (R192) -/
  notices : Word
  flags : LinkFlags
  /-- the last whole word the part sent on this link (log 12) -/
  lastSent : Option (BitVec 18)
  deriving DecidableEq, Repr

/-- The station link's notice kinds, in the order of R192. -/
inductive StationNotice where
  | initDone | captureDone | undecided | deliveryDone | runEnded | cradleHalted | fault
  | darkDrift | rescanAdded | volumeDrained | openingChanged
  deriving DecidableEq, Repr

/-- The turner link's notice kinds, in the order of R192. -/
inductive TurnerNotice where
  | initDone | turnWanted | grantCancelled | cradleHalted | cradleOpen
  deriving DecidableEq, Repr

/-! ### Account memory -/

/-- The check status of the words of a block of account memory that is no leaf record: how many hold a
single error and how many cannot be corrected (R178, log 6). -/
structure WordErrors where
  single : Nat
  uncorrectable : Nat
  deriving DecidableEq, Repr

/-- The state of a volume record (R1). -/
inductive VolumeState where
  | empty | active | draining | closed
  deriving DecidableEq, Repr

/-- The twelve wrapping counters of a volume record (R4). -/
structure VolumeCounters where
  attempts : BitVec 32
  kept : BitVec 32
  discarded : BitVec 32
  superseded : BitVec 32
  delivered : BitVec 32
  missedSides : BitVec 32
  blankSides : BitVec 32
  damagedLeaves : BitVec 32
  misfires : BitVec 32
  doublePicks : BitVec 32
  turns : BitVec 32
  rescanOverflow : BitVec 32
  deriving DecidableEq, Repr

/-- A volume record (R3); its handle is its place in the table. -/
structure Volume where
  state : VolumeState
  serial : Nat
  shelfMark : List Byte
  partSequence : Nat
  leaves : Nat
  opening : Nat
  uncertain : Bool
  discarded : Bool
  dose : Nat
  volumeCeiling : Nat
  sideCeiling : Nat
  highestSideDose : Nat
  counters : VolumeCounters
  /-- the check status of the record's words (R178, log 6) -/
  errors : WordErrors
  deriving DecidableEq, Repr

/-- The statistics of a capture (R19, R26). -/
structure CaptureStats where
  crop : Option Box
  meanGray : Nat
  clipCount : Nat
  blank : Bool
  degraded : Bool
  motion : Bool
  overlong : Bool
  deriving DecidableEq, Repr

/-- The settled part of a panel entry (R19). -/
inductive Settled where
  | none
  | kept (stats : CaptureStats)
  | delivered (stats : CaptureStats)
  deriving DecidableEq, Repr

/-- The state of a pending part (R19). -/
inductive PendingState where
  | exposing
  | provisional
  deriving DecidableEq, Repr

/-- The pending part of a panel entry, naming the slot that holds its capture (R19). -/
structure PendingPart where
  state : PendingState
  slot : SlotNo
  deriving DecidableEq, Repr

/-- A panel entry (R19). -/
structure PanelEntry where
  number : Nat
  generation : Nat
  settled : Settled
  pending : Option PendingPart
  deriving DecidableEq, Repr

/-- A face record (R18). -/
structure FaceRecord where
  declared : Nat
  skip : Bool
  missed : Bool
  rescan : Bool
  blank : Bool
  dose : Nat
  panels : List PanelEntry
  deriving DecidableEq, Repr

/-- The kind of a leaf record, in the order of R16. -/
inductive LeafKind where
  | frontBoard
  | leaf
  | backBoard
  deriving DecidableEq, Repr

/-- The words of a leaf record that a read may touch, by what they hold (log 5). -/
inductive LeafWord where
  | header
  | marks (face : Face)
  | dose (face : Face)
  | list (face : Face)
  | panel (face : Face) (number : Nat)
  | stats (face : Face) (number : Nat)
  deriving DecidableEq, Repr

/-- A leaf record with what the part keeps beside it (R16, R179). The leaf index is the record's
place in account memory, and a face the kind does not have is held and never used. -/
structure LeafRecord where
  kind : LeafKind
  recto : FaceRecord
  verso : FaceRecord
  valid : Bool
  keptBlank : Nat
  keptRescanRecto : Bool
  keptRescanVerso : Bool
  errors : List (LeafWord × WordErr)
  deriving DecidableEq, Repr

/-! ### Slot store -/

/-- The state of a slot (R26). -/
inductive SlotState where
  | free | filling | provisional | kept | delivering
  deriving DecidableEq, Repr

/-- The owner of a slot (R26). -/
structure Owner where
  handle : Handle
  leaf : Nat
  face : Face
  panel : Nat
  deriving DecidableEq, Repr

/-- A slot table entry (R26), with the base duration of the snapshot the capture was taken
with (R98, log 19). -/
structure Slot where
  state : SlotState
  owner : Option Owner
  head : Option Head
  w : Nat
  h : Nat
  generation : Nat
  lines : Nat
  queued : Bool
  stats : CaptureStats
  baseDuration : Nat
  deriving DecidableEq, Repr

/-! ### Cradle and turns -/

/-- The cradle states, in the order of R47; `opened` is OPEN. -/
inductive CradleState where
  | opened | turnGranted | lowering | settling | ready | raising | halted
  deriving DecidableEq, Repr

/-- The halt causes, in the order of R58. -/
inductive HaltCause where
  | stop | travelTimeout | interlockCheck | turner | turnTimeout | partialReset | pinReset
  deriving DecidableEq, Repr

/-- The cradle interlock (chapter 3). A timer is `none` when stopped and holds the milliseconds it
was started with while it runs (log 7). -/
structure Cradle where
  state : CradleState
  parityGood : Bool
  haltCause : HaltCause
  raisePending : Bool
  grantPending : Bool
  travelTimer : Option Nat
  settleTimer : Option Nat
  grantTimer : Option Nat
  upSwitch : Bool
  downSwitch : Bool
  pressure : Bool
  stopLine : Bool
  pedal : Bool
  deriving DecidableEq, Repr

/-- The phases of the turn record, in the order of R63. -/
inductive TurnPhase where
  | none | pending | granted | cleared | aborted | cancelled | faulted
  deriving DecidableEq, Repr

/-- A turn direction (R63, R64). -/
inductive Direction where
  | forward
  | back
  deriving DecidableEq, Repr

/-- The turn record (R63). -/
structure TurnRecord where
  phase : TurnPhase
  direction : Option Direction
  picked : Option Nat
  swept : Bool
  deriving DecidableEq, Repr

/-- The TIMERS settings, in milliseconds (R49). -/
structure Timers where
  travel : Nat
  settle : Nat
  grant : Nat
  frame : PerHead Nat
  deriving DecidableEq, Repr

/-! ### Lighting -/

/-- The level and weight of a bank (R87). -/
structure BankSetting where
  level : Nat
  weight : Nat
  deriving DecidableEq, Repr

/-- The LIGHTING settings (R87). -/
structure LightingSettings where
  banks : PerBank BankSetting
  dMin : Nat
  dMax : Nat
  base : PerHead Nat
  target : Nat
  auto : PerHead Bool
  deriving DecidableEq, Repr

/-- What one bank of a position is fired with (R94). -/
structure BankShot where
  duration : Nat
  level : Nat
  deriving DecidableEq, Repr

/-- The lighting values latched for a page position (R89): base duration, the levels and weights of
its upper and lower bank, the two durations of R90 and the planned dose of R91. -/
structure LightLatch where
  base : Nat
  upper : BankSetting
  lower : BankSetting
  upperDuration : Nat
  lowerDuration : Nat
  planned : Nat
  deriving DecidableEq, Repr

/-- The kind of a capture (R106). -/
inductive CaptureKind where
  | normal | dark | flat
  deriving DecidableEq, Repr

/-- The last firing record (R94): per lit position its two banks as fired (upper, lower) and its
planned dose; for a NORMAL exposure the volume serial and the sides charged. -/
structure FiringRecord where
  kind : CaptureKind
  lit : PerHead (Option (BankShot × BankShot × Nat))
  charged : Option (Nat × PerHead (Option Side))
  deriving DecidableEq, Repr

/-- The last dose refusal record (R93); per lit position its planned dose and the sum compared. -/
structure DoseRefusal where
  failedLeft : Bool
  failedRight : Bool
  failedVolume : Bool
  positions : PerHead (Option (Nat × Nat))
  planned : Nat
  sum : Nat
  volumeCeiling : Nat
  sideCeiling : Nat
  deriving DecidableEq, Repr

/-- The outcome of an auto-exposure update (R99, R100); an update holds D' and D_new. -/
inductive UpdateOutcome where
  | updated (ideal new : Nat)
  | holdDark
  | holdBlank
  deriving DecidableEq, Repr

/-- The last auto-exposure update record (R99, R100). -/
structure UpdateRecord where
  position : Head
  mean : Nat
  base : Nat
  outcome : UpdateOutcome
  deriving DecidableEq, Repr

/-- The lighting unit (chapter 5). A bank is `none` when DARK, else LIT with its remaining time. -/
structure Lighting where
  settings : LightingSettings
  strobes : PerBank (Option Nat)
  holds : PerHead Nat
  lastFiring : Option FiringRecord
  lastRefusal : Option DoseRefusal
  lastUpdate : Option UpdateRecord
  deriving DecidableEq, Repr

/-! ### Capture, calibration, measurement -/

/-- The dark modes (R117, R123). -/
inductive DarkMode where
  | fixed | running | trimmed
  deriving DecidableEq, Repr

/-- The CORRECTION settings of a head (R105, R124). -/
structure Correction where
  w : Nat
  h : Nat
  darkMode : DarkMode
  fixed : PerChannel Nat
  offset : Nat
  winLo : Nat
  winHi : Nat
  deriving DecidableEq, Repr

/-- The MEASUREMENT settings of a head (R140). -/
structure Measurement where
  left : Nat
  top : Nat
  width : Nat
  height : Nat
  threshold : Nat
  runLength : Nat
  guardColumns : Nat
  guardLines : Nat
  blankMinimum : Nat
  clipLimit : Nat
  deriving DecidableEq, Repr

/-- The auto-keep mode (R148). -/
inductive AutoKeep where
  | gate
  | decideAll
  deriving DecidableEq, Repr

/-- The KEEP settings (R148). -/
structure KeepSettings where
  mode : AutoKeep
  motionTest : Bool
  degradedTest : Bool
  deriving DecidableEq, Repr

/-- The snapshot of a capture (R110); `flatTarget` is the T of a FLAT CAPTURE (R129). -/
structure Snapshot where
  correction : Correction
  running : PerChannel Nat
  measurement : Measurement
  keep : KeepSettings
  light : LightLatch
  flatTarget : Nat
  deriving DecidableEq, Repr

/-- Why a capture was aborted, in the order of R106. -/
inductive AbortCause where
  | lineLength | shortFrame | timeout | halt | partialReset
  deriving DecidableEq, Repr

/-- The verdict on a capture (R149). -/
inductive Verdict where
  | keep
  | hold
  deriving DecidableEq, Repr

/-- How a capture stands or ended (R106); a calibration capture ends with no verdict. -/
inductive CaptureOutcome where
  | inFlight
  | ended (verdict : Option Verdict)
  | aborted (cause : AbortCause)
  deriving DecidableEq, Repr

/-- A side and a panel of it (R106). -/
structure SidePanel where
  leaf : Nat
  face : Face
  panel : Nat
  deriving DecidableEq, Repr

/-- A head's capture record (R106). -/
structure CaptureRecord where
  kind : CaptureKind
  slot : Option SlotNo
  side : Option SidePanel
  lines : Nat
  overlong : Bool
  clipCount : Nat
  substitutions : Nat
  outcome : CaptureOutcome
  deriving DecidableEq, Repr

/-- The head state (R106). -/
inductive HeadPhase where
  | idle
  | capturing
  deriving DecidableEq, Repr

/-- The port line state, with the count of samples of an open line (R106). -/
inductive PortState where
  | between
  | inLine (samples : Nat)
  deriving DecidableEq, Repr

/-- The sticky error flags of a head (R106). -/
structure HeadFlags where
  lineLength : Bool
  shortFrame : Bool
  timeout : Bool
  deriving DecidableEq, Repr

/-- One channel's figures of a dark update; `held` is the outcome HELD (R123, R126). -/
structure DarkFigure where
  mean : Nat
  candidate : Nat
  before : Nat
  after : Nat
  held : Bool
  deriving DecidableEq, Repr

/-- The last flat capture record (R132). -/
structure FlatRecord where
  target : Nat
  width : Nat
  dead : Nat
  limited : Nat
  clipCount : Nat
  deriving DecidableEq, Repr

/-- The working record of the page measurement unit (R139). -/
structure WorkRecord where
  measuring : Bool
  window : Box
  sum : Nat
  linesMeasured : Nat
  contentLines : Nat
  firstContent : Option Nat
  lastContent : Option Nat
  leastLeft : Option Nat
  greatestRight : Option Nat
  motion : Bool
  degraded : Bool
  deriving DecidableEq, Repr

/-- The last measurement record (R150). -/
structure MeasurementRecord where
  linesMeasured : Nat
  contentLines : Nat
  firstContent : Option Nat
  lastContent : Option Nat
  leastLeft : Option Nat
  greatestRight : Option Nat
  window : Box
  mean : Nat
  crop : Option Box
  blank : Bool
  degraded : Bool
  motion : Bool
  clipCount : Nat
  failedMotion : Bool
  failedClip : Bool
  failedDegraded : Bool
  verdict : Verdict
  deriving DecidableEq, Repr

/-- One head's half of the capture pipeline, of calibration memory and of the page measurement unit.
`lineBuffer` holds the stored values of the open line, newest first. -/
structure HeadUnit where
  phase : HeadPhase
  port : PortState
  capture : Option CaptureRecord
  snapshot : Option Snapshot
  frameTimer : Option Nat
  lineBuffer : List Word
  darkSums : PerChannel Nat
  activeSums : PerChannel Nat
  flatSums : List Nat
  flags : HeadFlags
  stray : Nat
  correction : Correction
  running : PerChannel Nat
  driftCount : Nat
  lastDarkUpdate : Option (PerChannel DarkFigure)
  lastDarkCapture : Option (PerChannel Nat)
  lastFlatCapture : Option FlatRecord
  measurement : Measurement
  work : WorkRecord
  lastMeasurement : Option MeasurementRecord
  deriving DecidableEq, Repr

/-- A gain entry (R133); an uncorrectable entry's value cannot be known, and none of it is used. -/
structure GainEntry where
  value : Word
  error : Option WordErr
  deriving DecidableEq, Repr

/-! ### Run control -/

/-- The run states, in the order of R153. -/
inductive RunState where
  | idle | preparing | exposing | deciding | slotWait | turning | seeking
  deriving DecidableEq, Repr

/-- The kind of a run (R153). -/
inductive RunKind where
  | run
  | seek
  deriving DecidableEq, Repr

/-- Why a run ended, in the order of R164. -/
inductive EndReason where
  | countDone | stopped | foldout | endOfVolume | dose | fault | halted | uncertain | arrived
  | noProgress
  deriving DecidableEq, Repr

/-- The detail of a run's end (R164). -/
inductive EndDetail where
  | none
  | capture (head : Head) (cause : AbortCause)
  | refusal (reason : Reason)
  deriving DecidableEq, Repr

/-- The last end record of the run controller (R164). -/
structure RunEnd where
  reason : EndReason
  detail : EndDetail
  opening : Nat
  deriving DecidableEq, Repr

/-- The run record (R153). -/
structure RunRecord where
  state : RunState
  kind : Option RunKind
  remaining : Nat
  cycles : Nat
  target : Option Nat
  budget : Nat
  turnsTaken : Nat
  wanted : Option Direction
  stopRequested : Bool
  slots : PerHead (Option SlotNo)
  lastEnd : Option RunEnd
  pedalRefusal : Option Reason
  deriving DecidableEq, Repr

/-! ### Delivery -/

/-- The image formats (R168). -/
inductive Format where
  | w16 | w8 | g16 | g8
  deriving DecidableEq, Repr

/-- The DELIVERY settings (R168). -/
structure DeliverySettings where
  format : Format
  auto : Bool
  deriving DecidableEq, Repr

/-- How a delivery ended (R174), in the order of R199. -/
inductive DeliveryStatus where
  | complete | cancelled | damaged
  deriving DecidableEq, Repr

/-- The phases of a delivery under way; the engine is IDLE when there is none (R170). -/
inductive DeliveryPhase where
  | header | pixels | trailer
  deriving DecidableEq, Repr

/-- The current delivery record (R170). `toTake` holds the words of the phase that the port has still
to take: the first of them is the word on the port. `trailer` holds the trailer words once they are
fixed. -/
structure Delivery where
  phase : DeliveryPhase
  slot : SlotNo
  owner : Owner
  generation : Nat
  format : Format
  box : Box
  linesSent : Nat
  wordsSent : Nat
  wordInLine : Nat
  crc : PortWord
  damaged : Bool
  cancelled : Bool
  toTake : List PortWord
  trailer : List PortWord
  deriving DecidableEq, Repr

/-- The last trailer record (R174). -/
structure TrailerRecord where
  slot : SlotNo
  owner : Owner
  generation : Nat
  format : Format
  status : DeliveryStatus
  linesSent : Nat
  wordsSent : Nat
  crc : PortWord
  deriving DecidableEq, Repr

/-- The delivery engine (chapter 10). -/
structure DeliveryUnit where
  settings : DeliverySettings
  queue : List SlotNo
  current : Option Delivery
  emptyDeliver : Bool
  lastTrailer : Option TrailerRecord
  deriving DecidableEq, Repr

/-! ### Check unit -/

/-- The fault classes, in the order of R198. -/
inductive FaultClass where
  | recoveredAccount | recoveredGain | recoveredCapture | leafDamage | gainSubstitute | dataDamage
  | headError | headTimeout | travelTimeout | turnTimeout | turner | stop | interlockCheck
  deriving DecidableEq, Repr

/-- The fault record (R186). -/
structure FaultRecord where
  cls : FaultClass
  volume : Option (Handle × Nat)
  leaf : Option Nat
  head : Option Head
  channel : Option Channel
  column : Option Nat
  slot : Option SlotNo
  deriving DecidableEq, Repr

/-- The fault report (R186); the counts stand in the class order of R198. -/
structure FaultReport where
  record : Option FaultRecord
  counts : Vector Nat 13
  skipped : Nat
  deriving DecidableEq, Repr

/-! ### The whole block -/

/-- The state of the block. -/
@[ext]
structure State where
  /-- the commands waiting, first in first out -/
  pending : List Instr
  links : PerLink Link
  initRunning : Bool
  serial : Nat
  vols : PerHandle Volume
  /-- leaf records by place, canonical (log 3) -/
  leaves : List (Nat × LeafRecord)
  rescan : List Side
  /-- the check status of the words of the rescan list (R178, log 6) -/
  rescanErrors : WordErrors
  slots : Vector Slot 8
  /-- capture memory by byte address, canonical (log 1) -/
  memory : List Host.Cell
  /-- the 64-bit words of capture memory that do not read clean, by word number -/
  memoryErrors : List (Nat × WordErr)
  full : Bool
  requests : BitVec 16
  cradle : Cradle
  turn : TurnRecord
  timers : Timers
  light : Lighting
  heads : PerHead HeadUnit
  overlap : Bool
  /-- gain entries by place, canonical (log 3) -/
  gain : List (Nat × GainEntry)
  keep : KeepSettings
  run : RunRecord
  delivery : DeliveryUnit
  faults : FaultReport
  /-- the leaf records, by place, whose update the event in progress has skipped (log 20) -/
  skippedNow : List Nat
  /-- how many free values have been drawn (log 14) -/
  draws : Nat
  deriving DecidableEq, Repr

/-- Why a step stops with a fault. The part never stops: what the manual calls faults are entries of
its fault report. No meaning raises this one, which is safe. -/
inductive Fault where
  | stuck
  deriving DecidableEq, Repr

/-- Why a step has no meaning. `notModelled` is raised by an arm of `exec` whose command has no
meaning yet, which is safe; every command has one. -/
inductive Refusal where
  | notModelled (mnemonic : String)
  deriving DecidableEq, Repr

/-! ### Reset values -/

/-- Cleared capture statistics (R29). -/
def CaptureStats.cleared : CaptureStats :=
  { crop := none, meanGray := 0, clipCount := 0, blank := false, degraded := false, motion := false,
    overlong := false }

/-- A cleared slot table entry (R29). -/
def Slot.cleared : Slot :=
  { state := .free, owner := none, head := none, w := 0, h := 0, generation := 0, lines := 0,
    queued := false, stats := CaptureStats.cleared, baseDuration := 0 }

/-- A block of which every word reads clean: what a whole write leaves (R178). -/
def WordErrors.clean : WordErrors := { single := 0, uncorrectable := 0 }

/-- The counters of a volume just opened, or of no volume (R4, R11). -/
def VolumeCounters.zero : VolumeCounters :=
  { attempts := 0, kept := 0, discarded := 0, superseded := 0, delivered := 0, missedSides := 0,
    blankSides := 0, damagedLeaves := 0, misfires := 0, doublePicks := 0, turns := 0,
    rescanOverflow := 0 }

/-- An EMPTY volume record (R11). -/
def Volume.empty : Volume :=
  { state := .empty, serial := 0, shelfMark := [], partSequence := 0, leaves := 0, opening := 0,
    uncertain := false, discarded := false, dose := 0, volumeCeiling := 0, sideCeiling := 0,
    highestSideDose := 0, counters := VolumeCounters.zero, errors := WordErrors.clean }

/-- A face record as OPEN VOLUME writes it (R18). -/
def FaceRecord.fresh : FaceRecord :=
  { declared := 1, skip := false, missed := false, rescan := false, blank := false, dose := 0,
    panels := [] }

/-- A leaf record of a kind as OPEN VOLUME and the initialisation pass write it (R7, R23). -/
def LeafRecord.fresh (kind : LeafKind) : LeafRecord :=
  { kind := kind, recto := FaceRecord.fresh, verso := FaceRecord.fresh, valid := true, keptBlank := 0,
    keptRescanRecto := false, keptRescanVerso := false, errors := [] }

/-- A gain entry as the initialisation pass writes it (R137). -/
def GainEntry.unity : GainEntry := { value := 16384, error := none }

/-- A link after pin reset (R193). -/
def Link.reset : Link :=
  { rx := .idle, response := [], notices := 0,
    flags := { parity := false, abandoned := false, unknown := false, wrongLink := false,
               late := false },
    lastSent := none }

/-- The interlock after pin reset (R62), with the given input levels: up switch, down switch,
pressure, stop line, pedal. -/
def Cradle.reset (up down pressure stop pedal : Bool) : Cradle :=
  { state := .halted, parityGood := true, haltCause := .pinReset, raisePending := false,
    grantPending := false, travelTimer := none, settleTimer := none, grantTimer := none,
    upSwitch := up, downSwitch := down, pressure := pressure, stopLine := stop, pedal := pedal }

/-- The turn record after pin reset (R85). -/
def TurnRecord.reset : TurnRecord :=
  { phase := .none, direction := none, picked := none, swept := false }

/-- The TIMERS defaults (R49). -/
def Timers.default : Timers :=
  { travel := 2000, settle := 300, grant := 6000, frame := ⟨1500, 1500⟩ }

/-- The LIGHTING defaults (R87). -/
def LightingSettings.default : LightingSettings :=
  { banks := ⟨⟨160, 128⟩, ⟨160, 128⟩, ⟨160, 128⟩, ⟨160, 128⟩⟩, dMin := 1000, dMax := 40000,
    base := ⟨8000, 8000⟩, target := 40000, auto := ⟨true, true⟩ }

/-- The lighting unit after pin reset (R103). -/
def Lighting.reset : Lighting :=
  { settings := LightingSettings.default, strobes := ⟨none, none, none, none⟩, holds := ⟨0, 0⟩,
    lastFiring := none, lastRefusal := none, lastUpdate := none }

/-- The CORRECTION defaults (R105, R124). -/
def Correction.default : Correction :=
  { w := 6144, h := 8192, darkMode := .fixed, fixed := ⟨0, 0, 0⟩, offset := 0, winLo := 0,
    winHi := 1023 }

/-- The MEASUREMENT defaults (R140). -/
def Measurement.default : Measurement :=
  { left := 1536, top := 2048, width := 3072, height := 4096, threshold := 6000, runLength := 3,
    guardColumns := 16, guardLines := 16, blankMinimum := 8, clipLimit := 100000 }

/-- The KEEP defaults (R148). -/
def KeepSettings.default : KeepSettings :=
  { mode := .gate, motionTest := true, degradedTest := true }

/-- A working record IDLE with its figures cleared (R152). -/
def WorkRecord.cleared : WorkRecord :=
  { measuring := false, window := ⟨0, 0, 0, 0⟩, sum := 0, linesMeasured := 0, contentLines := 0,
    firstContent := none, lastContent := none, leastLeft := none, greatestRight := none,
    motion := false, degraded := false }

/-- A head's half of the image side after pin reset (R122, R138, R152); the line buffer, the accumulators and
the snapshot, which no rule resets, are empty, 0 and none (log 38). -/
def HeadUnit.reset : HeadUnit :=
  { phase := .idle, port := .between, capture := none, snapshot := none, frameTimer := none,
    lineBuffer := [], darkSums := ⟨0, 0, 0⟩, activeSums := ⟨0, 0, 0⟩, flatSums := [],
    flags := ⟨false, false, false⟩, stray := 0, correction := Correction.default,
    running := ⟨0, 0, 0⟩, driftCount := 0, lastDarkUpdate := none, lastDarkCapture := none,
    lastFlatCapture := none, measurement := Measurement.default, work := WorkRecord.cleared,
    lastMeasurement := none }

/-- The run controller after pin reset (R166). -/
def RunRecord.reset : RunRecord :=
  { state := .idle, kind := none, remaining := 0, cycles := 0, target := none, budget := 0,
    turnsTaken := 0, wanted := none, stopRequested := false, slots := ⟨none, none⟩, lastEnd := none,
    pedalRefusal := none }

/-- The delivery engine after pin reset (R168, R177). -/
def DeliveryUnit.reset : DeliveryUnit :=
  { settings := ⟨.w16, true⟩, queue := [], current := none, emptyDeliver := false,
    lastTrailer := none }

/-- The fault report after pin reset (R186). -/
def FaultReport.reset : FaultReport :=
  { record := none, counts := Vector.replicate 13 0, skipped := 0 }

/-- The block right after a pin reset (R193): every piece at its pin-reset value, the initialisation
pass running. Input levels clear (log 2); capture memory, leaf records and gain entries list
nothing (log 1, log 3). -/
def State.reset : State :=
  { pending := [], links := ⟨Link.reset, Link.reset⟩, initRunning := true, serial := 0,
    vols := ⟨Volume.empty, Volume.empty⟩, leaves := [], rescan := [],
    rescanErrors := WordErrors.clean,
    slots := Vector.replicate 8 Slot.cleared, memory := [], memoryErrors := [], full := false,
    requests := 0, cradle := Cradle.reset false false false false false, turn := TurnRecord.reset,
    timers := Timers.default, light := Lighting.reset, heads := ⟨HeadUnit.reset, HeadUnit.reset⟩,
    overlap := false, gain := [], keep := KeepSettings.default, run := RunRecord.reset,
    delivery := DeliveryUnit.reset, faults := FaultReport.reset, skippedNow := [], draws := 0 }

end Sys2Proof.Machine
end

