-- ==== Sys2Proof/Machine/Operands.lean ====
section
/-! DEFINITION. How parameter and result words are coded (12 R189, R195, R197): the command codes, their
owners and parameter counts, numbers of one to four words, enumerations, and the words of LEAF REWRITE. -/
namespace Sys2Proof.Machine

/-! ### The command table (R189) -/

/-- The code of a command (R189). -/
def Cmd.code : Cmd → Nat
  | .readStatus => 0x0001 | .takeNotices => 0x0002 | .clearLinkFlags => 0x0003
  | .readLeaf => 0x0004 | .rescanHead => 0x0005
  | .turnRequest => 0x0010 | .picked => 0x0011 | .swept => 0x0012 | .clear => 0x0013
  | .aborted => 0x0014 | .turnerFault => 0x0015
  | .openVolume => 0x0020 | .closeVolume => 0x0021 | .discardVolume => 0x0022
  | .forgetVolume => 0x0023 | .readVolume => 0x0024 | .readSummary => 0x0025
  | .setCeilings => 0x0026 | .setSideMarks => 0x0027 | .markRescan => 0x0028
  | .setOpening => 0x0029 | .leafRewrite => 0x002A
  | .accept => 0x0030 | .reject => 0x0031 | .readSlot => 0x0032 | .clearCounters => 0x0033
  | .lower => 0x0040 | .raise => 0x0041 | .resume => 0x0042 | .setTimers => 0x0043
  | .setLighting => 0x0050 | .readLighting => 0x0051 | .expose => 0x0052
  | .setCorrection => 0x0060 | .readCapture => 0x0061 | .darkSeed => 0x0062
  | .darkCapture => 0x0063 | .flatCapture => 0x0064 | .gainLoad => 0x0065
  | .readGain => 0x0066 | .readCalibration => 0x0067
  | .setMeasurement => 0x0070 | .setKeep => 0x0071 | .readMeasurement => 0x0072
  | .run => 0x0080 | .seek => 0x0081 | .stopRun => 0x0082 | .readRun => 0x0083
  | .setDelivery => 0x0090 | .deliver => 0x0091 | .cancelDelivery => 0x0092
  | .readDelivery => 0x0093
  | .readFaults => 0x00A0 | .clearFaults => 0x00A1 | .partialReset => 0x00A2

/-- Every command of R189, in the order of its table. -/
def Cmd.all : List Cmd :=
  [.readStatus, .takeNotices, .clearLinkFlags, .readLeaf, .rescanHead, .turnRequest, .picked,
   .swept, .clear, .aborted, .turnerFault, .openVolume, .closeVolume, .discardVolume] ++
  [.forgetVolume, .readVolume, .readSummary, .setCeilings, .setSideMarks, .markRescan, .setOpening,
   .leafRewrite, .accept, .reject, .readSlot, .clearCounters, .lower, .raise] ++
  [.resume, .setTimers, .setLighting, .readLighting, .expose, .setCorrection, .readCapture,
   .darkSeed, .darkCapture, .flatCapture, .gainLoad, .readGain, .readCalibration] ++
  [.setMeasurement, .setKeep, .readMeasurement, .run, .seek, .stopRun, .readRun, .setDelivery,
   .deliver, .cancelDelivery, .readDelivery, .readFaults, .clearFaults, .partialReset]

/-- The command a command word's data bits name, if any (R189). -/
def Cmd.ofCode (w : Word) : Option Cmd := Cmd.all.find? (fun c => c.code = w.toNat)

/-- Whether a link may issue a command (R191, "Commands are owned as follows"). -/
def Cmd.ownedBy (link : MasterLink) : Cmd → Bool
  | .readStatus | .takeNotices | .clearLinkFlags | .readLeaf | .rescanHead => true
  | .turnRequest | .picked | .swept | .clear | .aborted | .turnerFault => link = .turner
  | _ => link = .station

/-- The six settings commands (R190). -/
def Cmd.isSetting : Cmd → Bool
  | .setLighting | .setCorrection | .setMeasurement | .setTimers | .setDelivery | .setKeep => true
  | _ => false

/-- The number of parameter words of a command whose number is fixed, or of its part before a
length word (R189). -/
def Cmd.arity : Cmd → Nat
  | .readLeaf => 2 | .turnRequest => 1 | .picked => 1
  | .openVolume => 8 | .discardVolume => 1 | .forgetVolume => 1 | .readVolume => 1
  | .readSummary => 1 | .setCeilings => 5 | .setSideMarks => 4 | .markRescan => 2
  | .setOpening => 1 | .leafRewrite => 3
  | .accept => 1 | .reject => 1 | .readSlot => 1
  | .setTimers => 5 | .setLighting => 15 | .expose => 3
  | .setCorrection => 10 | .readCapture => 1 | .darkSeed => 1 | .darkCapture => 1
  | .flatCapture => 2 | .gainLoad => 4 | .readGain => 4 | .readCalibration => 1
  | .setMeasurement => 12 | .setKeep => 3 | .readMeasurement => 1
  | .run => 1 | .seek => 1 | .setDelivery => 2 | .deliver => 1
  | _ => 0

/-! ### Parameters -/

/-- Parameter word i, from 0; a word not there reads 0. -/
def arg (ps : List Word) (i : Nat) : Nat := (ps.getD i 0).toNat

/-- A 32-bit parameter at word i, most significant word first (R195). -/
def arg32 (ps : List Word) (i : Nat) : Nat := arg ps i * 65536 + arg ps (i + 1)

/-- A 48-bit parameter at word i, most significant word first (R195). -/
def arg48 (ps : List Word) (i : Nat) : Nat := arg32 ps i * 65536 + arg ps (i + 2)

/-- A volume handle parameter (R1). -/
def handleOf : Nat → Option Handle
  | 0 => some .zero
  | 1 => some .one
  | _ => none

/-- A head parameter, 0 LEFT and 1 RIGHT (R195). -/
def headOf : Nat → Option Head
  | 0 => some .left
  | 1 => some .right
  | _ => none

/-- A face parameter, 0 RECTO and 1 VERSO (R195). -/
def faceOf : Nat → Option Face
  | 0 => some .recto
  | 1 => some .verso
  | _ => none

/-- A channel parameter, 0 R, 1 G, 2 B (R134). -/
def channelOf : Nat → Option Channel
  | 0 => some .r
  | 1 => some .g
  | 2 => some .b
  | _ => none

/-- A slot parameter, 0 to 7 (R38). -/
def slotOf (n : Nat) : Option SlotNo := if h : n < 8 then some ⟨n, h⟩ else none

/-- A leaf kind word (R197, R16). -/
def kindOf : Nat → Option LeafKind
  | 0 => some .frontBoard
  | 1 => some .leaf
  | 2 => some .backBoard
  | _ => none

/-- The three words of a 48-bit value, most significant first (R195). -/
def split48 (v : BitVec 48) : List Word :=
  [v.extractLsb' 32 16, v.extractLsb' 16 16, v.extractLsb' 0 16]

/-- The two words of a 32-bit value, most significant first (R195). -/
def split32 (v : BitVec 32) : List Word := [v.extractLsb' 16 16, v.extractLsb' 0 16]

/-! ### Result words -/

/-- A number of one word (R195). -/
def num16 (n : Nat) : List Word := [BitVec.ofNat 16 n]

/-- A number of two words, most significant first (R195). -/
def num32 (n : Nat) : List Word := [BitVec.ofNat 16 (n / 65536), BitVec.ofNat 16 n]

/-- A number of three words, most significant first (R195). -/
def num48 (n : Nat) : List Word := BitVec.ofNat 16 (n / 4294967296) :: num32 n

/-- A number of four words, most significant first (R195). -/
def num64 (n : Nat) : List Word := BitVec.ofNat 16 (n / 281474976710656) :: num48 n

/-- A flag word (R195). -/
def flagWord (b : Bool) : List Word := [if b then 1 else 0]

/-- A record or field that may be absent: 0, or 1 and its words (R195). -/
def optWords {α : Type} (words : α → List Word) : Option α → List Word
  | none => [0]
  | some a => 1 :: words a

/-- An enumeration that may be absent: 0, or its place from 1 (R195). -/
def optEnum {α : Type} (place : α → Nat) : Option α → List Word
  | none => [0]
  | some a => num16 (place a + 1)

/-- A list: its length and then its elements (R195). -/
def listWords {α : Type} (words : α → List Word) (l : List α) : List Word :=
  num16 l.length ++ l.flatMap words

/-! Places of the enumerations, from 0, in the tables and lists that define them (R195). -/

def Handle.place : Handle → Nat
  | .zero => 0
  | .one => 1

def headPlace : Head → Nat
  | .left => 0
  | .right => 1

def Face.place : Face → Nat
  | .recto => 0
  | .verso => 1

def Channel.place : Channel → Nat
  | .r => 0
  | .g => 1
  | .b => 2

def VolumeState.place : VolumeState → Nat
  | .empty => 0
  | .active => 1
  | .draining => 2
  | .closed => 3

def LeafKind.place : LeafKind → Nat
  | .frontBoard => 0
  | .leaf => 1
  | .backBoard => 2

def SlotState.place : SlotState → Nat
  | .free => 0
  | .filling => 1
  | .provisional => 2
  | .kept => 3
  | .delivering => 4

def CradleState.place : CradleState → Nat
  | .opened => 0
  | .turnGranted => 1
  | .lowering => 2
  | .settling => 3
  | .ready => 4
  | .raising => 5
  | .halted => 6

def HaltCause.place : HaltCause → Nat
  | .stop => 0
  | .travelTimeout => 1
  | .interlockCheck => 2
  | .turner => 3
  | .turnTimeout => 4
  | .partialReset => 5
  | .pinReset => 6

def TurnPhase.place : TurnPhase → Nat
  | .none => 0
  | .pending => 1
  | .granted => 2
  | .cleared => 3
  | .aborted => 4
  | .cancelled => 5
  | .faulted => 6

def Direction.place : Direction → Nat
  | .forward => 0
  | .back => 1

def CaptureKind.place : CaptureKind → Nat
  | .normal => 0
  | .dark => 1
  | .flat => 2

def DarkMode.place : DarkMode → Nat
  | .fixed => 0
  | .running => 1
  | .trimmed => 2

def AutoKeep.place : AutoKeep → Nat
  | .gate => 0
  | .decideAll => 1

def AbortCause.place : AbortCause → Nat
  | .lineLength => 0
  | .shortFrame => 1
  | .timeout => 2
  | .halt => 3
  | .partialReset => 4

def Verdict.place : Verdict → Nat
  | .keep => 0
  | .hold => 1

def RunState.place : RunState → Nat
  | .idle => 0
  | .preparing => 1
  | .exposing => 2
  | .deciding => 3
  | .slotWait => 4
  | .turning => 5
  | .seeking => 6

def RunKind.place : RunKind → Nat
  | .run => 0
  | .seek => 1

def EndReason.place : EndReason → Nat
  | .countDone => 0
  | .stopped => 1
  | .foldout => 2
  | .endOfVolume => 3
  | .dose => 4
  | .fault => 5
  | .halted => 6
  | .uncertain => 7
  | .arrived => 8
  | .noProgress => 9

def Format.place : Format → Nat
  | .w16 => 0
  | .w8 => 1
  | .g16 => 2
  | .g8 => 3

def DeliveryStatus.place : DeliveryStatus → Nat
  | .complete => 0
  | .cancelled => 1
  | .damaged => 2

/-- The engine's phase: IDLE, HEADER, PIXELS, TRAILER from 0 (R170). -/
def DeliveryPhase.place : DeliveryPhase → Nat
  | .header => 1
  | .pixels => 2
  | .trailer => 3

/-- A refusal reason's number, from 1 (R188). -/
def Reason.number : Reason → Nat
  | .notOwner => 1 | .badParam => 2 | .linkError => 3 | .initializing => 4 | .late => 5
  | .cradleState => 6 | .halted => 7 | .runActive => 8
  | .noVolume => 9 | .tableFull => 10 | .undecided => 11 | .endOfVolume => 12
  | .openingUncertain => 13 | .recordDamaged => 14
  | .exposureInFlight => 15 | .slotsFull => 16 | .doseLimit => 17 | .nothingToCapture => 18
  | .generationLimit => 19
  | .nothingToDeliver => 20 | .busy => 21

/-- A fault class's number, from 0 (R198). -/
def FaultClass.place : FaultClass → Fin 13
  | .recoveredAccount => 0 | .recoveredGain => 1 | .recoveredCapture => 2 | .leafDamage => 3
  | .gainSubstitute => 4 | .dataDamage => 5 | .headError => 6 | .headTimeout => 7
  | .travelTimeout => 8 | .turnTimeout => 9 | .turner => 10 | .stop => 11 | .interlockCheck => 12

/-! ### The words of LEAF REWRITE (R181, R197) -/

/-- A panel group as supplied; the settled state word is kept as it came. -/
structure SuppliedPanel where
  number : Nat
  generation : Nat
  settled : Nat
  stats : CaptureStats
  deriving DecidableEq, Repr

/-- A face group as supplied; `panelCount` is the word P. -/
structure SuppliedFace where
  declared : Nat
  skip : Bool
  missed : Bool
  rescan : Bool
  blank : Bool
  dose : Nat
  panelCount : Nat
  panels : List SuppliedPanel
  deriving DecidableEq, Repr

/-- The statistics group: flags, the crop when its bit says so, mean gray, clip count; `none` while
words are still to come. Bits of the flags word that name no flag are ignored (log 39). -/
def parseStats : List Word → Option (CaptureStats × List Word)
  | flags :: rest =>
    let mk (crop : Option Box) (m hi lo : Word) : CaptureStats :=
      { crop := crop, meanGray := m.toNat, clipCount := hi.toNat * 65536 + lo.toNat,
        blank := flags.getLsbD 0, degraded := flags.getLsbD 1, motion := flags.getLsbD 2,
        overlong := flags.getLsbD 3 }
    if flags.getLsbD 4 then
      match rest with
      | l :: t :: w :: h :: m :: hi :: lo :: rest =>
        some (mk (some ⟨l.toNat, t.toNat, w.toNat, h.toNat⟩) m hi lo, rest)
      | _ => none
    else
      match rest with
      | m :: hi :: lo :: rest => some (mk none m hi lo, rest)
      | _ => none
  | [] => none

/-- A panel group: number, generation, settled state, and the statistics when that is not NONE. -/
def parsePanel : List Word → Option (SuppliedPanel × List Word)
  | n :: g :: st :: rest =>
    if st = 0 then some (⟨n.toNat, g.toNat, 0, CaptureStats.cleared⟩, rest)
    else
      match parseStats rest with
      | some (stats, rest) => some (⟨n.toNat, g.toNat, st.toNat, stats⟩, rest)
      | none => none
  | _ => none

/-- So many panel groups. -/
def parsePanels : Nat → List Word → Option (List SuppliedPanel × List Word)
  | 0, ws => some ([], ws)
  | n + 1, ws =>
    match parsePanel ws with
    | some (p, ws) =>
      match parsePanels n ws with
      | some (ps, ws) => some (p :: ps, ws)
      | none => none
    | none => none

/-- A face group. A P above 4 ends the command at its word (R181). Bits of the flags word that name no mark
are ignored (log 39). -/
def parseFace : List Word → Option (SuppliedFace × List Word)
  | d :: f :: hi :: lo :: p :: rest =>
    let face (ps : List SuppliedPanel) : SuppliedFace :=
      { declared := d.toNat, skip := f.getLsbD 0, missed := f.getLsbD 1, rescan := f.getLsbD 2,
        blank := f.getLsbD 3, dose := hi.toNat * 65536 + lo.toNat, panelCount := p.toNat,
        panels := ps }
    if 4 < p.toNat then some (face [], rest)
    else
      match parsePanels p.toNat rest with
      | some (ps, rest) => some (face ps, rest)
      | none => none
  | _ => none

/-- The faces a kind word gives, RECTO before VERSO: one for a board, two otherwise (R181). -/
def facesOfKindWord (kind : Nat) : List Face :=
  match kindOf kind with
  | some .frontBoard => [.verso]
  | some .backBoard => [.recto]
  | _ => [.recto, .verso]

/-- The face groups, in order; none follows a group with a P above 4. -/
def parseFaces : List Face → List Word → Option (List (Face × SuppliedFace) × List Word)
  | [], ws => some ([], ws)
  | f :: fs, ws =>
    match parseFace ws with
    | some (g, ws) =>
      if 4 < g.panelCount then some ([(f, g)], ws)
      else
        match parseFaces fs ws with
        | some (gs, ws) => some ((f, g) :: gs, ws)
        | none => none
    | none => none

/-- What LEAF REWRITE's words carry, once they are complete. -/
structure SuppliedLeaf where
  handle : Nat
  leaf : Nat
  kind : Nat
  faces : List (Face × SuppliedFace)
  deriving DecidableEq, Repr

/-- LEAF REWRITE's words with those left over, or `none` while words are still to come. -/
def parseRewrite : List Word → Option (SuppliedLeaf × List Word)
  | h :: l :: k :: rest =>
    match parseFaces (facesOfKindWord k.toNat) rest with
    | some (fs, rest) => some (⟨h.toNat, l.toNat, k.toNat, fs⟩, rest)
    | none => none
  | _ => none

/-! ### When a command has all its words -/

/-- Whether the collected words complete a command (R188, R189). -/
def Cmd.complete (c : Cmd) (ws : List Word) : Bool :=
  match c with
  | .openVolume =>
    decide (8 ≤ ws.length) &&
      (let l := arg ws 7
       if 1 ≤ l ∧ l ≤ 40 then decide (8 + l ≤ ws.length) else true)
  | .gainLoad =>
    decide (4 ≤ ws.length) &&
      (let n := arg ws 3
       if 1 ≤ n ∧ n ≤ 256 then decide (4 + n ≤ ws.length) else true)
  | .leafRewrite => (parseRewrite ws).isSome
  | c => decide (c.arity ≤ ws.length)

end Sys2Proof.Machine
end

