-- ==== Sys2Proof/Machine/Flags.lean ====
section
/-! DEFINITION. Bit-field words and flag computations: the parity of a link word (12 R187), the status
word (R188), the notice bits and the attention line (R192), and packing bits into words (R196 to R199). -/
namespace Sys2Proof.Machine

/-- A flag at bit i of a word under construction. -/
def bitAt (i : Nat) (b : Bool) : Nat := if b then 2 ^ i else 0

/-- A value at bit i upward of a word under construction. -/
def fieldAt (i n : Nat) : Nat := n * 2 ^ i

/-- Whether a word holds an odd number of ones. -/
def oddOnes (w : Word) : Bool :=
  (List.range 16).foldl (fun odd i => xor odd (w.getLsbD i)) false

/-- Bit 0 of a link word: set so that its 18 bits hold an even number of ones (R187). -/
def parityBit (kind : Bool) (data : Word) : Bool := xor kind (oddOnes data)

/-- Whether a received word's parity holds (R187, R191). -/
def parityHolds (kind : Bool) (data : Word) (parity : Bool) : Bool :=
  parity == parityBit kind data

/-- The 18 bits of a word the part sends: kind, data, parity (R187). -/
def frameWord (kind : Bool) (data : Word) : BitVec 18 :=
  BitVec.ofBool kind ++ data ++ BitVec.ofBool (parityBit kind data)

/-- The outcome field of a status word: ACCEPTED 1, REFUSED 2 (R188). -/
def outcomeCode : Option Reason → Nat
  | none => 1
  | some _ => 2

/-- A status word's data bits: outcome, notices waiting, refusal reason (R188); the bits given to no field are
0 (log 39). -/
def statusWord (refusal : Option Reason) (notices : Bool) : Word :=
  BitVec.ofNat 16 (fieldAt 14 (outcomeCode refusal) + bitAt 8 notices +
    (match refusal with
     | none => 0
     | some r => r.number))

/-- A status word with outcome NONE (R188). -/
def statusNone (notices : Bool) : Word := BitVec.ofNat 16 (bitAt 8 notices)

/-- The place of a kind in the station link's list (R192). -/
def StationNotice.place : StationNotice → Nat
  | .initDone => 0 | .captureDone => 1 | .undecided => 2 | .deliveryDone => 3 | .runEnded => 4
  | .cradleHalted => 5 | .fault => 6 | .darkDrift => 7 | .rescanAdded => 8 | .volumeDrained => 9
  | .openingChanged => 10

/-- The place of a kind in the turner link's list (R192). -/
def TurnerNotice.place : TurnerNotice → Nat
  | .initDone => 0 | .turnWanted => 1 | .grantCancelled => 2 | .cradleHalted => 3
  | .cradleOpen => 4

/-- A notice set with the kind at a place added (R192). -/
def addNotice (set : Word) (place : Nat) : Word := set ||| BitVec.ofNat 16 (2 ^ place)

/-- A notice set with the kind at a place removed (R164, R192). -/
def removeNotice (set : Word) (place : Nat) : Word := set &&& ~~~(BitVec.ofNat 16 (2 ^ place))

/-- The attention line: asserted while the notice set is not empty (R192). -/
def Link.attention (l : Link) : Bool := l.notices != 0

/-- The five sticky flags as READ STATUS reports them (R196, word 9). -/
def LinkFlags.bits (f : LinkFlags) : Nat :=
  bitAt 0 f.parity + bitAt 1 f.abandoned + bitAt 2 f.unknown + bitAt 3 f.wrongLink + bitAt 4 f.late

/-- The four marks of a face as READ LEAF reports them (R197); the bits given to no field are 0 (log 39). -/
def FaceRecord.markBits (f : FaceRecord) : Nat :=
  bitAt 0 f.skip + bitAt 1 f.missed + bitAt 2 f.rescan + bitAt 3 f.blank

/-- The four flags of capture statistics, with the crop bit (R197); the other bits are 0 (log 39). -/
def CaptureStats.flagBits (c : CaptureStats) : Nat :=
  bitAt 0 c.blank + bitAt 1 c.degraded + bitAt 2 c.motion + bitAt 3 c.overlong +
    bitAt 4 c.crop.isSome

end Sys2Proof.Machine
end

