-- ==== Sys2Proof/Machine/Ops.lean ====
section
/-! DEFINITION. The named operations over the state that the commands share: the sparse memories,
notices, the fault report, volume and leaf records with their check codes, the rescan list, and
freeing a slot. -/
namespace Sys2Proof.Machine

/-! ### One of a thing per head, handle, link, bank, channel -/

def PerHead.get {α : Type} (p : PerHead α) : Head → α
  | .left => p.left
  | .right => p.right

def PerHead.set {α : Type} (p : PerHead α) (h : Head) (a : α) : PerHead α :=
  match h with
  | .left => { p with left := a }
  | .right => { p with right := a }

def PerHandle.get {α : Type} (p : PerHandle α) : Handle → α
  | .zero => p.zero
  | .one => p.one

def PerHandle.set {α : Type} (p : PerHandle α) (h : Handle) (a : α) : PerHandle α :=
  match h with
  | .zero => { p with zero := a }
  | .one => { p with one := a }

def PerLink.get {α : Type} (p : PerLink α) : MasterLink → α
  | .station => p.station
  | .turner => p.turner

def PerLink.set {α : Type} (p : PerLink α) (l : MasterLink) (a : α) : PerLink α :=
  match l with
  | .station => { p with station := a }
  | .turner => { p with turner := a }

def PerBank.get {α : Type} (p : PerBank α) : Bank → α
  | .lu => p.lu
  | .ll => p.ll
  | .ru => p.ru
  | .rl => p.rl

def PerBank.set {α : Type} (p : PerBank α) (b : Bank) (a : α) : PerBank α :=
  match b with
  | .lu => { p with lu := a }
  | .ll => { p with ll := a }
  | .ru => { p with ru := a }
  | .rl => { p with rl := a }

def PerChannel.get {α : Type} (p : PerChannel α) : Channel → α
  | .r => p.r
  | .g => p.g
  | .b => p.b

def PerChannel.set {α : Type} (p : PerChannel α) (c : Channel) (a : α) : PerChannel α :=
  match c with
  | .r => { p with r := a }
  | .g => { p with g := a }
  | .b => { p with b := a }

def PerChannel.map {α β : Type} (f : Channel → α → β) (p : PerChannel α) : PerChannel β :=
  ⟨f .r p.r, f .g p.g, f .b p.b⟩

/-! ### Arithmetic of the notation chapter -/

/-- clamp(x, lo, hi) (00, "Arithmetic"). -/
def clamp (x lo hi : Nat) : Nat := if x < lo then lo else if hi < x then hi else x

/-- A 16-bit saturating counter's next value (00, "Arithmetic"). -/
def incSat (n : Nat) : Nat := if n < 65535 then n + 1 else 65535

/-- A 16-bit saturating counter raised k times. -/
def addSat (n k : Nat) : Nat := min (n + k) 65535

/-! ### Sparse memories in canonical form: keys rising, no entry at the default -/

/-- What a key reads as. -/
def Sparse.get {α : Type} (d : α) : List (Nat × α) → Nat → α
  | [], _ => d
  | (k, v) :: m, x => if k = x then v else Sparse.get d m x

/-- A write; writing the default removes the entry. -/
def Sparse.set {α : Type} [DecidableEq α] (d : α) : List (Nat × α) → Nat → α → List (Nat × α)
  | [], x, v => if v = d then [] else [(x, v)]
  | (k, w) :: m, x, v =>
    if x < k then (if v = d then (k, w) :: m else (x, v) :: (k, w) :: m)
    else if x = k then (if v = d then m else (x, v) :: m)
    else (k, w) :: Sparse.set d m x v

/-- Removing every entry whose key the test names: those keys read as the default afterwards. -/
def Sparse.erase {α : Type} (m : List (Nat × α)) (p : Nat → Bool) : List (Nat × α) :=
  m.filter (fun e => !p e.1)

/-- The canonical form. -/
def Sparse.wf {α : Type} [DecidableEq α] (d : α) : List (Nat × α) → Bool
  | [] => true
  | [(_, v)] => v ≠ d
  | (k, v) :: (k', v') :: m => decide (k < k') && decide (v ≠ d) && Sparse.wf d ((k', v') :: m)

/-- What a byte of capture memory that nothing has written reads as (DESIGN CHOICE, log 1). -/
def unwrittenByte : Byte := 0

/-- One byte of capture memory. -/
def readByte (m : List Host.Cell) (a : Nat) : Byte := Sparse.get unwrittenByte m a

/-- Writing one byte of capture memory. -/
def writeByte (m : List Host.Cell) (a : Nat) (b : Byte) : List Host.Cell :=
  Sparse.set unwrittenByte m a b

/-- Writing bytes at rising addresses. -/
def writeBytes : List Host.Cell → Nat → List Byte → List Host.Cell
  | m, _, [] => m
  | m, a, b :: bs => writeBytes (writeByte m a b) (a + 1) bs

/-- The canonical form of capture memory. -/
def Memory.wf (m : List Host.Cell) : Bool := Sparse.wf unwrittenByte m

/-! ### Links: notices -/

def State.link (s : State) (l : MasterLink) : Link := s.links.get l

def State.setLink (s : State) (l : MasterLink) (x : Link) : State :=
  { s with links := s.links.set l x }

/-- Add a kind to the station link's notice set (R192). -/
def State.postStation (s : State) (n : StationNotice) : State :=
  { s with links := { s.links with station :=
      { s.links.station with notices := addNotice s.links.station.notices n.place } } }

/-- Add a kind to the turner link's notice set (R192). -/
def State.postTurner (s : State) (n : TurnerNotice) : State :=
  { s with links := { s.links with turner :=
      { s.links.turner with notices := addNotice s.links.turner.notices n.place } } }

/-- Remove a kind from the turner link's notice set (R164). -/
def State.unpostTurner (s : State) (n : TurnerNotice) : State :=
  { s with links := { s.links with turner :=
      { s.links.turner with notices := removeNotice s.links.turner.notices n.place } } }

/-! ### The check unit (R186) -/

/-- A fault record that holds its class alone. -/
def FaultRecord.plain (c : FaultClass) : FaultRecord :=
  { cls := c, volume := none, leaf := none, head := none, channel := none, column := none,
    slot := none }

/-- Raise a class's count k times, saturating (R186). -/
def FaultReport.raise (f : FaultReport) (c : FaultClass) (k : Nat) : FaultReport :=
  { f with counts := f.counts.set c.place.val (addSat f.counts[c.place] k) c.place.isLt }

/-- Report corrected words: their class's count rises and nothing else changes (R178, R186). -/
def State.recovered (s : State) (c : FaultClass) (k : Nat) : State :=
  { s with faults := s.faults.raise c k }

/-- Report a fault: its count rises, the record is overwritten, FAULT goes to the station (R186). -/
def State.report (s : State) (r : FaultRecord) : State :=
  { s with faults := { s.faults.raise r.cls 1 with record := some r } }.postStation .fault

/-! ### The volume table (R1 to R5) -/

def State.vol (s : State) (h : Handle) : Volume := s.vols.get h

/-- The check status of a block after a read: no single error is left (R178). -/
def WordErrors.corrected (e : WordErrors) : WordErrors := { e with single := 0 }

/-- A volume record whose single errors have been corrected and written back (R178). -/
def Volume.corrected (v : Volume) : Volume := { v with errors := v.errors.corrected }

/-- A read of a volume record tests its words: those with a single error are corrected, written back
and counted, and those that cannot be corrected stay and are used as they stand (R178, log 6). -/
def State.readVolume (s : State) (h : Handle) : State :=
  if (s.vol h).errors.single = 0 then s
  else
    { s with vols := s.vols.set h (s.vol h).corrected }.recovered .recoveredAccount
      (s.vol h).errors.single

/-- A whole write of a volume record: every word gets fresh check bits (R178). -/
def State.putVol (s : State) (h : Handle) (v : Volume) : State :=
  { s with vols := s.vols.set h { v with errors := WordErrors.clean } }

/-- A write of part of a volume record, which reads it first (R178). -/
def State.modVol (s : State) (h : Handle) (f : Volume → Volume) : State :=
  let s := s.readVolume h
  { s with vols := s.vols.set h (f (s.vols.get h)) }

/-- Change a volume's counters. -/
def State.count (s : State) (h : Handle) (f : VolumeCounters → VolumeCounters) : State :=
  s.modVol h fun v => { v with counters := f v.counters }

/-- The handle of the ACTIVE volume, if there is one (R1). To find it is no read of a volume record: the model's
choice (log 6). -/
def State.active (s : State) : Option Handle :=
  if s.vols.zero.state = .active then some .zero
  else if s.vols.one.state = .active then some .one
  else none

/-- Read the record of the ACTIVE volume, if there is one (R178). -/
def State.readActive (s : State) : State :=
  match s.active with
  | none => s
  | some h => s.readVolume h

/-! ### Openings and sides (R17) -/

/-- The side a head images at an opening (R17). -/
def sideAt (k : Nat) : Head → Side
  | .left => ⟨k, .verso⟩
  | .right => ⟨k + 1, .recto⟩

/-- The opening that shows a side (R17, R83). -/
def openingOf (d : Side) : Nat :=
  match d.face with
  | .verso => d.leaf
  | .recto => d.leaf - 1

/-- Whether a volume of n leaves has a side (R16). -/
def sideExists (n : Nat) (d : Side) : Bool :=
  decide (d.leaf ≤ n + 1) && !(d == ⟨0, .recto⟩) && !(d == ⟨n + 1, .verso⟩)

/-- The kind of leaf number i in a volume of n leaves (R16). -/
def kindAt (n i : Nat) : LeafKind :=
  if i = 0 then .frontBoard else if i = n + 1 then .backBoard else .leaf

/-- The faces a leaf of a kind has, RECTO before VERSO (R16, R197). -/
def LeafKind.faces : LeafKind → List Face
  | .frontBoard => [.verso]
  | .leaf => [.recto, .verso]
  | .backBoard => [.recto]

/-! ### Leaf records and their check codes (R178 to R180) -/

/-- A handle's place: 0 or 1 times the leaf records of a handle. -/
def leafKey (h : Handle) (leaf : Nat) : Nat := h.place * Config.leavesPerHandle + leaf

def State.leaf (s : State) (h : Handle) (n : Nat) : LeafRecord :=
  Sparse.get (LeafRecord.fresh .leaf) s.leaves (leafKey h n)

def State.setLeaf (s : State) (h : Handle) (n : Nat) (r : LeafRecord) : State :=
  { s with leaves := Sparse.set (LeafRecord.fresh .leaf) s.leaves (leafKey h n) r }

def LeafRecord.face (r : LeafRecord) : Face → FaceRecord
  | .recto => r.recto
  | .verso => r.verso

/-- Put the kept number of blank flags and the kept rescan flags in step with the record (R179). -/
def LeafRecord.keepMarks (r : LeafRecord) : LeafRecord :=
  { r with
    keptBlank := (if r.recto.blank then 1 else 0) + (if r.verso.blank then 1 else 0)
    keptRescanRecto := r.recto.rescan
    keptRescanVerso := r.verso.rescan }

def LeafRecord.setFace (r : LeafRecord) (f : Face) (x : FaceRecord) : LeafRecord :=
  match f with
  | .recto => { r with recto := x }.keepMarks
  | .verso => { r with verso := x }.keepMarks

/-- The kept rescan flag of a face (R179). -/
def LeafRecord.keptRescan (r : LeafRecord) : Face → Bool
  | .recto => r.keptRescanRecto
  | .verso => r.keptRescanVerso

def State.face (s : State) (h : Handle) (d : Side) : FaceRecord := (s.leaf h d.leaf).face d.face

def State.setFace (s : State) (h : Handle) (d : Side) (x : FaceRecord) : State :=
  s.setLeaf h d.leaf ((s.leaf h d.leaf).setFace d.face x)

/-- A leaf record found uncorrectable: invalid, counted damaged, reported (R179). -/
def State.damageLeaf (s : State) (h : Handle) (n : Nat) : State :=
  ((s.setLeaf h n { s.leaf h n with valid := false }).count h
      fun c => { c with damagedLeaves := c.damagedLeaves + 1 }).report
    { FaultRecord.plain .leafDamage with volume := some (h, (s.vol h).serial), leaf := some n }

/-- Read words of a leaf record: whether the record is valid afterwards. An invalid record is not
read. An uncorrectable word among them makes it invalid; else the single errors among them are
corrected, written back and counted (R178, R179; log 5, log 26). -/
def State.readLeaf (s : State) (h : Handle) (n : Nat) (ws : List LeafWord) : Bool × State :=
  let r := s.leaf h n
  if !r.valid then (false, s)
  else if r.errors.any (fun e => e.2 == .uncorrectable && ws.contains e.1) then
    (false, s.damageLeaf h n)
  else if r.errors.any (fun e => ws.contains e.1) then
    (true, (s.setLeaf h n { r with errors := r.errors.filter (fun e => !ws.contains e.1) }).recovered
      .recoveredAccount (r.errors.countP (fun e => ws.contains e.1)))
  else (true, s)

/-- An update of a leaf record is skipped: the count rises once for each record in one event
(R180, log 20). -/
def State.skipUpdate (s : State) (h : Handle) (n : Nat) : State :=
  if s.skippedNow.contains (leafKey h n) then s
  else { s with faults := { s.faults with skipped := incSat s.faults.skipped }
                skippedNow := leafKey h n :: s.skippedNow }

/-- Update a face record, reading the words the update is a part of; a record that is invalid or
found so is left alone and the update counted skipped (R178, R180). Tells whether it was made. -/
def State.updateFace (s : State) (h : Handle) (d : Side) (ws : List LeafWord)
    (f : FaceRecord → FaceRecord) : Bool × State :=
  match s.readLeaf h d.leaf ws with
  | (true, s) => (true, s.setFace h d (f (s.face h d)))
  | (false, s) => (false, s.skipUpdate h d.leaf)

/-! ### Panel entries (R19, R20) -/

def Settled.isSettled : Settled → Bool
  | .none => false
  | .kept _ => true
  | .delivered _ => true

def Settled.isKept : Settled → Bool
  | .kept _ => true
  | _ => false

def Settled.isDelivered : Settled → Bool
  | .delivered _ => true
  | _ => false

/-- A panel entry at its creation (R19). -/
def PanelEntry.fresh (p : Nat) : PanelEntry :=
  { number := p, generation := 0, settled := .none, pending := none }

/-- The entry of a panel, if it has been created. -/
def FaceRecord.panel? (f : FaceRecord) (p : Nat) : Option PanelEntry :=
  f.panels.find? (fun e => e.number = p)

/-- The entry of a panel, or the entry its creation would write. -/
def FaceRecord.panel (f : FaceRecord) (p : Nat) : PanelEntry := (f.panel? p).getD (PanelEntry.fresh p)

/-- Put an entry in its place in panel-number order (R19, R30). -/
def insertPanel (e : PanelEntry) : List PanelEntry → List PanelEntry
  | [] => [e]
  | x :: xs =>
    if e.number < x.number then e :: x :: xs
    else if e.number = x.number then e :: xs
    else x :: insertPanel e xs

/-- Change the entry of a panel, creating it if need be. -/
def FaceRecord.modPanel (f : FaceRecord) (p : Nat) (g : PanelEntry → PanelEntry) : FaceRecord :=
  { f with panels := insertPanel (g (f.panel p)) f.panels }

/-- Whether a panel is settled (R20). -/
def FaceRecord.isSettled (f : FaceRecord) (p : Nat) : Bool := (f.panel p).settled.isSettled

/-- Panels 1 to the declared count. -/
def FaceRecord.numbers (f : FaceRecord) : List Nat := (List.range f.declared).map (· + 1)

/-- Whether every one of panels 1 to the declared count is settled. -/
def FaceRecord.allSettled (f : FaceRecord) : Bool := f.numbers.all f.isSettled

/-- The side summary states, in the order of R20. -/
inductive Summary where
  | skipped | unseen | missed | partly | captured | complete
  deriving DecidableEq, Repr

def Summary.place : Summary → Nat
  | .skipped => 0
  | .unseen => 1
  | .missed => 2
  | .partly => 3
  | .captured => 4
  | .complete => 5

/-- The side summary state: the first condition of R20 that holds. -/
def FaceRecord.summary (f : FaceRecord) : Summary :=
  if f.skip then .skipped
  else if !(f.panels.any (fun e => e.settled.isSettled)) then (if f.missed then .missed else .unseen)
  else if !f.allSettled then .partly
  else if f.numbers.all (fun p => (f.panel p).settled.isDelivered) then .complete
  else .captured

/-- The words of a face that hold its marks, its list and its present panel entries. -/
def FaceRecord.panelWords (f : FaceRecord) (face : Face) : List LeafWord :=
  .marks face :: .list face :: f.panels.map (fun e => .panel face e.number)

/-- Every word of a face record. -/
def FaceRecord.allWords (f : FaceRecord) (face : Face) : List LeafWord :=
  .dose face :: f.panelWords face ++ f.panels.map (fun e => .stats face e.number)

/-! ### The rescan list (R79 to R81) -/

/-- A read of the rescan list tests its words, as a read of a volume record does (R178, log 6). -/
def State.readRescan (s : State) : State :=
  if s.rescanErrors.single = 0 then s
  else
    { s with rescanErrors := s.rescanErrors.corrected }.recovered .recoveredAccount
      s.rescanErrors.single

/-- The rescan list is emptied, a whole write (R178, log 6). -/
def State.emptyRescan (s : State) : State := { s with rescan := [], rescanErrors := WordErrors.clean }

/-- A side of a volume whose rescan flag has gone from clear to set joins the list or the overflow
of the ACTIVE volume (R80). -/
def State.joinRescan (s : State) (h : Handle) (d : Side) : State :=
  let s := s.readVolume h
  if (s.vol h).state = .active then
    let s := s.readRescan
    (if s.rescan.length < Config.rescanPlaces then { s with rescan := s.rescan ++ [d] }
     else s.count h fun c => { c with rescanOverflow := c.rescanOverflow + 1 }).postStation
      .rescanAdded
  else s

/-- A side of a volume whose rescan flag has gone from set to clear leaves them (R81). -/
def State.leaveRescan (s : State) (h : Handle) (d : Side) : State :=
  let s := s.readVolume h
  if (s.vol h).state = .active then
    let s := s.readRescan
    (if s.rescan.contains d then { s with rescan := s.rescan.filter (fun x => !(x == d)) }
     else s.count h fun c => { c with rescanOverflow := c.rescanOverflow - 1 })
  else s

/-- Set the rescan flag of a side whose record is valid and whose flag is clear. -/
def State.setRescan (s : State) (h : Handle) (d : Side) : State :=
  (s.setFace h d { s.face h d with rescan := true }).joinRescan h d

/-- Clear the rescan flag of a side whose record is valid, if it is set. -/
def State.clearRescan (s : State) (h : Handle) (d : Side) : State :=
  if (s.face h d).rescan then
    (s.setFace h d { s.face h d with rescan := false }).leaveRescan h d
  else s

/-! ### Slots (R26 to R29) -/

def State.slot (s : State) (i : SlotNo) : Slot := s.slots[i]

def State.setSlot (s : State) (i : SlotNo) (x : Slot) : State :=
  { s with slots := s.slots.set i.val x i.isLt }

/-- The slot numbers, lowest first. -/
def allSlots : List SlotNo := [0, 1, 2, 3, 4, 5, 6, 7]

/-- The lowest-numbered FREE slot (R30). -/
def State.freeSlot? (s : State) : Option SlotNo :=
  allSlots.find? (fun i => (s.slot i).state = .free)

/-- How many slots are FREE (R32). -/
def State.freeCount (s : State) : Nat := allSlots.countP (fun i => (s.slot i).state = .free)

/-- Whether a slot that is not FREE is owned by a volume. -/
def Slot.ownedBy (x : Slot) (h : Handle) : Bool :=
  match x.owner with
  | some o => decide (x.state ≠ .free) && decide (o.handle = h)
  | none => false

/-- Whether a volume owns a slot. -/
def State.ownsSlot (s : State) (h : Handle) : Bool := allSlots.any (fun i => (s.slot i).ownedBy h)

/-- Whether a slot holds a given panel. -/
def Slot.holds (x : Slot) (o : Owner) : Bool := decide (x.state ≠ .free) && x.owner == some o

/-- The side of an owner. -/
def Owner.side (o : Owner) : Side := ⟨o.leaf, o.face⟩

/-- A slot's entry is cleared and the slot leaves the delivery queue (R29). -/
def State.clearSlot (s : State) (i : SlotNo) : State :=
  { s.setSlot i Slot.cleared with
    delivery := { s.delivery with queue := s.delivery.queue.filter (fun j => !(j == i)) } }

/-- A DRAINING volume that owns no slot any more becomes CLOSED, with VOLUME_DRAINED (R9). -/
def State.drainIfLast (s : State) (h : Handle) : State :=
  let s := s.readVolume h
  if (s.vol h).state = .draining ∧ s.ownsSlot h = false then
    (s.modVol h fun v => { v with state := .closed }).postStation .volumeDrained
  else s

/-- A slot becomes FREE, which may be the last slot of a DRAINING volume (R29, R9). The report to the
run controller is made by the event, after its last freeing. -/
def State.freeSlot (s : State) (i : SlotNo) : State :=
  match (s.slot i).owner with
  | none => s.clearSlot i
  | some o => (s.clearSlot i).drainIfLast o.handle

/-- Whether a side of an opening of a volume has a held capture (R64 test 5, R157 step 1). -/
def State.heldAt (s : State) (h : Handle) (k : Nat) : Bool :=
  allSlots.any fun i =>
    decide ((s.slot i).state = .provisional) &&
      (match (s.slot i).owner with
       | some o => decide (o.handle = h) && (o.side == sideAt k .left || o.side == sideAt k .right)
       | none => false)

/-- Remove the pending part of a panel (R31, R35, R39), or count the update skipped. -/
def State.removePending (s : State) (o : Owner) : State :=
  (s.updateFace o.handle o.side [.list o.face, .panel o.face o.panel]
    fun f => f.modPanel o.panel fun e => { e with pending := none }).2

/-- A capture that ended without keep: its slot is freed, it is counted discarded, its panel's
pending part is removed (R31, R35, R39). -/
def State.discardSlot (s : State) (i : SlotNo) : State :=
  match (s.slot i).owner with
  | none => s.freeSlot i
  | some o =>
    ((s.count o.handle fun c => { c with discarded := c.discarded + 1 }).removePending o).freeSlot i

/-! ### Heads -/

def State.head (s : State) (h : Head) : HeadUnit := s.heads.get h

def State.modHead (s : State) (h : Head) (f : HeadUnit → HeadUnit) : State :=
  { s with heads := s.heads.set h (f (s.heads.get h)) }

/-- Whether an exposure of any kind is in flight (R48, R115). -/
def State.inFlight (s : State) : Bool :=
  s.heads.left.phase == .capturing || s.heads.right.phase == .capturing

/-! ### Free values, and the end of an event -/

/-- Count one drawn free value (log 14). -/
def State.drawn (s : State) : State := { s with draws := s.draws + 1 }

/-- The end of an event: the next event starts with no record's update counted skipped (log 20). -/
def done (s : State) : Host.Outcome State Fault Refusal := .next { s with skippedNow := [] }

end Sys2Proof.Machine
end

