-- ==== Sys2Proof/Machine/Halt.lean ====
section
/-! DEFINITION. Entering a cradle state, aborting a capture, ending a run, and the one shared operation
by which the cradle enters HALTED (03 R47, R57, R58; 04 R74 to R76; 06 R114; 09 R164; 11 R185). -/
namespace Sys2Proof.Machine

/-! ### The outputs of the interlock (R47) -/

/-- The down drive (R47). -/
def Cradle.downDrive (c : Cradle) : Bool :=
  match c.state with
  | .lowering | .settling | .ready => true
  | .opened | .turnGranted | .raising | .halted => false

/-- The up drive (R47). -/
def Cradle.upDrive (c : Cradle) : Bool :=
  match c.state with
  | .opened | .turnGranted | .raising => true
  | .lowering | .settling | .ready | .halted => false

/-- Whether strobes and triggers are permitted (R47). -/
def Cradle.permitted (c : Cradle) : Bool := c.state == .ready

/-- Whether the switches agree with a cradle state (R57). In LOWERING a down switch that becomes
asserted completes the travel before this is asked. -/
def switchesAgree (st : CradleState) (up down : Bool) : Bool :=
  match st with
  | .opened | .turnGranted => up && !down
  | .lowering => !down
  | .settling | .ready => !up && down
  | .raising => !(up && down)
  | .halted => true

/-! ### Ending a run (R164) -/

/-- The opening pointer of the ACTIVE volume, 0 when there is none. -/
def State.openingNow (s : State) : Nat :=
  match s.active with
  | some h => (s.vol h).opening
  | none => 0

/-- A run ends (R164). -/
def State.endRun (s : State) (reason : EndReason) (detail : EndDetail) : State :=
  let s := s.readActive
  (State.unpostTurner
    { s with run := { s.run with
        state := .idle, wanted := none, stopRequested := false, slots := ⟨none, none⟩
        lastEnd := some ⟨reason, detail, s.openingNow⟩ } }
    .turnWanted).postStation .runEnded

/-- A run in progress ends with reason HALTED (R58, R164). -/
def State.haltRun (s : State) : State :=
  if s.run.state = .idle then s else s.endRun .halted .none

/-! ### Aborting a capture (R114) -/

/-- The head error flag an abort cause sets (R114). -/
def HeadFlags.mark (f : HeadFlags) : AbortCause → HeadFlags
  | .lineLength => { f with lineLength := true }
  | .shortFrame => { f with shortFrame := true }
  | .timeout => { f with timeout := true }
  | .halt => f
  | .partialReset => f

/-- The fault an abort cause records (R114). -/
def AbortCause.fault : AbortCause → Option FaultClass
  | .lineLength => some .headError
  | .shortFrame => some .headError
  | .timeout => some .headTimeout
  | .halt => none
  | .partialReset => none

/-- The head's half of the pipeline at an abort: IDLE, BETWEEN, timer stopped, outcome ABORTED, all
that was gathered for the capture discarded (R114, R125, R139). -/
def HeadUnit.aborted (u : HeadUnit) (cause : AbortCause) : HeadUnit :=
  { u with
    phase := .idle
    port := .between
    frameTimer := none
    capture := u.capture.map fun c => { c with outcome := .aborted cause }
    lineBuffer := []
    darkSums := ⟨0, 0, 0⟩
    activeSums := ⟨0, 0, 0⟩
    flatSums := []
    work := WorkRecord.cleared
    flags := u.flags.mark cause }

/-- The abort of a head's capture, without the end of its exposure (R114, R35). At an IDLE head
there is nothing to abort. The slot is freed and its panel updated before the head fault is reported, so a
LEAF_DAMAGE found by that update comes first (log 35). -/
def State.abortCapture (s : State) (h : Head) (cause : AbortCause) : State :=
  if (s.head h).phase = .idle then s
  else
    let slot := (s.head h).capture.bind (·.slot)
    let s := s.modHead h (·.aborted cause)
    let s :=
      match slot with
      | some i => s.discardSlot i
      | none => s
    match cause.fault with
    | some c => s.report { FaultRecord.plain c with head := some h }
    | none => s

/-! ### Cradle states -/

/-- Enter a cradle state: its parity is written with it, the travel timer runs in LOWERING and
RAISING and the grant timer in TURN_GRANTED, each started afresh, the settle timer is stopped, and
every bank goes DARK outside READY (R47, R49, R86, R185). -/
def State.enter (s : State) (st : CradleState) : State :=
  { s with
    cradle := { s.cradle with
      state := st
      parityGood := true
      travelTimer := if st = .lowering ∨ st = .raising then some s.timers.travel else none
      settleTimer := none
      grantTimer := if st = .turnGranted then some s.timers.grant else none }
    light := { s.light with
      strobes := if st = .ready then s.light.strobes else ⟨none, none, none, none⟩ } }

/-- Set the uncertain flag of the ACTIVE volume, if there is one. -/
def State.setUncertain (s : State) : State :=
  match s.active with
  | some h => s.modVol h fun v => { v with uncertain := true }
  | none => s

/-- What a halt does to a turn: a held grant is cancelled, a waiting request ends (R58, R74 to R76).
TURNER FAULT gives FAULTED and doubts the opening after a PICKED alone. -/
def State.cancelTurn (s : State) (cause : HaltCause) : State :=
  let ended : TurnPhase := if cause = .turner then .faulted else .cancelled
  match s.turn.phase with
  | .granted =>
    let doubt := s.turn.picked.isSome || (decide (cause ≠ .turner) && s.turn.swept)
    let s := { s with turn := { s.turn with phase := ended } }.postTurner .grantCancelled
    if doubt then s.setUncertain else s
  | .pending => { s with turn := { s.turn with phase := ended } }
  | _ => s

/-- The fault class recorded with a halt cause (R58). -/
def HaltCause.fault : HaltCause → Option FaultClass
  | .stop => some .stop
  | .travelTimeout => some .travelTimeout
  | .interlockCheck => some .interlockCheck
  | .turner => some .turner
  | .turnTimeout => some .turnTimeout
  | .partialReset => none
  | .pinReset => none

/-- Record the fault of a halt cause, if it has one (R58). -/
def State.reportHalt (s : State) (cause : HaltCause) : State :=
  match cause.fault with
  | some c => s.report (FaultRecord.plain c)
  | none => s

/-- Abort every capture in flight, ending their exposure with CAPTURE_DONE (R58, R115). -/
def State.abortAll (s : State) (cause : AbortCause) : State :=
  if s.inFlight then
    ((s.abortCapture .left cause).abortCapture .right cause).postStation .captureDone
  else s

/-- The abort cause of a halt (R114). -/
def HaltCause.abort (cause : HaltCause) : AbortCause :=
  if cause = .partialReset then .partialReset else .halt

/-- The entry to HALTED from another state, with every effect of R58. The run ends before the
captures are aborted, so that their ends no longer reach it (R159), and the fault of the cause is reported
after those of the aborts (log 35). -/
def State.halt (s : State) (cause : HaltCause) : State :=
  let s := s.enter .halted
  let s := { s with cradle := { s.cradle with
    raisePending := false, grantPending := false, haltCause := cause } }
  let s := s.haltRun
  let s := s.abortAll cause.abort
  let s := s.cancelTurn cause
  let s := (s.postStation .cradleHalted).postTurner .cradleHalted
  s.reportHalt cause

/-- The interlock check has failed: the cradle halts with INTERLOCK_CHECK (R185, R57). -/
def State.trip (s : State) : State := s.halt .interlockCheck

/-- Enter a state and check the switches against it (R57). -/
def State.enterChecked (s : State) (st : CradleState) : State :=
  let s := s.enter st
  if switchesAgree st s.cradle.upSwitch s.cradle.downSwitch then s else s.trip

/-- Check the switches against the state the cradle is in (R57). -/
def State.checkSwitches (s : State) : State :=
  if switchesAgree s.cradle.state s.cradle.upSwitch s.cradle.downSwitch then s else s.trip

end Sys2Proof.Machine
end

