-- ==== Sys2Proof/Machine/Lighting.lean ====
section
/-! DEFINITION. The lighting unit (chapter 5): durations and doses, the LIGHTING settings, firing and
charging, the ceiling check, and the auto-exposure update. -/
namespace Sys2Proof.Machine

/-! ### Durations and planned dose (R90, R91) -/

/-- The upper bank of a page position (R86). -/
def upperBank : Head → Bank
  | .left => .lu
  | .right => .ru

/-- The lower bank of a page position (R86). -/
def lowerBank : Head → Bank
  | .left => .ll
  | .right => .rl

/-- t_b of a bank from its position's base duration (R90). -/
def bankDuration (base : Nat) (b : BankSetting) : Nat :=
  if b.weight = 0 ∨ b.level = 0 then 0 else min 65535 ((base * b.weight + 64) / 128)

/-- What an exposure started now would latch for a position (R89 to R91). -/
def LightingSettings.latch (l : LightingSettings) (p : Head) : LightLatch :=
  let base := l.base.get p
  let u := l.banks.get (upperBank p)
  let d := l.banks.get (lowerBank p)
  let tu := bankDuration base u
  let td := bankDuration base d
  { base := base, upper := u, lower := d, upperDuration := tu, lowerDuration := td,
    planned := tu * u.level + td * d.level }

/-! ### SET LIGHTING, field by field (R87, R88) -/

/-- Clamp both base durations into the present limits (R88). -/
def LightingSettings.pinBases (l : LightingSettings) : LightingSettings :=
  { l with base := ⟨clamp l.base.left l.dMin l.dMax, clamp l.base.right l.dMin l.dMax⟩ }

def LightingSettings.setBank (l : LightingSettings) (b : Bank) (f : BankSetting → BankSetting) :
    LightingSettings :=
  { l with banks := l.banks.set b (f (l.banks.get b)) }

/-- The bank of a level or weight field, fields counted from 0 (R87). -/
def bankOfField : Nat → Bank
  | 0 | 1 => .lu
  | 2 | 3 => .ll
  | 4 | 5 => .ru
  | _ => .rl

/-- One field of SET LIGHTING applied, fields counted from 0 (R87, R88). -/
def LightingSettings.setField (l : LightingSettings) (i v : Nat) : LightingSettings :=
  if i < 8 then
    if i % 2 = 0 then l.setBank (bankOfField i) fun b => { b with level := min v 255 }
    else l.setBank (bankOfField i) fun b => { b with weight := min v 255 }
  else
    match i with
    | 8 => { l with dMin := min (clamp v 100 65535) l.dMax }.pinBases
    | 9 => { l with dMax := max (clamp v 100 65535) l.dMin }.pinBases
    | 10 => { l with base := { l.base with left := clamp v l.dMin l.dMax } }
    | 11 => { l with base := { l.base with right := clamp v l.dMin l.dMax } }
    | 12 => { l with target := clamp v 1 65535 }
    | 13 => { l with auto := { l.auto with left := decide (0 < v) } }
    | 14 => { l with auto := { l.auto with right := decide (0 < v) } }
    | _ => l

/-- A field of SET LIGHTING (R87). -/
def setLightingField (i v : Nat) (s : State) : State :=
  { s with light := { s.light with settings := s.light.settings.setField i v } }

/-! ### The ceiling check (R92, R93) -/

/-- One lit position of an exposure: the head, the dose its side has received, and what is latched. -/
structure LitPosition where
  head : Head
  dose : Nat
  latch : LightLatch
  deriving DecidableEq, Repr

/-- The planned dose of an exposure (R91). -/
def plannedDose (ps : List LitPosition) : Nat := (ps.map (·.latch.planned)).sum

/-- The sum a position compares with the side ceiling (R92). -/
def LitPosition.sum (p : LitPosition) : Nat := p.dose + p.latch.planned

/-- Whether a position of the exposure fails its comparison (R92). -/
def positionFails (v : Volume) (ps : List LitPosition) (h : Head) : Bool :=
  ps.any fun p => decide (p.head = h) && decide (v.sideCeiling < p.sum)

/-- Whether an exposure is refused DOSE_LIMIT (R92). -/
def doseRefused (v : Volume) (ps : List LitPosition) : Bool :=
  decide (v.volumeCeiling = 0) || decide (v.sideCeiling = 0) ||
    positionFails v ps .left || positionFails v ps .right ||
    decide (v.volumeCeiling < v.dose + plannedDose ps)

/-- The figures of a position in the refusal record (R93). -/
def positionFigures (ps : List LitPosition) (h : Head) : Option (Nat × Nat) :=
  (ps.find? (fun p => p.head = h)).map fun p => (p.latch.planned, p.sum)

/-- The last dose refusal record of a refused exposure: every comparison that failed (R93, log 21). -/
def doseRefusal (v : Volume) (ps : List LitPosition) : DoseRefusal :=
  { failedLeft := positionFails v ps .left
    failedRight := positionFails v ps .right
    failedVolume := decide (v.volumeCeiling < v.dose + plannedDose ps)
    positions := ⟨positionFigures ps .left, positionFigures ps .right⟩
    planned := plannedDose ps
    sum := v.dose + plannedDose ps
    volumeCeiling := v.volumeCeiling
    sideCeiling := v.sideCeiling }

/-! ### Firing and charging (R94, R95) -/

/-- A bank fired for its duration; a duration of 0 leaves it as it is (R86, R94). -/
def PerBank.fire (b : PerBank (Option Nat)) (k : Bank) (t : Nat) : PerBank (Option Nat) :=
  if t = 0 then b else b.set k (some t)

/-- The two banks of a position fired (R94). -/
def PerBank.firePosition (b : PerBank (Option Nat)) (p : Head) (l : LightLatch) :
    PerBank (Option Nat) :=
  (b.fire (upperBank p) l.upperDuration).fire (lowerBank p) l.lowerDuration

/-- A lit position's part of the last firing record (R94). A bank of the position that its duration of 0
leaves unfired is recorded with that 0 and the level latched for it (log 36). -/
def LightLatch.shots (l : LightLatch) : BankShot × BankShot × Nat :=
  (⟨l.upperDuration, l.upper.level⟩, ⟨l.lowerDuration, l.lower.level⟩, l.planned)

/-- The banks of the lit positions go LIT and the last firing record is overwritten (R94, R97). -/
def State.fire (s : State) (kind : CaptureKind) (lit : PerHead (Option LightLatch))
    (charged : Option (Nat × PerHead (Option Side))) : State :=
  let one (b : PerBank (Option Nat)) (p : Head) : PerBank (Option Nat) :=
    match lit.get p with
    | some l => b.firePosition p l
    | none => b
  { s with light := { s.light with
      strobes := one (one s.light.strobes .left) .right
      lastFiring := some
        { kind := kind
          lit := ⟨lit.left.map LightLatch.shots, lit.right.map LightLatch.shots⟩
          charged := charged } } }

/-- Charge a lit position's planned dose to its side and raise the highest side dose, or count the
update skipped (R95, R180). -/
def State.chargeSide (s : State) (h : Handle) (d : Side) (planned : Nat) : State :=
  match s.updateFace h d [.dose d.face] fun f => { f with dose := f.dose + planned } with
  | (true, s) =>
    s.modVol h fun v => { v with highestSideDose := max v.highestSideDose (s.face h d).dose }
  | (false, s) => s

/-- Charge the exposure's planned dose to the volume (R95). -/
def State.chargeVolume (s : State) (h : Handle) (planned : Nat) : State :=
  s.modVol h fun v => { v with dose := v.dose + planned }

/-! ### The auto-exposure update (R98 to R100) -/

/-- D' of an update (R99). -/
def idealDuration (base target mean : Nat) : Nat := base * target / mean

/-- D_new of an update (R99). -/
def newDuration (l : LightingSettings) (base mean : Nat) : Nat :=
  clamp (clamp (idealDuration base l.target mean) (base - base / 4) (base + base / 4)) l.dMin l.dMax

/-- The update of a position at a keep, with the snapshot's base duration, the capture's mean gray
and its blank flag (R98 to R100). -/
def Lighting.autoExpose (l : Lighting) (p : Head) (base mean : Nat) (blank : Bool) : Lighting :=
  if l.settings.auto.get p then
    if 0 < mean ∧ blank = false then
      let new := newDuration l.settings base mean
      { l with
        settings := { l.settings with base := l.settings.base.set p new }
        lastUpdate := some
          ⟨p, mean, base, .updated (idealDuration base l.settings.target mean) new⟩ }
    else
      { l with
        holds := l.holds.set p (incSat (l.holds.get p))
        lastUpdate := some ⟨p, mean, base, if mean = 0 then .holdDark else .holdBlank⟩ }
  else l

/-! ### Reading (R102) -/

def LightingSettings.words (l : LightingSettings) : List Word :=
  [Bank.lu, .ll, .ru, .rl].flatMap
    (fun b => num16 (l.banks.get b).level ++ num16 (l.banks.get b).weight) ++
  num16 l.dMin ++ num16 l.dMax ++ num16 l.base.left ++ num16 l.base.right ++ num16 l.target ++
  flagWord l.auto.left ++ flagWord l.auto.right

def BankShot.words (b : BankShot) : List Word := num16 b.duration ++ num16 b.level

def Side.words (d : Side) : List Word := num16 d.leaf ++ num16 d.face.place

/-- A firing record's words (R94, log 16): kind, the lit positions as a sides word, per bank t_b and
lv_b with both 0 for a bank of a position not lit, per position its planned dose, then serial and sides charged. -/
def FiringRecord.words (f : FiringRecord) : List Word :=
  let none3 : BankShot × BankShot × Nat := (⟨0, 0⟩, ⟨0, 0⟩, 0)
  let l := f.lit.left.getD none3
  let r := f.lit.right.getD none3
  num16 f.kind.place ++ num16 (bitAt 0 f.lit.left.isSome + bitAt 1 f.lit.right.isSome) ++
  l.1.words ++ l.2.1.words ++ r.1.words ++ r.2.1.words ++
  num32 l.2.2 ++ num32 r.2.2 ++
  optWords (fun c => num16 c.1 ++ optWords Side.words c.2.left ++ optWords Side.words c.2.right)
    f.charged

/-- A dose refusal record's words (R93, log 16). -/
def DoseRefusal.words (d : DoseRefusal) : List Word :=
  let pos := optWords (fun p : Nat × Nat => num32 p.1 ++ num48 p.2)
  num16 (bitAt 0 d.failedLeft + bitAt 1 d.failedRight + bitAt 2 d.failedVolume) ++
  pos d.positions.left ++ pos d.positions.right ++
  num32 d.planned ++ num64 d.sum ++ num48 d.volumeCeiling ++ num32 d.sideCeiling

def UpdateOutcome.place : UpdateOutcome → Nat
  | .updated _ _ => 0
  | .holdDark => 1
  | .holdBlank => 2

/-- D' and D_new, when the outcome holds them. -/
def UpdateOutcome.figures : UpdateOutcome → Option Nat × Option Nat
  | .updated ideal new => (some ideal, some new)
  | .holdDark => (none, none)
  | .holdBlank => (none, none)

/-- An update record's words (R99, R100, log 16). -/
def UpdateRecord.words (u : UpdateRecord) : List Word :=
  num16 (headPlace u.position) ++ num16 u.mean ++ num16 u.base ++
  optWords num32 u.outcome.figures.1 ++ optWords num16 u.outcome.figures.2 ++
  num16 u.outcome.place

/-- READ LIGHTING (R102). -/
def readLighting (s : State) : Reply × State :=
  let l := s.light
  let latchL := l.settings.latch .left
  let latchR := l.settings.latch .right
  (.accepted
    (l.settings.words ++
     [latchL.upperDuration, latchL.lowerDuration, latchR.upperDuration,
      latchR.lowerDuration].flatMap num16 ++
     num32 latchL.planned ++ num32 latchR.planned ++
     [l.strobes.lu, l.strobes.ll, l.strobes.ru, l.strobes.rl].flatMap
       (fun b => flagWord b.isSome) ++
     num16 l.holds.left ++ num16 l.holds.right ++
     optWords FiringRecord.words l.lastFiring ++
     optWords DoseRefusal.words l.lastRefusal ++
     optWords UpdateRecord.words l.lastUpdate), s)

end Sys2Proof.Machine
end

