-- ==== Sys2Proof/Machine/Delivery.lean ====
section
/-! DEFINITION. The delivery engine and the image port (chapter 10), with the capture memory it reads
(02 R25, 11 R184), and what the end of a delivery does to the slot and its panel (02 R41 to R43). -/
namespace Sys2Proof.Machine

/-! ### Capture memory (R25) -/

/-- The byte address of sample c (R 0, G 1, B 2) of pixel x of line l of a slot (R25). -/
def sampleAddress (slot : SlotNo) (l x c : Nat) : Nat :=
  slot.val * Config.slotBytes + l * Config.lineStride + 6 * x + 2 * c

/-- The two bytes of a sample; the first byte is its low one (DESIGN CHOICE, log 18). -/
def sampleBytes (v : Word) : List Byte := [v.extractLsb' 0 8, v.extractLsb' 8 8]

/-- The sample stored at an address (log 18). -/
def sampleValue (m : List Host.Cell) (a : Nat) : Word := readByte m (a + 1) ++ readByte m a

/-- The check status of the 64-bit word that holds an address (R178). -/
def State.memoryError (s : State) (a : Nat) : Option WordErr :=
  (s.memoryErrors.find? (fun e => e.1 = a / 8)).map (·.2)

/-- Write a line of a capture, samples in column order; every word of the line is written whole with
fresh check bits (R111, R184). -/
def State.writeLine (s : State) (slot : SlotNo) (l : Nat) (values : List Word) : State :=
  let a := sampleAddress slot l 0 0
  let n := 2 * values.length
  { s with
    memory := writeBytes s.memory a (values.flatMap sampleBytes)
    memoryErrors := s.memoryErrors.filter fun e => !(decide (a ≤ 8 * e.1) && decide (8 * e.1 < a + n)) }

def State.modDelivery (s : State) (f : Delivery → Delivery) : State :=
  { s with delivery := { s.delivery with current := s.delivery.current.map f } }

/-- An uncorrectable word read by the delivery engine: the damaged mark is set, and DATA_DAMAGE is
recorded at the read that sets it (R184). -/
def State.markDamaged (s : State) : State :=
  match s.delivery.current with
  | none => s
  | some d =>
    if d.damaged then s
    else (s.modDelivery fun d => { d with damaged := true }).report
      { FaultRecord.plain .dataDamage with slot := some d.slot }

/-- Read a sample through its word's check code (R173, R178, R184). -/
def State.readSample (s : State) (a : Nat) : Nat × State :=
  let v := (sampleValue s.memory a).toNat
  match s.memoryError a with
  | none => (v, s)
  | some .single =>
    (v, { s with memoryErrors := s.memoryErrors.filter fun e => !(e.1 == a / 8) }.recovered
      .recoveredCapture 1)
  | some .uncorrectable => (v, s.markDamaged)

/-- The gray value of a pixel (R119). -/
def grayOf (r g b : Nat) : Nat := (19595 * r + 38470 * g + 7471 * b + 32768) / 65536

/-! ### Formats and packing (R173) -/

/-- Values sent per pixel (R173). -/
def Format.valuesPerPixel : Format → Nat
  | .w16 | .w8 => 3
  | .g16 | .g8 => 1

/-- Values in one 32-bit word (R173). -/
def Format.valuesPerWord : Format → Nat
  | .w16 | .g16 => 2
  | .w8 | .g8 => 4

/-- The width of a value in bits (R173). -/
def Format.valueBits : Format → Nat
  | .w16 | .g16 => 16
  | .w8 | .g8 => 8

/-- Words per line of an image of width w (R173). -/
def Format.wordsPerLine (f : Format) (w : Nat) : Nat :=
  (f.valuesPerPixel * w + (f.valuesPerWord - 1)) / f.valuesPerWord

/-- Value i of line l of the image box, read from capture memory (R173). -/
def State.readValue (s : State) (d : Delivery) (l i : Nat) : Nat × State :=
  let at_ (x c : Nat) : Nat := sampleAddress d.slot (d.box.top + l) (d.box.left + x) c
  match d.format with
  | .w16 => s.readSample (at_ (i / 3) (i % 3))
  | .w8 =>
    let (v, s) := s.readSample (at_ (i / 3) (i % 3))
    (v / 256, s)
  | .g16 =>
    let (r, s) := s.readSample (at_ i 0)
    let (g, s) := s.readSample (at_ i 1)
    let (b, s) := s.readSample (at_ i 2)
    (grayOf r g b, s)
  | .g8 =>
    let (r, s) := s.readSample (at_ i 0)
    let (g, s) := s.readSample (at_ i 1)
    let (b, s) := s.readSample (at_ i 2)
    (grayOf r g b / 256, s)

/-- Values of a line, in order. -/
def State.readValues (s : State) (d : Delivery) (l : Nat) : List Nat → List Nat × State
  | [] => ([], s)
  | i :: is =>
    let (v, s) := s.readValue d l i
    let (vs, s) := s.readValues d l is
    (v :: vs, s)

/-- Pack values little-endian: the first in the least significant bits (R173). -/
def packValues (bits : Nat) (vs : List Nat) : PortWord :=
  BitVec.ofNat 32 (vs.foldr (fun v acc => v + acc * 2 ^ bits) 0)

/-- The values word k of a line carries; places after the line's last value are filled with zeros by
carrying none (R173). -/
def Delivery.valuesOfWord (d : Delivery) (k : Nat) : List Nat :=
  ((List.range d.format.valuesPerWord).map (fun j => k * d.format.valuesPerWord + j)).filter
    (fun i => decide (i < d.format.valuesPerPixel * d.box.width))

/-- Offer the next pixel word: it is read from capture memory now (log 17). -/
def State.offerPixel (s : State) : State :=
  match s.delivery.current with
  | none => s
  | some d =>
    let (vs, s) := s.readValues d d.linesSent (d.valuesOfWord d.wordInLine)
    s.modDelivery fun d => { d with toTake := [packValues d.format.valueBits vs] }

/-! ### The CRC (R174) -/

/-- One bit of the CRC register's shift (R174). -/
def crcShift (r : PortWord) : PortWord :=
  if r.getLsbD 0 then (r >>> 1) ^^^ 0xEDB88320 else r >>> 1

/-- So many shifts. -/
def crcShifts : Nat → PortWord → PortWord
  | 0, r => r
  | n + 1, r => crcShifts n (crcShift r)

/-- One byte taken into the CRC register (R174). -/
def crcByte (r : PortWord) (b : Byte) : PortWord := crcShifts 8 (r ^^^ b.setWidth 32)

/-- One pixel word taken into the CRC register, least significant byte first (R174). -/
def crcWord (r w : PortWord) : PortWord :=
  [w.extractLsb' 0 8, w.extractLsb' 8 8, w.extractLsb' 16 8, w.extractLsb' 24 8].foldl crcByte r

/-- The CRC sent (R174). -/
def crcFinal (r : PortWord) : PortWord := r ^^^ 0xFFFFFFFF

/-! ### Header and trailer (R172, R174, R199) -/

/-- The five header words of a slot's image (R199); the bits given to no field are 0 (log 39). -/
def headerWords (serial : Nat) (x : Slot) (o : Owner) (f : Format) (box : Box) (superseded : Bool) :
    List PortWord :=
  [ BitVec.ofNat 32 (serial + fieldAt 16 o.leaf + fieldAt 28 o.face.place + fieldAt 29 o.panel),
    BitVec.ofNat 32 (x.generation + fieldAt 8 f.place + bitAt 10 x.stats.blank +
      bitAt 11 x.stats.degraded + bitAt 12 x.stats.motion + bitAt 13 x.stats.overlong +
      bitAt 14 superseded + fieldAt 16 x.stats.meanGray),
    BitVec.ofNat 32 (box.left + fieldAt 16 box.top),
    BitVec.ofNat 32 (box.width + fieldAt 16 box.height),
    BitVec.ofNat 32 x.stats.clipCount ]

/-- The three trailer words (R199); the bits given to no field are 0 (log 39). -/
def trailerWords (status : DeliveryStatus) (lines words : Nat) (crc : PortWord) : List PortWord :=
  [ BitVec.ofNat 32 (status.place + fieldAt 16 lines), BitVec.ofNat 32 words, crc ]

/-! ### The life of a delivery (R170, R175, R176) -/

/-- The image box of a slot: its crop, or the whole frame (R170). -/
def Slot.imageBox (x : Slot) : Box := x.stats.crop.getD ⟨0, 0, x.w, x.h⟩

/-- If the engine is IDLE and the queue is not empty, the delivery of its head starts (R170, R41). -/
def State.startDelivery (s : State) : State :=
  match s.delivery.current, s.delivery.queue with
  | none, i :: rest =>
    let x := s.slot i
    match x.owner with
    | none => s
    | some o =>
      let s := s.readVolume o.handle
      let (ok, s) := s.readLeaf o.handle o.leaf [.list o.face, .panel o.face o.panel]
      let superseded := ok && decide (x.generation < ((s.face o.handle o.side).panel o.panel).generation)
      let s := s.setSlot i { x with state := .delivering, queued := false }
      { s with delivery := { s.delivery with
          queue := rest
          current := some
            { phase := .header, slot := i, owner := o, generation := x.generation
              format := s.delivery.settings.format, box := x.imageBox
              linesSent := 0, wordsSent := 0, wordInLine := 0, crc := 0xFFFFFFFF
              damaged := false, cancelled := false
              toTake := headerWords (s.vol o.handle).serial x o s.delivery.settings.format
                x.imageBox superseded
              trailer := [] } } }
  | _, _ => s

/-- Append a slot that is KEPT to the tail of the queue; with the engine IDLE the delivery of the
queue's head starts in the same event (R37, R169, R170). -/
def State.enqueue (s : State) (i : SlotNo) : State :=
  let s := s.setSlot i { s.slot i with queued := true }
  { s with delivery := { s.delivery with queue := s.delivery.queue ++ [i] } }.startDelivery

/-- The delivery ends with a status: its trailer values are fixed and the last trailer record is
overwritten (R174). -/
def State.fixTrailer (s : State) (d : Delivery) (status : DeliveryStatus) : State :=
  let crc := crcFinal d.crc
  { s with delivery := { s.delivery with
      current := s.delivery.current.map fun c =>
        { c with trailer := trailerWords status d.linesSent d.wordsSent crc }
      lastTrailer := some
        { slot := d.slot, owner := d.owner, generation := d.generation, format := d.format
          status := status, linesSent := d.linesSent, wordsSent := d.wordsSent, crc := crc } } }

/-- A COMPLETE delivery's effect on the panel, then the slot is freed (R42, R180). -/
def State.settleComplete (s : State) (i : SlotNo) (o : Owner) : State :=
  let x := s.slot i
  (match s.readLeaf o.handle o.leaf [.list o.face, .panel o.face o.panel] with
   | (false, s) => s.skipUpdate o.handle o.leaf
   | (true, s) =>
     let f := s.face o.handle o.side
     if x.generation = (f.panel o.panel).generation then
       (s.setFace o.handle o.side (f.modPanel o.panel fun e =>
          { e with settled := match e.settled with
              | .kept st => .delivered st
              | .delivered st => .delivered st
              | .none => .delivered x.stats })).count o.handle
         fun c => { c with delivered := c.delivered + 1 }
     else s).freeSlot i

/-- A DAMAGED delivery's effect on the panel and the side, then the slot is freed (R43, R180). -/
def State.settleDamaged (s : State) (i : SlotNo) (o : Owner) : State :=
  let x := s.slot i
  (match s.readLeaf o.handle o.leaf [.marks o.face, .list o.face, .panel o.face o.panel] with
   | (false, s) => s.skipUpdate o.handle o.leaf
   | (true, s) =>
     let f := s.face o.handle o.side
     if x.generation = (f.panel o.panel).generation then
       let s := s.setFace o.handle o.side (f.modPanel o.panel fun e => { e with settled := .none })
       if f.skip = false ∧ f.rescan = false then s.setRescan o.handle o.side else s
     else s).freeSlot i

/-- A delivery ends at its last pixel word: DAMAGED if the mark is set, else COMPLETE (R175). -/
def State.endDelivery (s : State) (d : Delivery) : State :=
  let status := if d.damaged then DeliveryStatus.damaged else .complete
  let s := s.fixTrailer d status
  let s := if d.damaged then s.settleDamaged d.slot d.owner else s.settleComplete d.slot d.owner
  s.modDelivery fun c => { c with phase := .trailer, toTake := c.trailer }

/-- The port takes a pixel word: counts and CRC advance, and the next word is offered or the
delivery ends (R171, R173 to R175). -/
def State.takePixel (s : State) (d : Delivery) (w : PortWord) : State :=
  let lineDone := decide (d.format.wordsPerLine d.box.width ≤ d.wordInLine + 1)
  let d := { d with
    crc := crcWord d.crc w
    wordsSent := d.wordsSent + 1
    wordInLine := if lineDone then 0 else d.wordInLine + 1
    linesSent := if lineDone then d.linesSent + 1 else d.linesSent }
  let s := s.modDelivery fun _ => d
  if lineDone ∧ d.box.height ≤ d.linesSent then s.endDelivery d else s.offerPixel

/-- The port takes the word on it (R170, R171, R176). With the engine IDLE no word is offered. -/
def State.takeWord (s : State) : State :=
  match s.delivery.current with
  | none => s
  | some d =>
    match d.toTake with
    | [] => s
    | w :: rest =>
      match d.phase with
      | .header =>
        if rest = [] then
          if d.cancelled then s.modDelivery fun d => { d with phase := .trailer, toTake := d.trailer }
          else (s.modDelivery fun d => { d with phase := .pixels, toTake := [] }).offerPixel
        else s.modDelivery fun d => { d with toTake := rest }
      | .pixels => s.takePixel d w
      | .trailer =>
        if rest = [] then
          ({ s with delivery := { s.delivery with current := none } }.postStation
            .deliveryDone).startDelivery
        else s.modDelivery fun d => { d with toTake := rest }

/-- The delivery in progress that a cancel would end, if there is one (R176). -/
def State.cancellable (s : State) : Option Delivery :=
  match s.delivery.current with
  | none => none
  | some d =>
    match d.phase with
    | .header => if d.cancelled then none else some d
    | .pixels => some d
    | .trailer => none

/-- A delivery in HEADER or PIXELS ends CANCELLED, its slot returning to KEPT unqueued (R176, R41). -/
def State.cancelDelivery (s : State) (d : Delivery) : State :=
  let s := s.fixTrailer d .cancelled
  let s := s.setSlot d.slot { s.slot d.slot with state := .kept, queued := false }
  s.modDelivery fun c =>
    if d.phase = .pixels then { c with phase := .trailer, cancelled := true, toTake := c.trailer }
    else { c with cancelled := true }

/-! ### Commands (R168, R169, R176, R177) -/

/-- A field of SET DELIVERY, counted from 0 (R168). -/
def setDeliveryField (i v : Nat) (s : State) : State :=
  match i with
  | 0 =>
    let f : Format := match v with
      | 0 => .w16
      | 1 => .w8
      | 2 => .g16
      | _ => .g8
    { s with delivery := { s.delivery with settings := { s.delivery.settings with format := f } } }
  | 1 =>
    { s with delivery := { s.delivery with
        settings := { s.delivery.settings with auto := decide (0 < v) } } }
  | _ => s

/-- DELIVER (R169). -/
def deliver (slot : Nat) (s : State) : Reply × State :=
  match slotOf slot with
  | none => (.refused .badParam, s)
  | some i =>
    if (s.slot i).state ≠ .kept then
      (.refused .nothingToDeliver, { s with delivery := { s.delivery with emptyDeliver := true } })
    else if (s.slot i).queued then (.refused .busy, s)
    else
      let s := s.enqueue i
      (.accepted (num16 s.delivery.queue.length), s)

/-- CANCEL DELIVERY (R176). -/
def cancelDelivery (s : State) : Reply × State :=
  match s.cancellable with
  | none => (.refused .nothingToDeliver, s)
  | some d => (.accepted (num16 d.slot.val), s.cancelDelivery d)

def Box.words (b : Box) : List Word :=
  num16 b.left ++ num16 b.top ++ num16 b.width ++ num16 b.height

def Owner.words (o : Owner) : List Word :=
  num16 o.handle.place ++ num16 o.leaf ++ num16 o.face.place ++ num16 o.panel

def Delivery.words (d : Delivery) : List Word :=
  num16 d.slot.val ++ num16 d.format.place ++ d.box.words ++ num16 d.linesSent ++
  num32 d.wordsSent ++ flagWord d.damaged

def TrailerRecord.words (t : TrailerRecord) : List Word :=
  num16 t.slot.val ++ t.owner.words ++ num16 t.generation ++ num16 t.format.place ++
  num16 t.status.place ++ num16 t.linesSent ++ num32 t.wordsSent ++ num32 t.crc.toNat

/-- The engine's phase, IDLE 0 (R170). -/
def DeliveryUnit.phasePlace (d : DeliveryUnit) : Nat :=
  match d.current with
  | none => 0
  | some c => c.phase.place

/-- READ DELIVERY (R177). -/
def readDelivery (s : State) : Reply × State :=
  let d := s.delivery
  (.accepted
    (num16 d.phasePlace ++ optWords Delivery.words d.current ++
     listWords (fun i : SlotNo => num16 i.val) d.queue ++
     num16 d.settings.format.place ++ flagWord d.settings.auto ++ flagWord d.emptyDeliver ++
     optWords TrailerRecord.words d.lastTrailer), s)

end Sys2Proof.Machine
end

