-- ==== Sys2Proof/Machine/Keep.lean ====
section
/-! DEFINITION. The keep procedure (02 R36, R37), and holding a capture for the station (02 R34). -/
namespace Sys2Proof.Machine

/-- Write the blank flag of a side whose record is valid; the blank sides counter follows (R5). -/
def State.setBlank (s : State) (h : Handle) (d : Side) (b : Bool) : State :=
  if (s.face h d).blank = b then s
  else (s.setFace h d { s.face h d with blank := b }).count h fun c =>
    { c with blankSides := if b then c.blankSides + 1 else c.blankSides - 1 }

/-- The slots a keep of slot i overtakes: KEPT, holding the same panel (R36 step 3). -/
def State.overtaken (s : State) (i : SlotNo) (o : Owner) : List SlotNo :=
  allSlots.filter fun j =>
    !(j == i) && decide ((s.slot j).state = .kept) && (s.slot j).owner == some o

/-- The words of the leaf record that a keep of a panel reads (log 5). -/
def keepWords (f : FaceRecord) (o : Owner) : List LeafWord :=
  .panel o.face o.panel :: .stats o.face o.panel :: f.panelWords o.face

/-- The auto-exposure update of a keep, for the slot's head (R37, R98). -/
def State.adjustExposure (s : State) (x : Slot) : State :=
  match x.head with
  | none => s
  | some p =>
    { s with light := s.light.autoExpose p x.baseDuration x.stats.meanGray x.stats.blank }

/-- The keep of a slot whose owner's leaf record has been read valid (R36, R37). -/
def State.keepSlot (s : State) (i : SlotNo) (o : Owner) : State :=
  let x := s.slot i
  let e := (s.face o.handle o.side).panel o.panel
  let s := s.setSlot i { x with state := .kept, generation := e.generation + 1 }
  let s :=
    if e.settled.isSettled then s.count o.handle fun c => { c with superseded := c.superseded + 1 }
    else s
  let s := (s.overtaken i o).foldl State.freeSlot s
  let s := s.setFace o.handle o.side ((s.face o.handle o.side).modPanel o.panel fun e =>
    { e with generation := e.generation + 1, settled := .kept x.stats, pending := none })
  let s := s.count o.handle fun c => { c with kept := c.kept + 1 }
  let s := s.setBlank o.handle o.side x.stats.blank
  let s := if (s.face o.handle o.side).allSettled then s.clearRescan o.handle o.side else s
  let s := s.adjustExposure x
  if s.delivery.settings.auto then s.enqueue i else s

/-- A slot is held for the station: PROVISIONAL, with UNDECIDED (R34). -/
def State.holdSlot (s : State) (i : SlotNo) : State :=
  (s.setSlot i { s.slot i with state := .provisional }).postStation .undecided

/-- What the slot store does with a verdict at frame end (R34, R180). -/
def State.actOnVerdict (s : State) (i : SlotNo) (o : Owner) (v : Verdict) : State :=
  match v with
  | .keep =>
    match s.readLeaf o.handle o.leaf (keepWords (s.face o.handle o.side) o) with
    | (true, s) => s.keepSlot i o
    | (false, s) => (s.skipUpdate o.handle o.leaf).holdSlot i
  | .hold =>
    ((s.updateFace o.handle o.side [.list o.face, .panel o.face o.panel] fun f =>
      f.modPanel o.panel fun e => { e with pending := some ⟨.provisional, i⟩ }).2).holdSlot i

end Sys2Proof.Machine
end

