-- ==== Sys2Proof/Machine/Capture.lean ====
section
/-! DEFINITION. EXPOSE and the capture start (06 R107 to R110; 02 R30 to R33): the tests an exposure
passes, shared by the station's EXPOSE and the run controller's attempts. -/
namespace Sys2Proof.Machine

/-! ### Snapshots and starts (R109, R110, R139, R141) -/

/-- The effective metering window (R141). -/
def effectiveWindow (m : Measurement) (w h : Nat) : Box :=
  let left := min m.left (w - 1)
  let top := min m.top (h - 1)
  ⟨left, top, min m.width (w - left), min m.height (h - top)⟩

/-- A working record at the start of a NORMAL capture (R139). -/
def WorkRecord.started (window : Box) : WorkRecord :=
  { WorkRecord.cleared with measuring := true, window := window }

/-- The snapshot a capture of a head latches now (R110); `target` is the T of a FLAT CAPTURE. -/
def State.snapshot (s : State) (h : Head) (target : Nat) : Snapshot :=
  { correction := (s.head h).correction
    running := (s.head h).running
    measurement := (s.head h).measurement
    keep := s.keep
    light := s.light.settings.latch h
    flatTarget := target }

/-- The head's half of the pipeline at a capture start (R109 step 6, R129, R139). -/
def HeadUnit.start (u : HeadUnit) (kind : CaptureKind) (slot : Option SlotNo)
    (side : Option SidePanel) (snap : Snapshot) (frame : Nat) : HeadUnit :=
  { u with
    phase := .capturing
    port := .between
    capture := some
      { kind := kind, slot := slot, side := side, lines := 0, overlong := false, clipCount := 0
        substitutions := 0, outcome := .inFlight }
    snapshot := some snap
    frameTimer := some frame
    lineBuffer := []
    darkSums := ⟨0, 0, 0⟩
    activeSums := ⟨0, 0, 0⟩
    flatSums := if kind = .flat then List.replicate (3 * snap.correction.w) 0 else []
    work := if kind = .normal then
        WorkRecord.started (effectiveWindow snap.measurement snap.correction.w snap.correction.h)
      else WorkRecord.cleared }

/-- A head is triggered: its capture starts with the snapshot of this moment (R109, R129). -/
def State.trigger (s : State) (h : Head) (kind : CaptureKind) (slot : Option SlotNo)
    (side : Option SidePanel) (target : Nat) : State :=
  s.modHead h fun u => u.start kind slot side (s.snapshot h target) (s.timers.frame.get h)

/-! ### What the tests read (R107, R108) -/

/-- The sides and panels an EXPOSE's words request, LEFT before RIGHT; none for a sides word that is
no set of sides (R107). -/
def requestsOf (sides left right : Nat) : List (Head × Nat) :=
  match sides with
  | 1 => [(.left, left)]
  | 2 => [(.right, right)]
  | 3 => [(.left, left), (.right, right)]
  | _ => []

/-- A requested side as tests 6 to 9 see it. Of a record that is invalid the declared count is taken
as 4, the skip flag as clear and the generation as 0 (R108). -/
structure SideView where
  head : Head
  side : Side
  panel : Nat
  valid : Bool
  declared : Nat
  skip : Bool
  generation : Nat
  deriving DecidableEq, Repr

/-- Read a requested side of an opening (R108, log 24). -/
def State.viewSide (s : State) (h : Handle) (k : Nat) (r : Head × Nat) : SideView × State :=
  let d := sideAt k r.1
  let (ok, s) := s.readLeaf h d.leaf [.marks d.face, .list d.face, .panel d.face r.2]
  let f := s.face h d
  (if ok then ⟨r.1, d, r.2, true, f.declared, f.skip, (f.panel r.2).generation⟩
   else ⟨r.1, d, r.2, false, 4, false, 0⟩, s)

/-- Read the requested sides, in order. -/
def State.viewSides (s : State) (h : Handle) (k : Nat) : List (Head × Nat) → List SideView × State
  | [] => ([], s)
  | r :: rs =>
    let (v, s) := s.viewSide h k r
    let (vs, s) := s.viewSides h k rs
    (v :: vs, s)

/-- The owner that a requested side's capture gets (R30). -/
def SideView.owner (v : SideView) (h : Handle) : Owner := ⟨h, v.side.leaf, v.side.face, v.panel⟩

/-- The PROVISIONAL slots that hold a panel (R31, R28). -/
def State.heldSlots (s : State) (o : Owner) : List SlotNo :=
  allSlots.filter fun i => decide ((s.slot i).state = .provisional) && (s.slot i).owner == some o

/-- The slots the slot check counts as available (R32). -/
def State.available (s : State) (h : Handle) (vs : List SideView) : Nat :=
  s.freeCount + (vs.map fun v => (s.heldSlots (v.owner h)).length).sum

/-- Read the dose fields of the remaining sides: the lit positions, and whether every record read
valid (R108, test 11). -/
def State.readDoses (s : State) (h : Handle) : List SideView → (Bool × List LitPosition) × State
  | [] => ((true, []), s)
  | v :: vs =>
    let (ok, s) := s.readLeaf h v.side.leaf [.dose v.side.face]
    let p : LitPosition := ⟨v.head, (s.face h v.side).dose, s.light.settings.latch v.head⟩
    let ((oks, ps), s) := s.readDoses h vs
    ((ok && oks, p :: ps), s)

/-! ### The capture start (R109, R30, R31, R94, R95) -/

/-- Replace the held captures of a requested panel (R31). -/
def State.replaceHeld (s : State) (h : Handle) (v : SideView) : State :=
  (s.heldSlots (v.owner h)).foldl State.discardSlot s

/-- Allocate the lowest FREE slot to a remaining side (R30). -/
def State.allocate (s : State) (h : Handle) (v : SideView) : Option SlotNo × State :=
  match s.freeSlot? with
  | none => (none, s)
  | some i =>
    let c := (s.head v.head).correction
    let s := s.setSlot i
      { Slot.cleared with
        state := .filling, owner := some (v.owner h), head := some v.head, w := c.w, h := c.h
        generation := v.generation + 1
        baseDuration := (s.light.settings.latch v.head).base }
    (some i,
     (s.updateFace h v.side [.list v.side.face, .panel v.side.face v.panel] fun f =>
       f.modPanel v.panel fun e => { e with pending := some ⟨.exposing, i⟩ }).2)

/-- Allocate to the remaining sides, in order. -/
def State.allocateAll (s : State) (h : Handle) :
    List SideView → PerHead (Option SlotNo) × State
  | [] => (⟨none, none⟩, s)
  | v :: vs =>
    let (i, s) := s.allocate h v
    let (r, s) := s.allocateAll h vs
    (r.set v.head i, s)

/-- The remaining side at a head, if there is one. -/
def viewAt (vs : List SideView) (h : Head) : Option SideView := vs.find? (fun v => v.head = h)

/-- Fire the lit positions and charge the dose (R94, R95). -/
def State.fireAndCharge (s : State) (h : Handle) (vs : List SideView) : State :=
  let latch (v : SideView) : LightLatch := s.light.settings.latch v.head
  let planned := (vs.map fun v => (latch v).planned).sum
  let s' := s.fire .normal ⟨(viewAt vs .left).map latch, (viewAt vs .right).map latch⟩
    (some ((s.vol h).serial, ⟨(viewAt vs .left).map (·.side), (viewAt vs .right).map (·.side)⟩))
  let s' := vs.foldl (fun t v => t.chargeSide h v.side (latch v).planned) s'
  s'.chargeVolume h planned

/-- Trigger the head of a remaining side (R109 step 6). -/
def State.triggerSide (slots : PerHead (Option SlotNo)) (s : State) (v : SideView) : State :=
  s.trigger v.head .normal (slots.get v.head) (some ⟨v.side.leaf, v.side.face, v.panel⟩) 0

/-- The capture start of an exposure that has passed its tests (R109); LEFT before RIGHT at each step (R30,
log 35). -/
def State.startExposure (s : State) (h : Handle) (vs : List SideView) :
    PerHead (Option SlotNo) × State :=
  let s := vs.foldl (fun t v => t.replaceHeld h v) s
  let (slots, s) := s.allocateAll h vs
  let s := s.count h fun c => { c with attempts := c.attempts + BitVec.ofNat 32 vs.length }
  let s := s.fireAndCharge h vs
  (slots, vs.foldl (State.triggerSide slots) s)

/-! ### The tests (R107, R108) -/

/-- What an exposure attempt comes to: refused, or started with the slots allocated. -/
inductive Attempt where
  | refused (reason : Reason)
  | started (slots : PerHead (Option SlotNo))
  deriving DecidableEq, Repr

/-- Tests 10 and 11, and the start, for the remaining sides (R32, R92, R108, R109). -/
def State.attemptRemaining (s : State) (h : Handle) (vs : List SideView) : Attempt × State :=
  if s.available h vs < vs.length then (.refused .slotsFull, { s with full := true })
  else
    match s.readDoses h vs with
    | ((false, _), s) => (.refused .recordDamaged, s)
    | ((true, lit), s) =>
      if doseRefused (s.vol h) lit then
        (.refused .doseLimit,
         { s with light := { s.light with lastRefusal := some (doseRefusal (s.vol h) lit) } })
      else
        let (slots, s) := s.startExposure h vs
        (.started slots, s)

/-- Tests 6 to 11 of an exposure of the ACTIVE volume (R107, R108). -/
def State.attemptSides (s : State) (h : Handle) (rs : List (Head × Nat)) : Attempt × State :=
  if rs = [] then (.refused .badParam, s)
  else
    let (vs, s) := s.viewSides h (s.vol h).opening rs
    let rest := vs.filter fun v => !v.skip
    if vs.any (fun v => decide (v.panel < 1) || decide (v.declared < v.panel)) then
      (.refused .badParam, s)
    else if rest = [] then (.refused .nothingToCapture, s)
    else if rest.any (fun v => !v.valid) then (.refused .recordDamaged, s)
    else if rest.any (fun v => decide (255 ≤ v.generation)) then (.refused .generationLimit, s)
    else s.attemptRemaining h rest

/-- Tests 2 to 11 of an exposure (R107, R108, R185). -/
def State.attemptExposure (s : State) (rs : List (Head × Nat)) : Attempt × State :=
  match s.active with
  | none => (.refused .noVolume, s)
  | some h =>
    let s := s.readVolume h
    if s.cradle.parityGood = false then (.refused .halted, s.trip)
    else if s.cradle.state ≠ .ready then (.refused .cradleState, s)
    else if s.inFlight then (.refused .exposureInFlight, { s with overlap := true })
    else if (s.vol h).uncertain then (.refused .openingUncertain, s)
    else s.attemptSides h rs

/-- Count an exposure asked for (R33). -/
def State.countRequest (s : State) : State := { s with requests := s.requests + 1 }

/-- The sides exposed, coded as the sides word is (R107, R109). -/
def sidesWord {α : Type} (p : PerHead (Option α)) : Nat :=
  (if p.left.isSome then 1 else 0) + (if p.right.isSome then 2 else 0)

/-- A slot word of EXPOSE's result (R109). -/
def slotWord : Option SlotNo → Word
  | some i => BitVec.ofNat 16 i.val
  | none => 0xFFFF

/-- EXPOSE (R107 to R109). -/
def expose (sides left right : Nat) (s : State) : Reply × State :=
  let s := s.countRequest
  if s.run.state ≠ .idle then (.refused .runActive, s)
  else
    match s.attemptExposure (requestsOf sides left right) with
    | (.refused r, s) => (.refused r, s)
    | (.started slots, s) =>
      (.accepted (num16 (sidesWord slots) ++ [slotWord slots.left, slotWord slots.right]), s)

end Sys2Proof.Machine
end

