-- ==== Sys2Proof/Machine/RunControl.lean ====
section
/-! DEFINITION. The run controller (chapter 9): the cycle, turns asked for, RUN, SEEK, STOP RUN, the
pedal's start and READ RUN. -/
namespace Sys2Proof.Machine

def State.modRun (s : State) (f : RunRecord → RunRecord) : State := { s with run := f s.run }

/-- A run is active while its state is other than IDLE (R153). -/
def State.runActive (s : State) : Bool := decide (s.run.state ≠ .idle)

/-! ### Lowering and asking for turns (R50, R158, R161) -/

/-- The run controller's lower request (R50). -/
def State.lowerRequest (s : State) : State :=
  if s.cradle.state = .opened then s.enterChecked .lowering else s

/-- Ask the turner for a turn (R161). -/
def State.askTurn (s : State) (d : Direction) : State :=
  (s.modRun fun r => { r with wanted := some d }).postTurner .turnWanted

/-- The direction from an opening toward a target (R161). -/
def toward (k target : Nat) : Direction := if k < target then .forward else .back

/-! ### The cycle (R157, R158) -/

/-- The side choice for one head: not skipped with panel 1 unsettled, or held in an invalid record
(R157 step 2). -/
def State.chooseSide (s : State) (h : Handle) (k : Nat) (p : Head) : Bool × State :=
  let d := sideAt k p
  match s.readLeaf h d.leaf [.marks d.face, .list d.face, .panel d.face 1] with
  | (true, s) => (!(s.face h d).skip && !(s.face h d).isSettled 1, s)
  | (false, s) => (true, s)

/-- Enter PREPARING, with its lower request (R158). -/
def State.prepare (s : State) : State :=
  (s.modRun fun r => { r with state := .preparing }).lowerRequest

/-- The run's exposure attempt of panel 1 of the chosen sides, and its outcome (R157, R33). -/
def State.runAttempt (s : State) (rs : List (Head × Nat)) : State :=
  match s.countRequest.attemptExposure rs with
  | (.started slots, s) => s.modRun fun r => { r with slots := slots, state := .exposing }
  | (.refused .slotsFull, s) => s.modRun fun r => { r with state := .slotWait }
  | (.refused .doseLimit, s) => s.endRun .dose .none
  | (.refused r, s) => s.endRun .fault (.refusal r)

/-- Step 2 with a side chosen (R157). A capture start that finds the parity failed halts the cradle, and
what the event did before it stands, its answer with it (R185, log 23). -/
def State.captureChosen (s : State) (rs : List (Head × Nat)) : State :=
  if s.run.stopRequested then s.endRun .stopped .none
  else if s.cradle.parityGood = false then s.trip
  else if s.cradle.state ≠ .ready then s.prepare
  else s.runAttempt rs

/-- Steps 3 to 5: foldout, end of the book, turn (R157). -/
def State.passOn (s : State) (h : Handle) (k : Nat) : State :=
  let l := sideAt k .left
  let r := sideAt k .right
  if !((s.leaf h l.leaf).valid && (s.leaf h r.leaf).valid) then
    s.endRun .fault (.refusal .recordDamaged)
  else if 1 < (s.face h l).declared ∨ 1 < (s.face h r).declared then s.endRun .foldout .none
  else if (s.vol h).leaves ≤ k then s.endRun .endOfVolume .none
  else (s.modRun fun r => { r with state := .turning }).askTurn .forward

/-- The cycle's next step of a RUN (R157), which reads the volume record. With stop requested a held capture ends it (R159). -/
def State.cycleStep (s : State) : State :=
  match s.active with
  | none => s
  | some h =>
    let s := s.readVolume h
    let k := (s.vol h).opening
    if s.heldAt h k then
      if s.run.stopRequested then s.endRun .stopped .none
      else s.modRun fun r => { r with state := .deciding }
    else
      let (l, s) := s.chooseSide h k .left
      let (r, s) := s.chooseSide h k .right
      let rs := (if l then [(Head.left, 1)] else []) ++ (if r then [(Head.right, 1)] else [])
      if rs = [] then s.passOn h k else s.captureChosen rs

/-- The report of freed slots, made once for an event that freed any since `before` (R29, R160). It comes after the rest
of what the event that freed them does, but before the end of an exposure (R115): the model's choice (log 41). -/
def State.reportFreed (s before : State) : State :=
  if s.run.state = .slotWait ∧ before.freeCount < s.freeCount then s.cycleStep else s

/-- The test a run in DECIDING makes again at each accepted ACCEPT and REJECT (R159). -/
def State.decided (s : State) : State :=
  if s.run.state = .deciding then
    match s.active with
    | none => s
    | some h =>
      let s := s.readVolume h
      if s.heldAt h (s.vol h).opening then s else s.cycleStep
  else s

/-! ### The end of the run's exposure (R159) -/

/-- Why a head's capture of the run's exposure was aborted, if it was. -/
def State.runAbort (s : State) (h : Head) : Option AbortCause :=
  match s.run.slots.get h, (s.head h).capture with
  | some _, some c =>
    match c.outcome with
    | .aborted cause => some cause
    | _ => none
  | _, _ => none

/-- The run controller is given the outcomes of its exposure (R159, R115). When both captures were
aborted, whose head and cause the detail names is a free value (log 14). -/
def State.runExposureEnded (s : State) : State :=
  if s.run.state = .exposing then
    match s.runAbort .left, s.runAbort .right with
    | some l, some r =>
      if Config.bothAbortedNamesLeft s.draws then s.drawn.endRun .fault (.capture .left l)
      else s.drawn.endRun .fault (.capture .right r)
    | some l, none => s.endRun .fault (.capture .left l)
    | none, some r => s.endRun .fault (.capture .right r)
    | none, none => (s.modRun fun r => { r with slots := ⟨none, none⟩ }).cycleStep
  else s

/-! ### The end of a turn (R161, R162) -/

/-- A SEEK goes on after a turn (R162). -/
def State.seekOn (s : State) : State :=
  match s.run.target with
  | none => s
  | some t =>
    if s.openingNow = t then s.endRun .arrived .none
    else if s.run.stopRequested then s.endRun .stopped .none
    else if s.run.budget ≤ s.run.turnsTaken then s.endRun .noProgress .none
    else s.askTurn (toward s.openingNow t)

/-- A RUN goes on after a turn (R162). -/
def State.runOn (s : State) : State :=
  if s.run.stopRequested then s.endRun .stopped .none
  else if s.run.remaining = 0 then s.endRun .countDone .none
  else s.cycleStep

/-- What the run controller does at the end of a turn it asked for; `doubted` tells that the turn set
the uncertain flag (R161, R162). -/
def State.turnEnded (s : State) (doubted : Bool) : State :=
  if s.runActive && s.run.wanted.isSome then
    let s := s.modRun fun r => { r with wanted := none }
    if doubted then s.endRun .uncertain .none
    else
      match s.run.kind with
      | some .seek => (s.modRun fun r => { r with turnsTaken := r.turnsTaken + 1 }).seekOn
      | _ => (s.modRun fun r =>
          { r with cycles := r.cycles + 1, remaining := r.remaining - 1 }).runOn
  else s

/-! ### RUN, SEEK and the pedal (R154 to R156) -/

/-- Tests 1 to 6 of RUN and SEEK (R154, R155, R185): the handle of the ACTIVE volume, or a refusal. -/
def State.startTests (s : State) : Except Reason Handle × State :=
  if s.runActive then (.error .runActive, s)
  else
    match s.active with
    | none => (.error .noVolume, s)
    | some h =>
      let s := s.readVolume h
      if s.cradle.parityGood = false then (.error .halted, s.trip)
      else if s.cradle.state = .halted then (.error .halted, s)
      else if s.cradle.state = .turnGranted ∨ (s.cradle.state = .raising ∧ s.cradle.grantPending) then
        (.error .cradleState, s)
      else if s.inFlight then (.error .exposureInFlight, s)
      else if (s.vol h).uncertain then (.error .openingUncertain, s)
      else (.ok h, s)

/-- The run record at the start of a RUN (R154); its state is what the first step makes it. -/
def RunRecord.startRun (r : RunRecord) (count : Nat) : RunRecord :=
  { r with
    state := .preparing, kind := some .run, remaining := count + 1, cycles := 0, target := none
    budget := 0, turnsTaken := 0, wanted := none, stopRequested := false, slots := ⟨none, none⟩ }

/-- The run record at the start of a SEEK (R155). -/
def RunRecord.startSeek (r : RunRecord) (target budget : Nat) : RunRecord :=
  { r with
    state := .seeking, kind := some .seek, remaining := 0, target := some target, budget := budget
    turnsTaken := 0, wanted := none, stopRequested := false, slots := ⟨none, none⟩ }

/-- RUN (R154). -/
def run (count : Nat) (s : State) : Reply × State :=
  match s.startTests with
  | (.error r, s) => (.refused r, s)
  | (.ok _, s) =>
    if 4095 < count then (.refused .badParam, s)
    else
      let s := (s.modRun (·.startRun count)).cycleStep
      (.accepted (num16 s.run.state.place), s)

/-- The target a SEEK word names (R155 test 7). -/
def State.seekTarget (s : State) (h : Handle) (w : Nat) : Option Nat × State :=
  if w = 0xFFFF then (s.rescan.head?.map openingOf, s.readRescan)
  else if w ≤ (s.vol h).leaves then (some w, s)
  else (none, s)

/-- The distance between two openings. -/
def distance (a b : Nat) : Nat := (a - b) + (b - a)

/-- SEEK (R155). -/
def seek (w : Nat) (s : State) : Reply × State :=
  match s.startTests with
  | (.error r, s) => (.refused r, s)
  | (.ok h, s) =>
    match s.seekTarget h w with
    | (none, s) => (.refused .badParam, s)
    | (some t, s) =>
      let k := (s.vol h).opening
      if s.heldAt h k then (.refused .undecided, s)
      else
        let s := s.modRun (·.startSeek t (distance k t + 4))
        let s := if t = k then s.endRun .arrived .none else s.askTurn (toward k t)
        (.accepted (num16 t ++ num16 s.run.state.place), s)

/-- The pedal is taken as RUN 0 while the run controller is IDLE (R156). A start that finds the
interlock check failed is not carried out (R185, log 23). -/
def State.pedalStart (s : State) : State :=
  if s.runActive then s
  else
    match Machine.run 0 s with
    | (.accepted _, s) => s.modRun fun r => { r with pedalRefusal := none }
    | (.refused r, t) =>
      if s.active.isSome ∧ s.cradle.parityGood = false then t
      else t.modRun fun x => { x with pedalRefusal := some r }

/-! ### STOP RUN and READ RUN (R163, R165) -/

/-- Whether the turn the run waits for has been taken up: PENDING or GRANTED (R163). -/
def State.turnUnderWay (s : State) : Bool :=
  s.turn.phase == .pending || s.turn.phase == .granted

/-- The effect of a STOP RUN taken while stop requested is clear, by run state (R163). -/
def State.firstStop (s : State) : State :=
  match s.run.state with
  | .idle => s
  | .preparing | .deciding | .slotWait =>
    (s.modRun fun r => { r with remaining := 0 }).endRun .stopped .none
  | .exposing => s.modRun fun r => { r with remaining := 0, stopRequested := true }
  | .turning | .seeking =>
    if s.turnUnderWay then s.modRun fun r => { r with remaining := 0, stopRequested := true }
    else (s.modRun fun r => { r with remaining := 0 }).endRun .stopped .none

/-- The effect of STOP RUN: a second one changes nothing, so that a run stopped in EXPOSING takes its
turn (R163). -/
def State.requestStop (s : State) : State := if s.run.stopRequested then s else s.firstStop

/-- STOP RUN (R163). -/
def stopRun (s : State) : Reply × State :=
  let s := s.requestStop
  (.accepted (num16 s.run.state.place), s)

/-- The three values of the detail of a run's end (R164). -/
def EndDetail.words : EndDetail → List Word
  | .none => [0, 0, 0]
  | .capture h c => num16 1 ++ num16 (headPlace h) ++ num16 c.place
  | .refusal r => num16 2 ++ num16 r.number ++ [0]

def RunEnd.words (e : RunEnd) : List Word :=
  num16 e.reason.place ++ e.detail.words ++ num16 e.opening

/-- The pedal refusal: absent, or the reason's number (R153, R188, R195). -/
def refusalWord : Option Reason → List Word
  | none => [0]
  | some r => num16 r.number

/-- The run record's words (R153, R165). -/
def RunRecord.words (r : RunRecord) : List Word :=
  num16 r.state.place ++ optEnum RunKind.place r.kind ++ num16 r.remaining ++ num16 r.cycles ++
  optWords num16 r.target ++ num16 r.budget ++ num16 r.turnsTaken ++
  optEnum Direction.place r.wanted ++ flagWord r.stopRequested ++
  optWords (fun i : SlotNo => num16 i.val) r.slots.left ++
  optWords (fun i : SlotNo => num16 i.val) r.slots.right ++
  optWords RunEnd.words r.lastEnd ++ refusalWord r.pedalRefusal

/-- READ RUN (R165). -/
def readRun (s : State) : Reply × State := (.accepted s.run.words, s)

end Sys2Proof.Machine
end

