-- ==== Sys2Proof/Machine/Cradle.lean ====
section
/-! DEFINITION. The cradle interlock (chapter 3): LOWER, RAISE, RESUME, the TIMERS settings, the
switches, pressure, stop line, pedal and timers, and the end of an exposure (06 R115, 03 R54). -/
namespace Sys2Proof.Machine

def State.modCradle (s : State) (f : Cradle → Cradle) : State := { s with cradle := f s.cradle }

/-! ### Entering READY, SETTLING, OPEN, TURN_GRANTED (R51, R52, R55) -/

/-- The cradle becomes READY; a run in PREPARING takes its next step (R52, R158). -/
def State.reachReady (s : State) : State :=
  let s := s.enterChecked .ready
  if s.cradle.state = .ready ∧ s.run.state = .preparing then s.cycleStep else s

/-- Start the settle timer; with a settle field of 0 its start is its expiry (R51). -/
def State.startSettle (s : State) : State :=
  if s.timers.settle = 0 then s.reachReady
  else s.modCradle fun c => { c with settleTimer := some s.timers.settle }

/-- The cradle becomes SETTLING, its settle timer started if pressure is in range (R51, R52, R54). -/
def State.enterSettling (s : State) : State :=
  let s := s.enterChecked .settling
  if s.cradle.state = .settling ∧ s.cradle.pressure then s.startSettle else s

/-- A grant begins: TURN_GRANTED with the grant timer started (R55, R56, R65). -/
def State.beginGrant (s : State) : State :=
  { (s.modCradle fun c => { c with grantPending := false }) with
    turn := { s.turn with phase := .granted } }.enterChecked .turnGranted

/-- The cradle becomes OPEN from RAISING or HALTED: CRADLE_OPEN to the turner, and then the grant that
waits, or the lower request of a run in PREPARING (R55, R60, R61, R158). -/
def State.reachOpen (s : State) : State :=
  let s := s.enterChecked .opened
  if s.cradle.state = .opened then
    let s := s.postTurner .cradleOpen
    if s.cradle.grantPending then s.beginGrant
    else if s.run.state = .preparing then s.lowerRequest
    else s
  else s

/-! ### The end of an exposure (R54, R115) -/

/-- The interlock settles its next state when an exposure ends in READY (R54, R185). -/
def State.settleAfterExposure (s : State) : State :=
  if s.cradle.parityGood = false then s.trip
  else if s.cradle.state = .ready then
    if s.cradle.raisePending then
      (s.modCradle fun c => { c with raisePending := false }).enterChecked .raising
    else if s.cradle.pressure = false then s.enterSettling
    else s
  else s

/-- The event in which the last capture of an exposure ends, other than a halt (R115). -/
def State.exposureEnd (s : State) : State :=
  ((s.postStation .captureDone).settleAfterExposure).runExposureEnded

/-- A head error aborts a head's capture; the exposure ends if it was the last (R114, R115). -/
def State.headError (s : State) (h : Head) (cause : AbortCause) : State :=
  let t := (s.abortCapture h cause).reportFreed s
  if t.inFlight then t else t.exposureEnd

/-! ### Commands (R50, R53, R60) -/

def CradleState.word (c : CradleState) : List Word := num16 c.place

/-- LOWER (R50). -/
def lower (s : State) : Reply × State :=
  if s.runActive then (.refused .runActive, s)
  else if s.cradle.parityGood = false then (.refused .halted, s.trip)
  else
    match s.cradle.state with
    | .halted => (.refused .halted, s)
    | .turnGranted | .raising => (.refused .cradleState, s)
    | .opened =>
      let s := s.enterChecked .lowering
      (.accepted s.cradle.state.word, s)
    | .lowering | .settling => (.accepted s.cradle.state.word, s)
    | .ready =>
      (.accepted s.cradle.state.word, s.modCradle fun c => { c with raisePending := false })

/-- The effect of an accepted RAISE by cradle state (R53). -/
def State.raise (s : State) : State :=
  match s.cradle.state with
  | .ready =>
    if s.inFlight then s.modCradle fun c => { c with raisePending := true }
    else s.enterChecked .raising
  | .settling | .lowering => s.enterChecked .raising
  | .opened | .turnGranted | .raising | .halted => s

/-- RAISE (R53). -/
def raise (s : State) : Reply × State :=
  if s.runActive then (.refused .runActive, s)
  else if s.cradle.parityGood = false then (.refused .halted, s.trip)
  else if s.cradle.state = .halted then (.refused .halted, s)
  else
    let s := s.raise
    (.accepted (s.cradle.state.word ++ flagWord s.cradle.raisePending), s)

/-- RESUME (R60). -/
def resume (s : State) : Reply × State :=
  if s.cradle.parityGood = false then (.refused .halted, s.trip)
  else if s.cradle.state ≠ .halted then (.refused .cradleState, s)
  else if s.cradle.stopLine then (.refused .halted, s)
  else if s.cradle.upSwitch && s.cradle.downSwitch then (.refused .halted, s)
  else
    let s := if s.cradle.upSwitch then s.reachOpen else s.enterChecked .raising
    (.accepted s.cradle.state.word, s)

/-- A field of SET TIMERS, counted from 0 (R49). -/
def setTimersField (i v : Nat) (s : State) : State :=
  let t := s.timers
  { s with timers := match i with
    | 0 => { t with travel := clamp v 100 5000 }
    | 1 => { t with settle := min v 2000 }
    | 2 => { t with grant := clamp v 500 20000 }
    | 3 => { t with frame := { t.frame with left := clamp v 10 5000 } }
    | 4 => { t with frame := { t.frame with right := clamp v 10 5000 } }
    | _ => t }

/-! ### Events at the inputs (R51, R52, R55, R57, R59)

An event is a change of its input (log 8). Each tests the parity of the cradle state; an event that
finds it failed is not carried out beyond the level of its input (R185, log 23). -/

/-- An interlock event: the check of the cradle state, then the event (R185). -/
def State.interlock (s : State) (event : State → State) : State :=
  if s.cradle.parityGood = false then s.trip else event s

/-- The down switch becomes asserted: it completes LOWERING (R51, R57). -/
def downSwitchAsserted (s : State) : State :=
  if s.cradle.downSwitch then s
  else
    (s.modCradle fun c => { c with downSwitch := true }).interlock fun s =>
      if s.cradle.state = .lowering then s.enterSettling else s.checkSwitches

/-- The up switch becomes asserted: it completes RAISING (R55, R57). -/
def upSwitchAsserted (s : State) : State :=
  if s.cradle.upSwitch then s
  else
    (s.modCradle fun c => { c with upSwitch := true }).interlock fun s =>
      if s.cradle.state = .raising then s.reachOpen else s.checkSwitches

/-- A switch clears (R57). -/
def switchCleared (w : PlatenSwitch) (s : State) : State :=
  match w with
  | .up =>
    if s.cradle.upSwitch then
      (s.modCradle fun c => { c with upSwitch := false }).interlock State.checkSwitches
    else s
  | .down =>
    if s.cradle.downSwitch then
      (s.modCradle fun c => { c with downSwitch := false }).interlock State.checkSwitches
    else s

/-- The motion flag of a head whose working record is MEASURING (R146). -/
def HeadUnit.markMotion (u : HeadUnit) : HeadUnit :=
  if u.work.measuring then { u with work := { u.work with motion := true } } else u

/-- What a loss of pressure does in a cradle state (R51, R52, R146). -/
def State.losePressure (s : State) : State :=
  match s.cradle.state with
  | .settling => s.modCradle fun c => { c with settleTimer := none }
  | .ready =>
    if s.inFlight then { s with heads := ⟨s.heads.left.markMotion, s.heads.right.markMotion⟩ }
    else s.enterSettling
  | .opened | .turnGranted | .lowering | .raising | .halted => s

/-- Pressure leaves its range (R51, R52, R146). -/
def pressureLost (s : State) : State :=
  if s.cradle.pressure then
    (s.modCradle fun c => { c with pressure := false }).interlock State.losePressure
  else s

/-- Pressure enters its range (R51, R52). -/
def pressureReturned (s : State) : State :=
  if s.cradle.pressure then s
  else
    (s.modCradle fun c => { c with pressure := true }).interlock fun s =>
      if s.cradle.state = .settling ∧ s.cradle.settleTimer = none then s.startSettle else s

/-- The stop line becomes asserted (R59). -/
def stopLineAsserted (s : State) : State :=
  if s.cradle.stopLine then s
  else
    (s.modCradle fun c => { c with stopLine := true }).interlock fun s =>
      if s.cradle.state = .halted then
        (s.modCradle fun c => { c with haltCause := .stop }).reportHalt .stop
      else s.halt .stop

/-- The stop line is released (R59). -/
def stopLineReleased (s : State) : State := s.modCradle fun c => { c with stopLine := false }

/-- The pedal becomes asserted; during the initialisation pass it is not taken (R156). -/
def pedalAsserted (s : State) : State :=
  if s.cradle.pedal then s
  else
    let s := s.modCradle fun c => { c with pedal := true }
    if s.initRunning then s else s.pedalStart

/-- The pedal is released (R156). -/
def pedalReleased (s : State) : State := s.modCradle fun c => { c with pedal := false }

/-! ### Timers (R49, R52, R57, R75, 06 R113) -/

/-- The travel timer expires (R57). A stopped timer does not (log 7). -/
def travelTimerExpiry (s : State) : State :=
  match s.cradle.travelTimer with
  | none => s
  | some _ => s.interlock fun s => s.halt .travelTimeout

/-- The settle timer expires (R52). -/
def settleTimerExpiry (s : State) : State :=
  match s.cradle.settleTimer with
  | none => s
  | some _ => s.interlock State.reachReady

/-- The grant timer expires (R75). -/
def grantTimerExpiry (s : State) : State :=
  match s.cradle.grantTimer with
  | none => s
  | some _ => s.interlock fun s => s.halt .turnTimeout

/-- A head's frame timer expires (06 R113). -/
def frameTimerExpiry (h : Head) (s : State) : State :=
  match (s.head h).phase, (s.head h).frameTimer with
  | .capturing, some _ => s.headError h .timeout
  | _, _ => s

/-- A bank's remaining time runs out (05 R86). -/
def strobePulseEnd (b : Bank) (s : State) : State :=
  { s with light := { s.light with strobes := s.light.strobes.set b none } }

end Sys2Proof.Machine
end

