-- ==== Sys2Proof/Machine/Frames.lean ====
section
/-! DEFINITION. The sensor ports (06 R104, R111 to R119): lines, samples and frame ends, the correction
stages, the running dark and the results of calibration captures (chapter 7), page measurement and the
verdict (chapter 8). -/
namespace Sys2Proof.Machine

/-! ### The correction stages (R117 to R119) -/

/-- The dark level of a channel (R117). -/
def darkLevel (c : Correction) (running : PerChannel Nat) (ch : Channel) : Nat :=
  match c.darkMode with
  | .fixed => c.fixed.get ch
  | .running => running.get ch
  | .trimmed => min 4095 (running.get ch + c.fixed.get ch)

/-- The floored value s1 of a sample r, with offset o and dark level d (R117). -/
def flooredSample (r o d : Nat) : Nat := min (r + o - d) 4095

/-- The gain result s2 (R118). -/
def gainResult (s1 g : Nat) : Nat := (s1 * g + 512) / 1024

/-- The stored value (R118). -/
def storedValue (s2 : Nat) : Nat := min s2 65535

/-- Whether a sample is clipped (R119). -/
def isClipped (r s2 : Nat) : Bool := decide (r = 4095) || decide (65535 < s2)

/-- The channel of the i-th sample of a line (R104). -/
def channelAt (i : Nat) : Channel :=
  match i % 3 with
  | 0 => .r
  | 1 => .g
  | _ => .b

/-! ### The gain table (R133, R118) -/

/-- The place of a gain entry (R133). -/
def gainKey (h : Head) (c : Channel) (x : Nat) : Nat :=
  (headPlace h * 3 + c.place) * Config.gainColumns + x

def State.gainEntry (s : State) (k : Nat) : GainEntry := Sparse.get GainEntry.unity s.gain k

def State.setGain (s : State) (k : Nat) (e : GainEntry) : State :=
  { s with gain := Sparse.set GainEntry.unity s.gain k e }

/-- Read a gain entry: its value, or nothing when it is uncorrectable; a single error is corrected,
written back and counted (R133, R178). -/
def State.readGain (s : State) (k : Nat) : Option Nat × State :=
  let e := s.gainEntry k
  match e.error with
  | none => (some e.value.toNat, s)
  | some .single =>
    (some e.value.toNat, (s.setGain k { e with error := none }).recovered .recoveredGain 1)
  | some .uncorrectable => (none, s)

/-- Count a substitution in a head's half of the pipeline (R118, R147). -/
def HeadUnit.substituted (u : HeadUnit) : HeadUnit :=
  { u with
    capture := u.capture.map fun c => { c with substitutions := c.substitutions + 1 }
    work := { u.work with degraded := true } }

/-- The gain for a sample: an uncorrectable entry is replaced by unity, with its report (R118, R184). -/
def State.gainFor (s : State) (h : Head) (c : Channel) (x : Nat) : Nat × State :=
  match s.readGain (gainKey h c x) with
  | (some g, s) => (g, s)
  | (none, s) =>
    (Config.unityGain,
     (s.modHead h HeadUnit.substituted).report
       { FaultRecord.plain .gainSubstitute with head := some h, channel := some c, column := some x })

/-! ### Samples (R111, R125, R130, R131) -/

/-- Count a clipped sample (R119, R131). -/
def HeadUnit.clipIf (u : HeadUnit) (b : Bool) : HeadUnit :=
  if b then { u with capture := u.capture.map fun c => { c with clipCount := c.clipCount + 1 } }
  else u

def PerChannel.add (p : PerChannel Nat) (c : Channel) (v : Nat) : PerChannel Nat :=
  p.set c (p.get c + v)

/-- An active sample of a NORMAL capture: corrected into the line buffer (R117 to R119). -/
def State.correctSample (s : State) (h : Head) (snap : Snapshot) (c : Channel) (x v : Nat) : State :=
  let s1 := flooredSample v snap.correction.offset (darkLevel snap.correction snap.running c)
  let (g, s) := s.gainFor h c x
  let s2 := gainResult s1 g
  s.modHead h fun u =>
    { u.clipIf (isClipped v s2) with lineBuffer := BitVec.ofNat 16 (storedValue s2) :: u.lineBuffer }

/-- An active sample of a FLAT CAPTURE: floored and added to its column (R131). -/
def HeadUnit.flatSample (u : HeadUnit) (snap : Snapshot) (c : Channel) (i v : Nat) : HeadUnit :=
  let s1 := flooredSample v snap.correction.offset (darkLevel snap.correction snap.running c)
  { u.clipIf (decide (v = 4095)) with flatSums := u.flatSums.modify i (· + s1) }

/-- Sample i (from 0) of a line within the first H (R111). -/
def State.takeSample (s : State) (h : Head) (kind : CaptureKind) (snap : Snapshot) (i v : Nat) :
    State :=
  let c := channelAt i
  if i < 3 * Config.maskedColumns then
    s.modHead h fun u => { u with darkSums := u.darkSums.add c v }
  else
    let j := i - 3 * Config.maskedColumns
    match kind with
    | .normal => s.correctSample h snap c (j / 3) v
    | .dark => s.modHead h fun u => { u with activeSums := u.activeSums.add c v }
    | .flat => s.modHead h fun u => u.flatSample snap c j v

/-- The samples of a line (R104, R111). -/
def Snapshot.lineSamples (snap : Snapshot) : Nat := 3 * (Config.maskedColumns + snap.correction.w)

/-- Whether the line in hand is beyond the H-th (R111). -/
def overlongLine (c : CaptureRecord) (snap : Snapshot) : Bool := decide (snap.correction.h ≤ c.lines)

/-- Write the port line state. -/
def State.setPort (s : State) (h : Head) (p : PortState) : State :=
  s.modHead h fun u => { u with port := p }

/-- The port event of a CAPTURING head; an IDLE head discards it (R111, R116). -/
def State.atCapture (s : State) (h : Head) (event : CaptureRecord → Snapshot → State) : State :=
  match (s.head h).phase, (s.head h).capture, (s.head h).snapshot with
  | .capturing, some c, some snap => event c snap
  | _, _, _ => s

/-- LINE_START (R111). -/
def lineStart (h : Head) (s : State) : State :=
  s.atCapture h fun c snap =>
    match (s.head h).port with
    | .inLine _ => s.headError h .lineLength
    | .between =>
      s.modHead h fun u =>
        { u with
          port := .inLine 0
          lineBuffer := []
          capture := some { c with overlong := c.overlong || overlongLine c snap } }

/-- SAMPLE (R111). -/
def sample (h : Head) (v : Nat) (s : State) : State :=
  s.atCapture h fun c snap =>
    match (s.head h).port with
    | .between => s.headError h .lineLength
    | .inLine n =>
      if overlongLine c snap then s.setPort h (.inLine (n + 1))
      else if snap.lineSamples < n + 1 then s.headError h .lineLength
      else (s.setPort h (.inLine (n + 1))).takeSample h c.kind snap n v

/-! ### Page measurement of a line (R142 to R144) -/

/-- The gray values of a line's stored values, in column order (R119). -/
def graysOf : List Word → List Nat
  | r :: g :: b :: rest => grayOf r.toNat g.toNat b.toNat :: graysOf rest
  | _ => []

/-- The line's share of the metering sum (R142). -/
def windowSum (window : Box) (grays : List Nat) : Nat :=
  ((grays.drop window.left).take window.width).sum

/-- The edges of a line, scanning from column x with a bright run behind it (R143). -/
def edgesFrom (threshold runLength : Nat) : List Nat → Nat → Nat → Option (Nat × Nat) →
    Option (Nat × Nat)
  | [], _, _, e => e
  | g :: gs, x, run, e =>
    let run := if threshold ≤ g then run + 1 else 0
    let e := if runLength ≤ run then
        (match e with
         | none => some (x + 1 - runLength, x)
         | some (l, _) => some (l, x))
      else e
    edgesFrom threshold runLength gs (x + 1) run e

/-- The left and right edge of a line, when it is a content line (R143). -/
def lineEdges (m : Measurement) (grays : List Nat) : Option (Nat × Nat) :=
  edgesFrom m.threshold m.runLength grays 0 0 none

/-- A content line taken into the working record (R144). -/
def WorkRecord.content (w : WorkRecord) (l : Nat) (e : Nat × Nat) : WorkRecord :=
  { w with
    contentLines := w.contentLines + 1
    firstContent := some (w.firstContent.getD l)
    lastContent := some l
    leastLeft := some (min (w.leastLeft.getD e.1) e.1)
    greatestRight := some (max (w.greatestRight.getD e.2) e.2) }

/-- A complete line taken into the working record (R139, R142, R144). -/
def WorkRecord.measure (w : WorkRecord) (m : Measurement) (l : Nat) (grays : List Nat) : WorkRecord :=
  let inWindow := decide (w.window.top ≤ l) && decide (l < w.window.top + w.window.height)
  let w := { w with
    linesMeasured := w.linesMeasured + 1
    sum := if inWindow then w.sum + windowSum w.window grays else w.sum }
  match lineEdges m grays with
  | none => w
  | some e => w.content l e

/-! ### Line end (R111) -/

/-- A line of a NORMAL capture is written to its slot (R34, R111). -/
def State.storeLine (s : State) (i : SlotNo) (l : Nat) (values : List Word) : State :=
  (s.setSlot i { s.slot i with lines := (s.slot i).lines + 1 }).writeLine i l values

/-- A complete line within the first H (R111). -/
def State.completeLine (s : State) (h : Head) (c : CaptureRecord) (snap : Snapshot) : State :=
  let values := (s.head h).lineBuffer.reverse
  let s := s.modHead h fun u =>
    { u with
      port := .between
      lineBuffer := []
      capture := some { c with lines := c.lines + 1 }
      work := if u.work.measuring then u.work.measure snap.measurement c.lines (graysOf values)
        else u.work }
  match c.slot with
  | some i => s.storeLine i c.lines values
  | none => s

/-- LINE_END (R111). -/
def lineEnd (h : Head) (s : State) : State :=
  s.atCapture h fun c snap =>
    match (s.head h).port with
    | .between => s.headError h .lineLength
    | .inLine n =>
      if overlongLine c snap then s.setPort h .between
      else if n = snap.lineSamples then s.completeLine h c snap
      else s.headError h .lineLength

/-! ### The running dark (R126) -/

/-- floor((sum + n/2) / n) (R126, R130, R142). -/
def roundedMean (sum n : Nat) : Nat := (sum + n / 2) / n

/-- v + floor((cand - v) / 8), the floor toward minus infinity (R126). -/
def darkStep (v cand : Nat) : Nat :=
  if v ≤ cand then v + (cand - v) / 8 else v - (v - cand + 7) / 8

/-- One channel's update (R126). -/
def darkFigure (c : Correction) (sum v : Nat) : DarkFigure :=
  let mean := roundedMean sum (Config.maskedColumns * c.h)
  let cand := min mean 1023
  let held := decide (cand < c.winLo) || decide (c.winHi < cand)
  { mean := mean, candidate := cand, before := v, after := if held then v else darkStep v cand
    held := held }

/-- How many of the three channels are HELD. -/
def heldCount (f : PerChannel DarkFigure) : Nat :=
  (if f.r.held then 1 else 0) + (if f.g.held then 1 else 0) + (if f.b.held then 1 else 0)

/-- The running dark update of a complete frame (R126). -/
def State.updateDark (s : State) (h : Head) (snap : Snapshot) : State :=
  let u := s.head h
  let f : PerChannel DarkFigure :=
    u.darkSums.map fun ch sum => darkFigure snap.correction sum (u.running.get ch)
  let s := s.modHead h fun u =>
    { u with
      running := f.map fun _ d => d.after
      driftCount := addSat u.driftCount (heldCount f)
      lastDarkUpdate := some f }
  if 0 < heldCount f then s.postStation .darkDrift else s

/-! ### Results of calibration captures (R130, R132) -/

/-- The result of a DARK CAPTURE (R130). -/
def HeadUnit.darkResult (u : HeadUnit) (snap : Snapshot) : HeadUnit :=
  let n := snap.correction.w * snap.correction.h
  let f : PerChannel Nat := u.activeSums.map fun _ sum => min 1023 (roundedMean sum n)
  { u with
    correction := { u.correction with fixed := f }
    running := f
    lastDarkCapture := some f }

/-- The mean floored value of a column (R132 step 1). -/
def flatMean (sum h : Nat) : Nat := roundedMean sum h

/-- The unlimited gain of a column of mean a (R132 step 3). -/
def flatQuotient (t a : Nat) : Nat := (t * Config.unityGain + a / 2) / a

/-- The gain of a column of mean a (R132 steps 2 and 3). -/
def flatGain (t a : Nat) : Nat := if a = 0 then 65535 else min 65535 (flatQuotient t a)

/-- Write the gain entries of a flat frame from sample i on (R132 step 4). -/
def State.writeFlat (s : State) (h : Head) (snap : Snapshot) : Nat → List Nat → State
  | _, [] => s
  | i, sum :: sums =>
    (s.setGain (gainKey h (channelAt i) (i / 3))
      ⟨BitVec.ofNat 16 (flatGain snap.flatTarget (flatMean sum snap.correction.h)), none⟩).writeFlat
      h snap (i + 1) sums

/-- The last flat capture record (R132). -/
def flatRecord (snap : Snapshot) (sums : List Nat) (clips : Nat) : FlatRecord :=
  let means := sums.map fun x => flatMean x snap.correction.h
  { target := snap.flatTarget
    width := snap.correction.w
    dead := means.countP (fun a => a = 0)
    limited := means.countP (fun a => decide (a ≠ 0) && decide (65535 < flatQuotient snap.flatTarget a))
    clipCount := clips }

/-- The result of a FLAT CAPTURE (R132). -/
def State.flatResult (s : State) (h : Head) (snap : Snapshot) (c : CaptureRecord) : State :=
  let sums := (s.head h).flatSums
  (s.writeFlat h snap 0 sums).modHead h fun u =>
    { u with lastFlatCapture := some (flatRecord snap sums c.clipCount) }

/-! ### The verdict (R142 to R150) -/

/-- The crop box of a capture with content (R144). -/
def cropBox (w : WorkRecord) (m : Measurement) (width height : Nat) : Box :=
  let left := w.leastLeft.getD 0 - m.guardColumns
  let right := min (width - 1) (w.greatestRight.getD 0 + m.guardColumns)
  let top := w.firstContent.getD 0 - m.guardLines
  let bottom := min (height - 1) (w.lastContent.getD 0 + m.guardLines)
  ⟨left, top, right + 1 - left, bottom + 1 - top⟩

/-- Whether a capture is blank (R145). -/
def WorkRecord.isBlank (w : WorkRecord) (m : Measurement) : Bool :=
  decide (w.contentLines = 0) || decide (w.contentLines < m.blankMinimum)

/-- The verdict from the gate's tests and the latched mode (R149). -/
def verdictOf (k : KeepSettings) (motion clip degraded : Bool) : Verdict :=
  match k.mode with
  | .gate => if motion || clip || degraded then .hold else .keep
  | .decideAll => .hold

/-- The measurement record of a finished frame (R150). -/
def finishRecord (w : WorkRecord) (snap : Snapshot) (clips : Nat) : MeasurementRecord :=
  let m := snap.measurement
  let blank := w.isBlank m
  let motion := snap.keep.motionTest && w.motion
  let clip := decide (m.clipLimit < clips)
  let degraded := snap.keep.degradedTest && w.degraded
  { linesMeasured := w.linesMeasured
    contentLines := w.contentLines
    firstContent := w.firstContent
    lastContent := w.lastContent
    leastLeft := w.leastLeft
    greatestRight := w.greatestRight
    window := w.window
    mean := roundedMean w.sum (w.window.width * w.window.height)
    crop := if blank then none else some (cropBox w m snap.correction.w snap.correction.h)
    blank := blank
    degraded := w.degraded
    motion := w.motion
    clipCount := clips
    failedMotion := motion
    failedClip := clip
    failedDegraded := degraded
    verdict := verdictOf snap.keep motion clip degraded }

/-- The statistics handed to the slot store (R150 step 3). -/
def MeasurementRecord.stats (r : MeasurementRecord) (overlong : Bool) : CaptureStats :=
  { crop := r.crop, meanGray := r.mean, clipCount := r.clipCount, blank := r.blank
    degraded := r.degraded, motion := r.motion, overlong := overlong }

/-- The verdict on a NORMAL capture, handed to the slot store (R34, R150). -/
def State.judge (s : State) (h : Head) (c : CaptureRecord) (snap : Snapshot) : State :=
  let r := finishRecord (s.head h).work snap c.clipCount
  let s := s.modHead h fun u =>
    { u with
      capture := some { c with outcome := .ended (some r.verdict) }
      work := { u.work with measuring := false }
      lastMeasurement := some r }
  match c.slot with
  | none => s
  | some i =>
    let s := s.setSlot i { s.slot i with stats := r.stats c.overlong }
    match (s.slot i).owner with
    | none => s
    | some o => s.actOnVerdict i o r.verdict

/-- The end of a calibration capture (R112). -/
def State.endCalibration (s : State) (h : Head) (c : CaptureRecord) : State :=
  s.modHead h fun u => { u with capture := some { c with outcome := .ended none } }

/-- The frame end of a complete frame (R112). -/
def State.completeFrame (s : State) (h : Head) (c : CaptureRecord) (snap : Snapshot) : State :=
  let s := s.modHead h fun u =>
    { u with phase := .idle, port := .between, frameTimer := none, lineBuffer := [] }
  let s := s.updateDark h snap
  match c.kind with
  | .normal => s.judge h c snap
  | .dark => (s.endCalibration h c).modHead h (·.darkResult snap)
  | .flat => (s.endCalibration h c).flatResult h snap c

/-- FRAME_END (R112, R115, R116). -/
def frameEnd (h : Head) (s : State) : State :=
  if (s.head h).phase = .idle then s.modHead h fun u => { u with stray := incSat u.stray }
  else
    s.atCapture h fun c snap =>
      if c.lines < snap.correction.h then s.headError h .shortFrame
      else
        let t := (s.completeFrame h c snap).reportFreed s
        if t.inFlight then t else t.exposureEnd

end Sys2Proof.Machine
end

