-- ==== Sys2Proof/Machine/Calibration.lean ====
section
/-! DEFINITION. The CORRECTION, MEASUREMENT and KEEP settings (06 R105, 07 R124, 08 R140, R148), the
calibration commands (chapter 7), and the readouts of the heads (06 R120, 07 R136, 08 R151). -/
namespace Sys2Proof.Machine

/-! ### Settings field by field -/

/-- A W word: clamped, then rounded down to a multiple of 16 (R105). -/
def widthOf (v : Nat) : Nat := clamp v 1024 6144 / 16 * 16

/-- A dark mode word (R124). -/
def darkModeOf : Nat → DarkMode
  | 0 => .fixed
  | 1 => .running
  | _ => .trimmed

/-- A field of SET CORRECTION; field 1 is W, the word after the head word (R105, R124). -/
def Correction.setField (c : Correction) (i v : Nat) : Correction :=
  match i with
  | 1 => { c with w := widthOf v }
  | 2 => { c with h := clamp v 1024 8192 }
  | 3 => { c with darkMode := darkModeOf v }
  | 4 => { c with fixed := c.fixed.set .r (min v 1023) }
  | 5 => { c with fixed := c.fixed.set .g (min v 1023) }
  | 6 => { c with fixed := c.fixed.set .b (min v 1023) }
  | 7 => { c with offset := min v 255 }
  | 8 => { c with winLo := min (min v 1023) c.winHi }
  | 9 => { c with winHi := max (min v 1023) c.winLo }
  | _ => c

/-- A word of SET CORRECTION after its head word (R105, R124). -/
def setCorrectionField (h : Head) (i v : Nat) (s : State) : State :=
  s.modHead h fun u => { u with correction := u.correction.setField i v }

/-- A field of SET MEASUREMENT from the words so far, the head word included. The clip limit is
applied at its second word (R140). -/
def Measurement.setField (m : Measurement) (ws : List Word) : Measurement :=
  let v := arg ws (ws.length - 1)
  match ws.length - 1 with
  | 1 => { m with left := min v 6143 }
  | 2 => { m with top := min v 8191 }
  | 3 => { m with width := clamp v 1 6144 }
  | 4 => { m with height := clamp v 1 8192 }
  | 5 => { m with threshold := v }
  | 6 => { m with runLength := clamp v 1 8 }
  | 7 => { m with guardColumns := min v 255 }
  | 8 => { m with guardLines := min v 255 }
  | 9 => { m with blankMinimum := min v 255 }
  | 11 => { m with clipLimit := arg32 ws 10 }
  | _ => m

/-- A word of SET MEASUREMENT after its head word (R140). -/
def setMeasurementField (h : Head) (ws : List Word) (s : State) : State :=
  s.modHead h fun u => { u with measurement := u.measurement.setField ws }

/-- A field of SET KEEP, counted from 0 (R148). -/
def setKeepField (i v : Nat) (s : State) : State :=
  let k := s.keep
  { s with keep := match i with
    | 0 => { k with mode := if v = 0 then .gate else .decideAll }
    | 1 => { k with motionTest := decide (0 < v) }
    | 2 => { k with degradedTest := decide (0 < v) }
    | _ => k }

/-! ### DARK SEED, DARK CAPTURE, FLAT CAPTURE (R127 to R129) -/

/-- A number per channel, R before G before B (R195). -/
def channelWords (words : α → List Word) (p : PerChannel α) : List Word :=
  words p.r ++ words p.g ++ words p.b

/-- DARK SEED (R127). -/
def darkSeed (head : Nat) (s : State) : Reply × State :=
  match headOf head with
  | none => (.refused .badParam, s)
  | some h =>
    (.accepted (channelWords num16 (s.head h).correction.fixed),
     s.modHead h fun u => { u with running := u.correction.fixed })

/-- The heads of a heads set; none for a word that is no set (R128). -/
def headsOf : Nat → List Head
  | 1 => [.left]
  | 2 => [.right]
  | 3 => [.left, .right]
  | _ => []

/-- The tests of a calibration capture (R128, R185). -/
def State.calibrationTests (s : State) (heads : List Head) : Option Reason × State :=
  if heads = [] then (some .badParam, s)
  else if s.runActive then (some .runActive, s)
  else if s.active.isSome then (some .busy, s)
  else if s.cradle.parityGood = false then (some .halted, s.trip)
  else if s.cradle.state ≠ .ready then (some .cradleState, s)
  else if s.inFlight then (some .exposureInFlight, s)
  else (none, s)

/-- The positions a calibration capture lights (R97). -/
def State.calibrationLight (s : State) (kind : CaptureKind) (heads : List Head) :
    PerHead (Option LightLatch) :=
  let one (h : Head) : Option LightLatch :=
    if kind = .flat ∧ h ∈ heads then some (s.light.settings.latch h) else none
  ⟨one .left, one .right⟩

/-- The start of a calibration capture (R97, R129). -/
def State.startCalibration (s : State) (kind : CaptureKind) (heads : List Head) (target : Nat) :
    State :=
  heads.foldl (fun t h => t.trigger h kind none none target)
    (s.fire kind (s.calibrationLight kind heads) none)

/-- DARK CAPTURE (R128, R129). -/
def darkCapture (heads : Nat) (s : State) : Reply × State :=
  match s.calibrationTests (headsOf heads) with
  | (some r, s) => (.refused r, s)
  | (none, s) => (.accepted (num16 heads), s.startCalibration .dark (headsOf heads) 0)

/-- FLAT CAPTURE (R128, R129). -/
def flatCapture (heads target : Nat) (s : State) : Reply × State :=
  match s.calibrationTests (headsOf heads) with
  | (some r, s) => (.refused r, s)
  | (none, s) =>
    let t := clamp target 1 4095
    (.accepted (num16 heads ++ num16 t), s.startCalibration .flat (headsOf heads) t)

/-! ### GAIN LOAD and READ GAIN (R134, R135) -/

/-- The parameters of GAIN LOAD and READ GAIN when they are in range (R134 test 1). -/
def gainRange (head channel first count : Nat) : Option (Head × Channel) :=
  match headOf head, channelOf channel with
  | some h, some c =>
    if 1 ≤ count ∧ count ≤ 256 ∧ first + count - 1 ≤ 6143 then some (h, c) else none
  | _, _ => none

/-- Write gain entries whole, column by column (R134). -/
def State.loadGains (s : State) (h : Head) (c : Channel) : Nat → List Word → State
  | _, [] => s
  | x, w :: ws => (s.setGain (gainKey h c x) ⟨w, none⟩).loadGains h c (x + 1) ws

/-- GAIN LOAD (R134). -/
def gainLoad (head channel first count : Nat) (entries : List Word) (s : State) : Reply × State :=
  match gainRange head channel first count with
  | none => (.refused .badParam, s)
  | some (h, c) =>
    if (s.head h).phase = .capturing then (.refused .busy, s)
    else (.accepted (num16 count), s.loadGains h c first (entries.take count))

/-- Read columns of the gain table: their values, and which were uncorrectable (R135). -/
def State.readGains (s : State) (h : Head) (c : Channel) :
    List Nat → (List Nat × List Nat) × State
  | [] => (([], []), s)
  | x :: xs =>
    let (v, s) := s.readGain (gainKey h c x)
    let ((vs, bad), s) := s.readGains h c xs
    match v with
    | some g => ((g :: vs, bad), s)
    | none => ((Config.unityGain :: vs, x :: bad), s)

/-- READ GAIN (R135). -/
def readGain (head channel first count : Nat) (s : State) : Reply × State :=
  match gainRange head channel first count with
  | none => (.refused .badParam, s)
  | some (h, c) =>
    let ((vs, bad), s) := s.readGains h c ((List.range count).map (first + ·))
    (.accepted (listWords num16 vs ++ listWords num16 bad), s)

/-! ### READ CALIBRATION (R136) -/

/-- One channel of a dark update record: mean, candidate, before, after, outcome UPDATED 0, HELD 1. -/
def DarkFigure.words (d : DarkFigure) : List Word :=
  num16 d.mean ++ num16 d.candidate ++ num16 d.before ++ num16 d.after ++
  num16 (if d.held then 1 else 0)

def FlatRecord.words (r : FlatRecord) : List Word :=
  num16 r.target ++ num16 r.width ++ num16 r.dead ++ num16 r.limited ++ num32 r.clipCount

/-- f_c and v_c of each channel (R136). -/
def HeadUnit.darkWords (u : HeadUnit) : List Word :=
  num16 u.correction.fixed.r ++ num16 u.running.r ++ num16 u.correction.fixed.g ++
  num16 u.running.g ++ num16 u.correction.fixed.b ++ num16 u.running.b

/-- READ CALIBRATION (R136). -/
def readCalibration (head : Nat) (s : State) : Reply × State :=
  match headOf head with
  | none => (.refused .badParam, s)
  | some h =>
    let u := s.head h
    (.accepted
      (num16 u.correction.darkMode.place ++ u.darkWords ++ num16 u.correction.offset ++
       num16 u.correction.winLo ++ num16 u.correction.winHi ++ num16 u.driftCount ++
       optWords (channelWords DarkFigure.words) u.lastDarkUpdate ++
       optWords (channelWords num16) u.lastDarkCapture ++
       optWords FlatRecord.words u.lastFlatCapture), s)

/-! ### READ CAPTURE (R120) -/

def HeadPhase.place : HeadPhase → Nat
  | .idle => 0
  | .capturing => 1

def PortState.place : PortState → Nat
  | .between => 0
  | .inLine _ => 1

/-- The outcome, its verdict and its cause (R106, log 16). -/
def CaptureOutcome.words : CaptureOutcome → List Word
  | .inFlight => [0] ++ optEnum Verdict.place none ++ optEnum AbortCause.place none
  | .ended v => [1] ++ optEnum Verdict.place v ++ optEnum AbortCause.place none
  | .aborted c => [2] ++ optEnum Verdict.place none ++ optEnum AbortCause.place (some c)

def SidePanel.words (p : SidePanel) : List Word :=
  num16 p.leaf ++ num16 p.face.place ++ num16 p.panel

/-- A capture record's words (R106). -/
def CaptureRecord.words (c : CaptureRecord) : List Word :=
  num16 c.kind.place ++ optWords (fun i : SlotNo => num16 i.val) c.slot ++
  optWords SidePanel.words c.side ++ num16 c.lines ++ flagWord c.overlong ++ num32 c.clipCount ++
  num32 c.substitutions ++ c.outcome.words

/-- READ CAPTURE (R120). The port line state is sent as its place alone, without the count of samples of an
open line (log 16). -/
def readCapture (head : Nat) (s : State) : Reply × State :=
  match headOf head with
  | none => (.refused .badParam, s)
  | some h =>
    let u := s.head h
    (.accepted
      (num16 u.phase.place ++ num16 u.port.place ++ optWords CaptureRecord.words u.capture ++
       num16 u.correction.w ++ num16 u.correction.h ++ flagWord u.flags.lineLength ++
       flagWord u.flags.shortFrame ++ flagWord u.flags.timeout ++ num16 u.stray), s)

/-! ### READ MEASUREMENT (R151) -/

def Measurement.words (m : Measurement) : List Word :=
  num16 m.left ++ num16 m.top ++ num16 m.width ++ num16 m.height ++ num16 m.threshold ++
  num16 m.runLength ++ num16 m.guardColumns ++ num16 m.guardLines ++ num16 m.blankMinimum ++
  num32 m.clipLimit

def KeepSettings.words (k : KeepSettings) : List Word :=
  num16 k.mode.place ++ flagWord k.motionTest ++ flagWord k.degradedTest

/-- The working record: its state, and its figures while MEASURING (R151). The word of the state, IDLE 0 or MEASURING 1,
tells whether the figures follow, and they have no presence word of their own (R195): the model's choice (log 16). The first and the last content line and
the two edge extremes carry a presence word each, not one for a pair: the model's choice (log 16). -/
def WorkRecord.words (w : WorkRecord) : List Word :=
  if w.measuring then
    [1] ++ w.window.words ++ num16 w.linesMeasured ++ num16 w.contentLines ++
    optWords num16 w.firstContent ++ optWords num16 w.lastContent ++ optWords num16 w.leastLeft ++
    optWords num16 w.greatestRight ++ flagWord w.motion ++ flagWord w.degraded
  else [0]

/-- The last measurement record's words (R150, log 16): the content lines and the edge extremes carry a presence word
each, as in the working record (log 16). -/
def MeasurementRecord.words (r : MeasurementRecord) : List Word :=
  num16 r.linesMeasured ++ num16 r.contentLines ++ optWords num16 r.firstContent ++
  optWords num16 r.lastContent ++ optWords num16 r.leastLeft ++ optWords num16 r.greatestRight ++
  r.window.words ++ num16 r.mean ++ optWords Box.words r.crop ++ flagWord r.blank ++
  flagWord r.degraded ++ flagWord r.motion ++ num32 r.clipCount ++
  num16 (bitAt 0 r.failedMotion + bitAt 1 r.failedClip + bitAt 2 r.failedDegraded) ++
  num16 r.verdict.place

/-- READ MEASUREMENT (R151). -/
def readMeasurement (head : Nat) (s : State) : Reply × State :=
  match headOf head with
  | none => (.refused .badParam, s)
  | some h =>
    let u := s.head h
    (.accepted
      (u.measurement.words ++ s.keep.words ++ u.work.words ++
       optWords MeasurementRecord.words u.lastMeasurement), s)

end Sys2Proof.Machine
end

