-- ==== Sys2Proof/Machine/Turns.lean ====
section
/-! DEFINITION. The turn tracker (chapter 4): the turner's commands, the move of the opening pointer,
missed marking, SET OPENING, MARK RESCAN and RESCAN HEAD. -/
namespace Sys2Proof.Machine

/-! ### TURN REQUEST (R64, R65) -/

/-- A direction parameter (R64). -/
def directionOf : Nat → Option Direction
  | 0 => some .forward
  | 1 => some .back
  | _ => none

/-- Whether a turn in a direction would pass an end of the ACTIVE volume (R64 test 6). -/
def State.pastEnd (s : State) (h : Handle) (d : Direction) : Bool :=
  match d with
  | .forward => decide ((s.vol h).leaves ≤ (s.vol h).opening)
  | .back => decide ((s.vol h).opening = 0)

/-- Tests 5 and 6 of TURN REQUEST, for the ACTIVE volume if there is one (R64). -/
def State.turnTests (s : State) (d : Direction) : Option Reason :=
  match s.active with
  | none => none
  | some h =>
    if s.heldAt h (s.vol h).opening then some .undecided
    else if s.pastEnd h d then some .endOfVolume
    else none

/-- The turn record of an accepted request (R65). -/
def TurnRecord.requested (phase : TurnPhase) (d : Direction) : TurnRecord :=
  { phase := phase, direction := some d, picked := none, swept := false }

/-- The effect of an accepted TURN REQUEST by cradle state (R56, R65). -/
def State.takeRequest (s : State) (d : Direction) : State :=
  match s.cradle.state with
  | .opened => { s with turn := TurnRecord.requested .pending d }.beginGrant
  | .settling | .ready =>
    { (s.modCradle fun c => { c with grantPending := true }) with
      turn := TurnRecord.requested .pending d }.enterChecked .raising
  | _ =>
    { (s.modCradle fun c => { c with grantPending := true }) with
      turn := TurnRecord.requested .pending d }

/-- TURN REQUEST (R64, R65). -/
def turnRequest (w : Nat) (s : State) : Reply × State :=
  match directionOf w with
  | none => (.refused .badParam, s)
  | some d =>
    if s.cradle.parityGood = false then (.refused .halted, s.trip)
    else if s.cradle.state = .halted then (.refused .halted, s)
    else if s.runActive && !(s.run.wanted == some d) then (.refused .runActive, s)
    else if s.inFlight then (.refused .exposureInFlight, s)
    else
      match s.turnTests d with
      | some r => (.refused r, s)
      | none =>
        if s.cradle.state = .lowering ∨ s.cradle.state = .turnGranted then
          (.refused .cradleState, s)
        else
          let s := s.takeRequest d
          (.accepted s.cradle.state.word, s)

/-! ### Reports during a grant (R66 to R68) -/

/-- A report outside phase GRANTED: LATE, with the turner link's flag (R68). -/
def lateReport (s : State) : Reply × State :=
  (.refused .late,
   s.setLink .turner { s.link .turner with flags := { (s.link .turner).flags with late := true } })

/-- PICKED (R66). -/
def picked (n : Nat) (s : State) : Reply × State :=
  if 2 < n then (.refused .badParam, s)
  else if s.turn.phase ≠ .granted then lateReport s
  else (.accepted [], { s with turn := { s.turn with picked := some n } })

/-- SWEPT (R67). -/
def swept (s : State) : Reply × State :=
  if s.turn.phase ≠ .granted then lateReport s
  else (.accepted [], { s with turn := { s.turn with swept := true } })

/-! ### CLEAR and ABORTED (R69 to R73) -/

/-- The opening after a turn of c leaves from k in a volume of n, and whether the move was clamped
(R70). -/
def movedOpening (n k c : Nat) : Direction → Nat × Bool
  | .forward => if n < k + c then (n, true) else (k + c, false)
  | .back => if k < c then (0, true) else (k - c, false)

/-- Missed marking of one side (R72, R180). -/
def State.markMissed (s : State) (h : Handle) (d : Side) : State :=
  match s.readLeaf h d.leaf ((s.face h d).panelWords d.face) with
  | (false, s) => s.skipUpdate h d.leaf
  | (true, s) =>
    let f := s.face h d
    if f.skip || f.panels.any (fun e => e.settled.isSettled) then s
    else
      let s := (s.setFace h d { f with missed := true }).count h fun c =>
        { c with missedSides := c.missedSides + 1 }
      if f.rescan then s else s.setRescan h d

/-- The counters of a CLEAR (R71). -/
def VolumeCounters.turned (c : VolumeCounters) (n : Nat) : VolumeCounters :=
  { c with
    turns := c.turns + 1
    misfires := if n = 0 then c.misfires + 1 else c.misfires
    doublePicks := if n = 2 then c.doublePicks + 1 else c.doublePicks }

/-- The turn recorded in the ACTIVE volume's account (R70 to R72); tells whether the move was
clamped. -/
def State.recordTurn (s : State) (h : Handle) : Bool × State :=
  let v := s.vol h
  let c := s.turn.picked.getD 0
  let d := s.turn.direction.getD .forward
  let (k, clamped) := movedOpening v.leaves v.opening c d
  let s := s.modVol h fun v =>
    { v with opening := k, uncertain := v.uncertain || clamped, counters := v.counters.turned c }
  let s := if k = v.opening then s else s.postStation .openingChanged
  (clamped,
   if d = .forward ∧ c = 2 then
     (s.markMissed h ⟨v.opening + 1, .verso⟩).markMissed h ⟨v.opening + 2, .recto⟩
   else s)

/-- The turner ends its grant: the cradle becomes OPEN and the phase is written (R56, R69, R73). -/
def State.endGrant (s : State) (phase : TurnPhase) : State :=
  { s with turn := { s.turn with phase := phase } }.enterChecked .opened

/-- The result words of CLEAR (R69). -/
def State.openingWords (s : State) : List Word :=
  match s.active with
  | none => [0, 0]
  | some h => num16 (s.vol h).opening ++ flagWord (s.vol h).uncertain

/-- CLEAR (R69 to R72, R162, R185). -/
def clear (s : State) : Reply × State :=
  if s.turn.phase ≠ .granted then lateReport s
  else if s.cradle.parityGood = false then (.refused .halted, s.trip)
  else
    let s := s.endGrant .cleared
    let (doubted, s) := match s.active with
      | none => (false, s)
      | some h => s.recordTurn h
    (.accepted s.openingWords, s.turnEnded doubted)

/-- ABORTED (R73, R162, R185). -/
def aborted (s : State) : Reply × State :=
  if s.turn.phase ≠ .granted then lateReport s
  else if s.cradle.parityGood = false then (.refused .halted, s.trip)
  else
    let s := s.endGrant .aborted
    let s := match s.active with
      | none => s
      | some h => s.count h fun c => { c with misfires := c.misfires + 1 }
    (.accepted [], s.turnEnded false)

/-- TURNER FAULT (R74, R185). -/
def turnerFault (s : State) : Reply × State :=
  if s.cradle.parityGood = false then (.refused .halted, s.trip)
  else if s.cradle.state = .halted then
    (.accepted [], (s.modCradle fun c => { c with haltCause := .turner }).reportHalt .turner)
  else (.accepted [], s.halt .turner)

/-! ### SET OPENING (R78) -/

/-- SET OPENING (R78, R185). -/
def setOpening (k : Nat) (s : State) : Reply × State :=
  match s.active with
  | none => (.refused .noVolume, s)
  | some h =>
    if s.runActive then (.refused .runActive, s)
    else if s.cradle.parityGood = false then (.refused .halted, s.trip)
    else if s.cradle.state ≠ .opened ∧ s.cradle.state ≠ .halted then (.refused .cradleState, s)
    else if (s.vol h).leaves < k then (.refused .badParam, s)
    else
      let t := s.modVol h fun v => { v with opening := k, uncertain := false }
      (.accepted (num16 k ++ [0]),
       if k = (s.vol h).opening then t else t.postStation .openingChanged)

/-! ### The rescan list (R82, R83) -/

/-- The side a command names, if the volume has it (R16). -/
def sideOf (n leaf face : Nat) : Option Side :=
  match faceOf face with
  | none => none
  | some f => if sideExists n ⟨leaf, f⟩ then some ⟨leaf, f⟩ else none

/-- The list length and the overflow count (R82, R83). -/
def State.rescanWords (s : State) (h : Handle) : List Word :=
  num16 s.rescan.length ++ split32 (s.vol h).counters.rescanOverflow

/-- MARK RESCAN (R82, log 29). -/
def markRescan (leaf face : Nat) (s : State) : Reply × State :=
  match s.active with
  | none => (.refused .noVolume, s)
  | some h =>
    match sideOf (s.vol h).leaves leaf face with
    | none => (.refused .badParam, s)
    | some d =>
      match s.readLeaf h d.leaf [.marks d.face] with
      | (false, s) => (.refused .recordDamaged, s)
      | (true, s) =>
        if (s.face h d).skip then (.refused .badParam, s)
        else
          let s := if (s.face h d).rescan then s else s.setRescan h d
          (.accepted (s.rescanWords h), s)

/-- The head entry's words: leaf, face and the opening that shows the side (R83). -/
def rescanEntryWords (d : Side) : List Word :=
  num16 d.leaf ++ num16 d.face.place ++ num16 (openingOf d)

/-- RESCAN HEAD (R83). -/
def rescanHead (s : State) : Reply × State :=
  match s.active with
  | none => (.refused .noVolume, s)
  | some h => (.accepted (s.rescanWords h ++ optWords rescanEntryWords s.rescan.head?), s)

end Sys2Proof.Machine
end

