-- ==== Sys2Proof/Machine/Account.lean ====
section
/-! DEFINITION. The volume account (chapter 1): the volume commands, ceilings, side marks, and the
readouts of volume and leaf records. -/
namespace Sys2Proof.Machine

/-! ### OPEN VOLUME (R2, R6, R7, R14) -/

/-- The next volume serial (R2). -/
def nextSerial (n : Nat) : Nat := if n < 65535 then n + 1 else 1

/-- The handle OPEN VOLUME takes, if one is EMPTY (R6). -/
def State.emptyHandle (s : State) : Option Handle :=
  if s.vols.zero.state = .empty then some .zero
  else if s.vols.one.state = .empty then some .one
  else none

/-- Whether a character word is in range (R6 test 4). -/
def charOk (w : Word) : Bool := decide (0x20 ≤ w.toNat) && decide (w.toNat ≤ 0x7E)

/-- What OPEN VOLUME's words carry (R6). -/
structure OpenRequest where
  partSequence : Nat
  leaves : Nat
  volumeCeiling : Nat
  sideCeiling : Nat
  length : Nat
  chars : List Word
  deriving DecidableEq, Repr

def OpenRequest.ofWords (ws : List Word) : OpenRequest :=
  { partSequence := arg ws 0, leaves := arg ws 1, volumeCeiling := arg48 ws 2
    sideCeiling := arg32 ws 5, length := arg ws 7, chars := (ws.drop 8).take (arg ws 7) }

/-- Test 4 of OPEN VOLUME (R6). -/
def OpenRequest.ok (r : OpenRequest) : Bool :=
  decide (1 ≤ r.leaves) && decide (r.leaves ≤ 2046) && decide (r.partSequence ≤ 999) &&
    decide (1 ≤ r.length) && decide (r.length ≤ 40) && r.chars.all charOk

/-- The volume record OPEN VOLUME writes (R7, R14). -/
def OpenRequest.volume (r : OpenRequest) (serial : Nat) : Volume :=
  { Volume.empty with
    state := .active
    serial := serial
    shelfMark := r.chars.map fun w => w.extractLsb' 0 8
    partSequence := r.partSequence
    leaves := r.leaves
    volumeCeiling := r.volumeCeiling
    sideCeiling := min r.sideCeiling r.volumeCeiling }

/-- All leaf records of a handle written whole for a volume of n leaves (R7). -/
def State.freshLeaves (s : State) (h : Handle) (n : Nat) : State :=
  ({ s with leaves := Sparse.erase s.leaves (fun k => k / Config.leavesPerHandle = h.place) }.setLeaf
    h 0 (LeafRecord.fresh .frontBoard)).setLeaf h (n + 1) (LeafRecord.fresh .backBoard)

/-- OPEN VOLUME's effect on a handle (R7). -/
def State.openIn (s : State) (h : Handle) (r : OpenRequest) : State :=
  { ((s.freshLeaves h r.leaves).putVol h (r.volume (nextSerial s.serial))).emptyRescan with
    serial := nextSerial s.serial }

/-- OPEN VOLUME (R6, R7, R185). -/
def openVolume (r : OpenRequest) (s : State) : Reply × State :=
  if s.active.isSome then (.refused .busy, s)
  else
    match s.emptyHandle with
    | none => (.refused .tableFull, s)
    | some h =>
      if s.cradle.parityGood = false then (.refused .halted, s.trip)
      else if s.cradle.state ≠ .opened ∧ s.cradle.state ≠ .halted then (.refused .cradleState, s)
      else if r.ok then
        (.accepted (num16 h.place ++ num16 (nextSerial s.serial)), s.openIn h r)
      else (.refused .badParam, s)

/-! ### CLOSE, DISCARD and FORGET VOLUME (R8 to R11, R44) -/

/-- Whether an exposure of the ACTIVE volume is in flight (R8). -/
def State.normalInFlight (s : State) : Bool :=
  [Head.left, Head.right].any fun h =>
    decide ((s.head h).phase = .capturing) &&
      (match (s.head h).capture with
       | some c => decide (c.kind = .normal)
       | none => false)

/-- Whether a volume owns a PROVISIONAL slot (R8). -/
def State.ownsHeld (s : State) (h : Handle) : Bool :=
  allSlots.any fun i => decide ((s.slot i).state = .provisional) && (s.slot i).ownedBy h

/-- The state a volume takes when it leaves ACTIVE, or at a discard (R8, R10). -/
def State.retiredState (s : State) (h : Handle) : VolumeState :=
  if s.ownsSlot h then .draining else .closed

def VolumeState.word (v : VolumeState) : List Word := num16 v.place

/-- CLOSE VOLUME (R8). -/
def closeVolume (s : State) : Reply × State :=
  match s.active with
  | none => (.refused .noVolume, s)
  | some h =>
    if s.runActive then (.refused .runActive, s)
    else if s.normalInFlight then (.refused .exposureInFlight, s)
    else if s.ownsHeld h then (.refused .undecided, s)
    else
      (.accepted (s.retiredState h).word,
       (s.modVol h fun v => { v with state := s.retiredState h }).emptyRescan)

/-- A KEPT slot freed by a discard: its capture passes from kept to discarded, and the settled part it
stands for becomes NONE (R10, R44, R180). Of an invalid record the skip is counted whether or not the
slot is stale, which the record cannot tell (log 30). -/
def State.discardKept (s : State) (i : SlotNo) (o : Owner) : State :=
  let g := (s.slot i).generation
  let s := s.count o.handle fun c =>
    { c with discarded := c.discarded + 1, kept := c.kept - 1 }
  (match s.readLeaf o.handle o.leaf [.list o.face, .panel o.face o.panel] with
   | (false, s) => s.skipUpdate o.handle o.leaf
   | (true, s) =>
     let f := s.face o.handle o.side
     if (f.panel o.panel).generation = g then
       s.setFace o.handle o.side (f.modPanel o.panel fun e => { e with settled := .none })
     else s).freeSlot i

/-- What a discard does to one slot of its volume (R10, R44). -/
def State.discardOne (h : Handle) (s : State) (i : SlotNo) : State :=
  match (s.slot i).owner with
  | none => s
  | some o =>
    if o.handle = h then
      match (s.slot i).state with
      | .provisional => s.discardSlot i
      | .kept => s.discardKept i o
      | .free | .filling | .delivering => s
    else s

/-- The volume record at the end of a discard (R10). A DRAINING volume whose last slot was freed has
become CLOSED already. -/
def State.retire (s : State) (h : Handle) : State :=
  let t := s.modVol h fun v =>
    { v with
      discarded := true
      state := if v.state = .closed then .closed else s.retiredState h }
  if (s.vol h).state = .active then t.emptyRescan else t

/-- DISCARD VOLUME (R10, R44, R160); its slots are taken lowest first (log 35). -/
def discardVolume (handle : Nat) (s : State) : Reply × State :=
  match handleOf handle with
  | none => (.refused .badParam, s)
  | some h =>
    if (s.vol h).state = .empty ∨ (s.vol h).state = .closed then (.refused .noVolume, s)
    else if s.inFlight then (.refused .exposureInFlight, s)
    else if (s.vol h).state = .active ∧ s.runActive then (.refused .runActive, s)
    else
      let t := (allSlots.foldl (State.discardOne h) s).retire h
      (.accepted (t.vol h).state.word, t.reportFreed s)

/-- FORGET VOLUME (R11). -/
def forgetVolume (handle : Nat) (s : State) : Reply × State :=
  match handleOf handle with
  | none => (.refused .badParam, s)
  | some h =>
    match (s.vol h).state with
    | .empty => (.refused .noVolume, s)
    | .active | .draining => (.refused .busy, s)
    | .closed => (.accepted [], s.putVol h Volume.empty)

/-! ### READ VOLUME and READ SUMMARY (R12, R13) -/

/-- The twelve counters, in the order of R4. -/
def VolumeCounters.words (c : VolumeCounters) : List Word :=
  [c.attempts, c.kept, c.discarded, c.superseded, c.delivered, c.missedSides, c.blankSides,
   c.damagedLeaves, c.misfires, c.doublePicks, c.turns, c.rescanOverflow].flatMap split32

/-- A character of a shelf mark, in the low eight bits of its word (R195). -/
def charWord (b : Byte) : List Word := [b.setWidth 16]

/-- The fields of a volume record in the order of R3. -/
def Volume.words (v : Volume) (h : Handle) : List Word :=
  num16 h.place ++ num16 v.state.place ++ num16 v.serial ++ listWords charWord v.shelfMark ++
  num16 v.partSequence ++ num16 v.leaves ++ num16 v.opening ++ flagWord v.uncertain ++
  flagWord v.discarded ++ num48 v.dose ++ num48 v.volumeCeiling ++ num32 v.sideCeiling ++
  num32 v.highestSideDose ++ v.counters.words

/-- READ VOLUME (R12). -/
def readVolume (handle : Nat) (s : State) : Reply × State :=
  match handleOf handle with
  | none => (.refused .badParam, s)
  | some h =>
    if (s.vol h).state = .empty then (.refused .noVolume, s)
    else (.accepted ((s.vol h).words h), s)

/-- The first five fields of the close summary (R13). -/
structure SideCounts where
  complete : Nat
  skipped : Nat
  incomplete : Nat
  rescan : Nat
  blank : Nat
  deriving DecidableEq, Repr

def SideCounts.zero : SideCounts := ⟨0, 0, 0, 0, 0⟩

/-- A side taken into the summary (R13, R20). -/
def SideCounts.add (n : SideCounts) (f : FaceRecord) : SideCounts :=
  { complete := n.complete + (if f.summary = .complete then 1 else 0)
    skipped := n.skipped + (if f.summary = .skipped then 1 else 0)
    incomplete := n.incomplete + (if f.summary = .complete ∨ f.summary = .skipped then 0 else 1)
    rescan := n.rescan + (if f.rescan then 1 else 0)
    blank := n.blank + (if f.blank then 1 else 0) }

/-- The words of a leaf record that hold marks, lists and panel entries of the faces it has. -/
def LeafRecord.summaryWords (r : LeafRecord) : List LeafWord :=
  r.kind.faces.flatMap fun f => (r.face f).panelWords f

/-- One leaf read and taken into the summary (R13). -/
def State.summarise (h : Handle) (n : SideCounts × State) (leaf : Nat) : SideCounts × State :=
  match n.2.readLeaf h leaf (.header :: (n.2.leaf h leaf).summaryWords) with
  | (false, s) => (n.1, s)
  | (true, s) =>
    let r := s.leaf h leaf
    (r.kind.faces.foldl (fun m f => m.add (r.face f)) n.1, s)

/-- READ SUMMARY (R13); the leaf records are read from leaf 0 upward (log 35). -/
def readSummary (handle : Nat) (s : State) : Reply × State :=
  match handleOf handle with
  | none => (.refused .badParam, s)
  | some h =>
    match (s.vol h).state with
    | .empty => (.refused .noVolume, s)
    | .active => (.refused .busy, s)
    | .draining | .closed =>
      let (n, s) :=
        (List.range ((s.vol h).leaves + 2)).foldl (State.summarise h) (SideCounts.zero, s)
      let v := s.vol h
      (.accepted
        (num16 n.complete ++ num16 n.skipped ++ num16 n.incomplete ++ num16 n.rescan ++
         num16 n.blank ++ split32 v.counters.damagedLeaves ++ num48 v.dose ++ num16 v.serial ++
         flagWord v.discarded), s)

/-! ### SET CEILINGS (R15) -/

/-- SET CEILINGS (R15). -/
def setCeilings (volumeCeiling sideCeiling : Nat) (s : State) : Reply × State :=
  match s.active with
  | none => (.refused .noVolume, s)
  | some h =>
    let v := s.vol h
    let vc := max volumeCeiling v.dose
    let sc := max (min sideCeiling vc) v.highestSideDose
    (.accepted (num48 vc ++ num32 sc),
     s.modVol h fun v => { v with volumeCeiling := vc, sideCeiling := sc })

/-! ### SET SIDE MARKS (R21) -/

/-- A flag word; what a value above 1 writes is a free value (R195, log 13). -/
def State.flagParam (s : State) (w : Word) : Bool × State :=
  if w = 0 then (false, s)
  else if w = 1 then (true, s)
  else (Config.oddFlagWord s.draws w, s.drawn)

/-- The highest panel number of a face's list, 0 for an empty one (R21). -/
def FaceRecord.highestPanel (f : FaceRecord) : Nat := f.panels.foldl (fun m e => max m e.number) 0

/-- The effect of an accepted SET SIDE MARKS (R21). -/
def State.writeMarks (s : State) (h : Handle) (d : Side) (declared : Nat) (skip : Bool) : State :=
  let f := s.face h d
  let g := { f with declared := declared, skip := skip }
  let s := s.setFace h d g
  if (skip && !f.skip) || (decide (declared < f.declared) && g.allSettled) then s.clearRescan h d
  else s

/-- SET SIDE MARKS (R21, log 29). -/
def setSideMarks (leaf face declared : Nat) (skip : Word) (s : State) : Reply × State :=
  match s.active with
  | none => (.refused .noVolume, s)
  | some h =>
    match sideOf (s.vol h).leaves leaf face with
    | none => (.refused .badParam, s)
    | some d =>
      if declared < 1 ∨ 4 < declared then (.refused .badParam, s)
      else
        match s.readLeaf h d.leaf ((s.face h d).panelWords d.face) with
        | (false, s) => (.refused .recordDamaged, s)
        | (true, s) =>
          let f := s.face h d
          if declared < f.highestPanel then (.refused .badParam, s)
          else if f.panels.any (fun e => e.pending.isSome) then (.refused .busy, s)
          else
            let (b, s) := s.flagParam skip
            let s := s.writeMarks h d declared b
            (.accepted (num16 (s.face h d).summary.place), s)

/-! ### READ LEAF (R22, R197) -/

/-- The statistics group (R197). -/
def CaptureStats.words (c : CaptureStats) : List Word :=
  num16 c.flagBits ++
  (match c.crop with
   | some b => b.words
   | none => []) ++
  num16 c.meanGray ++ num32 c.clipCount

/-- The settled state's code (R197). -/
def Settled.place : Settled → Nat
  | .none => 0
  | .kept _ => 1
  | .delivered _ => 2

/-- The statistics of a settled part, when it has any. -/
def Settled.stats : Settled → Option CaptureStats
  | .none => Option.none
  | .kept c => some c
  | .delivered c => some c

/-- The pending state's code and the pending slot (R197). -/
def pendingWords : Option PendingPart → List Word
  | none => [0, 0xFFFF]
  | some p =>
    num16 (match p.state with
      | .exposing => 1
      | .provisional => 2) ++ num16 p.slot.val

/-- A panel group (R197). -/
def PanelEntry.words (e : PanelEntry) : List Word :=
  num16 e.number ++ num16 e.generation ++ num16 e.settled.place ++ pendingWords e.pending ++
  (match e.settled.stats with
   | some c => c.words
   | none => [])

/-- A face group (R197). -/
def FaceRecord.words (f : FaceRecord) : List Word :=
  num16 f.declared ++ num16 (f.markBits + fieldAt 8 f.summary.place) ++ num32 f.dose ++
  listWords PanelEntry.words f.panels

/-- READ LEAF's result words (R197). -/
def LeafRecord.words (r : LeafRecord) (leaf : Nat) : List Word :=
  num16 leaf ++ num16 r.kind.place ++ r.kind.faces.flatMap fun f => (r.face f).words

/-- Every word of a leaf record. -/
def LeafRecord.allWords (r : LeafRecord) : List LeafWord :=
  .header :: r.kind.faces.flatMap fun f => (r.face f).allWords f

/-- READ LEAF (R22). -/
def readLeaf (handle leaf : Nat) (s : State) : Reply × State :=
  match handleOf handle with
  | none => (.refused .badParam, s)
  | some h =>
    if (s.vol h).state = .empty then (.refused .noVolume, s)
    else if (s.vol h).leaves + 1 < leaf then (.refused .badParam, s)
    else
      match s.readLeaf h leaf (s.leaf h leaf).allWords with
      | (false, s) => (.refused .recordDamaged, s)
      | (true, s) => (.accepted ((s.leaf h leaf).words leaf), s)

end Sys2Proof.Machine
end

