-- ==== Sys2Proof/Machine/Check.lean ====
section
/-! DEFINITION. LEAF REWRITE (11 R181 to R183) and the fault report's commands (11 R186, 12 R198). -/
namespace Sys2Proof.Machine

/-! ### The tests (R181) -/

/-- Whether a panel of a side is held by a slot that is not FREE (R181, R182). -/
def State.panelHeld (s : State) (o : Owner) : Bool := allSlots.any fun i => (s.slot i).holds o

/-- The panel numbers of a side that slots hold. -/
def State.heldPanels (s : State) (h : Handle) (d : Side) : List Nat :=
  [1, 2, 3, 4].filter fun p => s.panelHeld ⟨h, d.leaf, d.face, p⟩

/-- Whether a list holds a value twice. -/
def hasTwice : List Nat → Bool
  | [] => false
  | x :: xs => xs.contains x || hasTwice xs

/-- Test 3 for one face group (R181). -/
def SuppliedFace.bad (g : SuppliedFace) : Bool :=
  decide (4 < g.panelCount) || decide (g.declared < 1) || decide (4 < g.declared) ||
    g.panels.any (fun p => decide (p.number < 1) || decide (4 < p.number) ||
      decide (255 < p.generation) || decide (2 < p.settled)) ||
    hasTwice (g.panels.map (·.number))

/-- Test 4 for one face group (R181). -/
def State.belowHighest (s : State) (h : Handle) (leaf : Nat) (g : Face × SuppliedFace) : Bool :=
  (g.2.panels.map (·.number) ++ s.heldPanels h ⟨leaf, g.1⟩).any fun p => decide (g.2.declared < p)

/-- Test 3: leaf, kind and face groups (R181, R16). -/
def rewriteBad (n : Nat) (r : SuppliedLeaf) : Bool :=
  decide (n + 1 < r.leaf) || !(kindOf r.kind == some (kindAt n r.leaf)) ||
    r.faces.any (fun g => g.2.bad)

/-- The largest and the sum of some doses. -/
structure DoseFigures where
  sum : Nat
  highest : Nat
  deriving DecidableEq, Repr

def DoseFigures.add (d : DoseFigures) (dose : Nat) : DoseFigures :=
  ⟨d.sum + dose, max d.highest dose⟩

/-- The doses of one other leaf, if its record reads valid (R183, log 25). -/
def State.addLeafDoses (h : Handle) (n : DoseFigures × State) (leaf : Nat) : DoseFigures × State :=
  let fs := (n.2.leaf h leaf).kind.faces
  match n.2.readLeaf h leaf (.header :: fs.map .dose) with
  | (false, s) => (n.1, s)
  | (true, s) => (fs.foldl (fun m f => m.add ((s.leaf h leaf).face f).dose) n.1, s)

/-- The volume dose and highest side dose after a rewrite (R183); the other leaf records are read from leaf 0
upward (log 35). -/
def State.rewriteDoses (s : State) (h : Handle) (r : SuppliedLeaf) : DoseFigures × State :=
  let others := (List.range ((s.vol h).leaves + 2)).filter fun l => !(l == r.leaf)
  let (d, s) := others.foldl (State.addLeafDoses h) (⟨0, 0⟩, s)
  (r.faces.foldl (fun m g => m.add g.2.dose) d, s)

/-! ### The record written (R182) -/

/-- The slot among some states that holds a panel and passes a test. -/
def State.slotWith (s : State) (o : Owner) (p : Slot → Bool) : Option Slot :=
  (allSlots.map s.slot).find? fun x => x.holds o && p x

/-- Whether a slot holds a pending capture (R182). -/
def Slot.isPending (x : Slot) : Bool := x.state == .filling || x.state == .provisional

/-- Whether a slot holds a settled capture (R182). -/
def Slot.isStanding (x : Slot) : Bool := x.state == .kept || x.state == .delivering

/-- The pending part a slot gives its panel (R182 step 1). -/
def State.pendingOf (s : State) (o : Owner) : Option PendingPart :=
  (allSlots.find? fun i => (s.slot i).holds o && (s.slot i).isPending).map fun i =>
    ⟨if (s.slot i).state = .filling then .exposing else .provisional, i⟩

/-- The largest generation of the standing slots of a panel (R182 step 2). -/
def State.standingGeneration (s : State) (o : Owner) : Nat :=
  (allSlots.map s.slot).foldl
    (fun m x => if x.holds o && x.isStanding then max m x.generation else m) 0

/-- The generation written (R182 step 2); `held` is the one a valid record held. -/
def State.rebuiltGeneration (s : State) (o : Owner) (supplied held : Nat) : Nat :=
  match s.slotWith o Slot.isPending with
  | some x => x.generation - 1
  | none => max (max supplied (s.standingGeneration o)) held

/-- The settled part written at a generation (R182 step 3). -/
def State.rebuiltSettled (s : State) (o : Owner) (g : Nat) (p : Option SuppliedPanel) : Settled :=
  match s.slotWith o (fun x => x.isStanding && x.generation == g) with
  | some x => .kept x.stats
  | none =>
    match p with
    | none => .none
    | some p => if p.settled = 0 then .none else .delivered p.stats

/-- A panel entry of the rewritten record (R182); `old` is the face a valid record held. -/
def State.rebuiltPanel (s : State) (o : Owner) (g : SuppliedFace) (old : Option FaceRecord) :
    PanelEntry :=
  let p := g.panels.find? fun p => p.number = o.panel
  let held := match old with
    | some f => (f.panel o.panel).generation
    | none => 0
  let gen := s.rebuiltGeneration o ((p.map (·.generation)).getD 0) held
  { number := o.panel, generation := gen, settled := s.rebuiltSettled o gen p
    pending := s.pendingOf o }

/-- A face record of the rewritten record (R182). -/
def State.rebuiltFace (s : State) (h : Handle) (leaf : Nat) (g : Face × SuppliedFace)
    (old : Option FaceRecord) : FaceRecord :=
  let numbers := [1, 2, 3, 4].filter fun p =>
    g.2.panels.any (fun q => q.number = p) || s.panelHeld ⟨h, leaf, g.1, p⟩
  { declared := g.2.declared
    skip := g.2.skip
    missed := g.2.missed
    rescan := g.2.rescan && !g.2.skip
    blank := g.2.blank
    dose := g.2.dose
    panels := numbers.map fun p => s.rebuiltPanel ⟨h, leaf, g.1, p⟩ g.2 old }

/-- A face of the rewritten record, or an unused one where no group was supplied. -/
def State.rebuiltFaceOf (s : State) (h : Handle) (r : SuppliedLeaf) (old : Option LeafRecord)
    (f : Face) : FaceRecord :=
  match r.faces.find? (fun g => g.1 = f) with
  | none => FaceRecord.fresh
  | some g => s.rebuiltFace h r.leaf g (old.map (·.face f))

/-- The whole record (R182). -/
def State.rebuiltLeaf (s : State) (h : Handle) (r : SuppliedLeaf) (old : Option LeafRecord)
    (kind : LeafKind) : LeafRecord :=
  { LeafRecord.fresh kind with
    recto := s.rebuiltFaceOf h r old .recto
    verso := s.rebuiltFaceOf h r old .verso }.keepMarks

/-! ### The volume record brought into agreement (R183) -/

/-- Rescan accounting of one face (R183, R80, R81); `old` is the flag it passes from. -/
def State.rescanAccount (s : State) (h : Handle) (d : Side) (old : Bool) : State :=
  let new := (s.face h d).rescan
  if new && !old then s.joinRescan h d
  else if old && !new then s.leaveRescan h d
  else s

/-- The volume's counters and doses after a rewrite (R183); `was` is the record before the write. -/
def Volume.afterRewrite (v : Volume) (was new : LeafRecord) (d : DoseFigures) : Volume :=
  { v with
    dose := d.sum
    highestSideDose := d.highest
    counters := { v.counters with
      damagedLeaves := if was.valid then v.counters.damagedLeaves else v.counters.damagedLeaves - 1
      blankSides := v.counters.blankSides + BitVec.ofNat 32 new.keptBlank -
        BitVec.ofNat 32 was.keptBlank } }

/-- The words a rewrite reads of the record it replaces (R182). -/
def LeafRecord.rewriteWords (r : LeafRecord) : List LeafWord := r.summaryWords

/-- The write of an accepted LEAF REWRITE (R182, R183); RECTO enters the rescan accounting before VERSO
(log 35). -/
def State.rewriteLeaf (s : State) (h : Handle) (r : SuppliedLeaf) (d : DoseFigures) : State :=
  let (ok, s) := s.readLeaf h r.leaf (s.leaf h r.leaf).rewriteWords
  let was := s.leaf h r.leaf
  let new := s.rebuiltLeaf h r (if ok then some was else none) (kindAt (s.vol h).leaves r.leaf)
  let s := (s.setLeaf h r.leaf new).modVol h fun v => v.afterRewrite was new d
  new.kind.faces.foldl (fun t f => t.rescanAccount h ⟨r.leaf, f⟩ (was.keptRescan f)) s

/-- LEAF REWRITE (R181 to R183). A side dose above its ceiling is refused before any other record is read
(log 25). -/
def leafRewrite (r : SuppliedLeaf) (s : State) : Reply × State :=
  match handleOf r.handle with
  | none => (.refused .badParam, s)
  | some h =>
    if (s.vol h).state = .empty then (.refused .noVolume, s)
    else if rewriteBad (s.vol h).leaves r then (.refused .badParam, s)
    else if r.faces.any (s.belowHighest h r.leaf) then (.refused .badParam, s)
    else if r.faces.any (fun g => decide ((s.vol h).sideCeiling < g.2.dose)) then
      (.refused .badParam, s)
    else
      let (d, s) := s.rewriteDoses h r
      if (s.vol h).volumeCeiling < d.sum then (.refused .badParam, s)
      else
        let s := s.rewriteLeaf h r d
        (.accepted (num16 r.leaf ++ split32 (s.vol h).counters.damagedLeaves), s)

/-! ### READ FAULTS and CLEAR FAULTS (R186, R198) -/

/-- Which fields a fault record holds, from bit 8 (R198). -/
def FaultRecord.fieldBits (r : FaultRecord) : Nat :=
  bitAt 8 r.volume.isSome + bitAt 9 r.leaf.isSome + bitAt 10 r.head.isSome +
    bitAt 11 r.channel.isSome + bitAt 12 r.column.isSome + bitAt 13 r.slot.isSome

/-- Words 1 to 8 of READ FAULTS (R198); the bits it gives to no field are 0 (log 39). -/
def faultRecordWords : Option FaultRecord → List Word
  | none => [0, 0, 0, 0, 0, 0, 0, 0]
  | some r =>
    num16 (bitAt 15 true + r.cls.place.val + r.fieldBits) ++
    num16 ((r.volume.map (·.1.place)).getD 0) ++ num16 ((r.volume.map (·.2)).getD 0) ++
    num16 (r.leaf.getD 0) ++ num16 ((r.head.map headPlace).getD 0) ++
    num16 ((r.channel.map Channel.place).getD 0) ++ num16 (r.column.getD 0) ++
    num16 ((r.slot.map (·.val)).getD 0)

/-- READ FAULTS (R186, R198). -/
def readFaults (s : State) : Reply × State :=
  (.accepted
    (faultRecordWords s.faults.record ++ s.faults.counts.toList.flatMap num16 ++
     num16 s.faults.skipped), s)

/-- CLEAR FAULTS (R186). -/
def clearFaults (s : State) : Reply × State :=
  (.accepted [0], { s with faults := FaultReport.reset })

end Sys2Proof.Machine
end

