-- ==== Sys2Proof/Machine/Slots.lean ====
section
/-! DEFINITION. The station's decisions on held captures and the slot table's readout (02 R38, R39, R45),
and CLEAR COUNTERS (02 R33, 05 R100, 06 R121, 07 R136, 10 R169). -/
namespace Sys2Proof.Machine

/-- The slot a decision names, when it is PROVISIONAL, with its owner (R38 test 1, R39). -/
def State.heldSlot (s : State) (n : Nat) : Option (SlotNo × Owner) :=
  match slotOf n with
  | none => none
  | some i =>
    if (s.slot i).state = .provisional then (s.slot i).owner.map fun o => (i, o) else none

/-- ACCEPT (R38, R159, R160). The report of the slots that the keep frees comes after the whole keep (log 41). -/
def accept (n : Nat) (s : State) : Reply × State :=
  match s.heldSlot n with
  | none => (.refused .badParam, s)
  | some (i, o) =>
    match s.readLeaf o.handle o.leaf (keepWords (s.face o.handle o.side) o) with
    | (false, s) => (.refused .recordDamaged, s)
    | (true, s) =>
      let t := s.keepSlot i o
      (.accepted (num16 i.val ++ num16 ((t.face o.handle o.side).panel o.panel).generation),
       (t.reportFreed s).decided)

/-- REJECT (R39, R159, R160). -/
def reject (n : Nat) (s : State) : Reply × State :=
  match s.heldSlot n with
  | none => (.refused .badParam, s)
  | some (i, _) => (.accepted (num16 i.val), ((s.discardSlot i).reportFreed s).decided)

/-- The fields of a slot table entry in the order of R45 (log 16). -/
def Slot.words (x : Slot) : List Word :=
  num16 x.state.place ++ optWords Owner.words x.owner ++ optEnum headPlace x.head ++
  num16 x.generation ++ num16 x.w ++ num16 x.h ++ num16 x.lines ++ flagWord x.queued ++
  optWords Box.words x.stats.crop ++ num16 x.stats.meanGray ++ num32 x.stats.clipCount ++
  flagWord x.stats.blank ++ flagWord x.stats.degraded ++ flagWord x.stats.motion ++
  flagWord x.stats.overlong

/-- READ SLOT (R45). -/
def readSlot (n : Nat) (s : State) : Reply × State :=
  match slotOf n with
  | none => (.refused .badParam, s)
  | some i => (.accepted (s.slot i).words, s)

/-- A head's counters and sticky flags cleared (R121, R136). -/
def HeadUnit.clearCounters (u : HeadUnit) : HeadUnit :=
  { u with stray := 0, flags := ⟨false, false, false⟩, driftCount := 0 }

/-- CLEAR COUNTERS (R33, R100, R121, R136, R169). -/
def clearCounters (s : State) : Reply × State :=
  (.accepted [],
   { s with
     requests := 0
     full := false
     overlap := false
     heads := ⟨s.heads.left.clearCounters, s.heads.right.clearCounters⟩
     light := { s.light with holds := ⟨0, 0⟩ }
     delivery := { s.delivery with emptyDeliver := false } })

end Sys2Proof.Machine
end

