-- ==== Sys2Proof/Machine/Reset.lean ====
section
/-! DEFINITION. The two resets and the initialisation pass (12 R193, R194; 07 R137). -/
namespace Sys2Proof.Machine

/-! ### PARTIAL RESET (R194, R62, R46, R176) -/

/-- Step 1: the cradle enters HALTED, or stays there with the cause rewritten (R62, R194, log 22). -/
def State.haltForReset (s : State) : State :=
  if s.cradle.state = .halted ∧ s.cradle.parityGood then
    s.modCradle fun c => { c with haltCause := .partialReset }
  else s.halt .partialReset

/-- Step 2: every PROVISIONAL slot is freed and counted discarded, lowest first (R46, R194, log 35). -/
def State.freeHeld (s : State) : State :=
  (allSlots.filter fun i => (s.slot i).state = .provisional).foldl State.discardSlot s

/-- Step 3: a delivery in its header or pixels is cancelled (R176, R194). -/
def State.cancelCurrent (s : State) : State :=
  match s.cancellable with
  | none => s
  | some d => s.cancelDelivery d

/-- PARTIAL RESET (R194). -/
def partialReset (s : State) : Reply × State :=
  let s := s.haltForReset.freeHeld.cancelCurrent
  (.accepted s.cradle.state.word, s)

/-! ### Pin reset and the initialisation pass (R193, R137, R23) -/

/-- Pin reset: every piece of state takes its pin-reset value. What it does not write stays: the levels
of the inputs, capture memory, and the leaf records and gain entries until the pass has written them
(R25, R193, log 2, log 3). -/
def pinReset (s : State) : State :=
  { State.reset with
    pending := s.pending
    leaves := s.leaves
    gain := s.gain
    memory := s.memory
    memoryErrors := s.memoryErrors
    cradle := Cradle.reset s.cradle.upSwitch s.cradle.downSwitch s.cradle.pressure
      s.cradle.stopLine s.cradle.pedal
    draws := s.draws }

/-- The end of the initialisation pass: every leaf record and gain entry has been written, and INIT_DONE
enters both notice sets (R23, R137, R193, log 3). -/
def initPassEnd (s : State) : State :=
  if s.initRunning then
    ({ s with initRunning := false, leaves := [], gain := [] }.postStation .initDone).postTurner
      .initDone
  else s

end Sys2Proof.Machine
end

