-- ==== Sys2Proof/Machine/Links.lean ====
section
/-! DEFINITION. The link controllers (chapter 12): the words of a link, collecting a command, the
refusals a link makes itself, handing a command to its block, and the commands of both links. -/
namespace Sys2Proof.Machine

/-! ### READ STATUS, TAKE NOTICES, CLEAR LINK FLAGS (R191, R192, R196) -/

/-- Word 1 of READ STATUS (R196). -/
def State.statusWord1 (s : State) : Nat :=
  let c := s.cradle
  bitAt 15 s.initRunning + bitAt 14 s.active.isSome +
  fieldAt 13 ((s.active.map Handle.place).getD 0) + fieldAt 10 c.state.place +
  fieldAt 7 c.haltCause.place + bitAt 6 c.raisePending + bitAt 5 c.grantPending +
  bitAt 4 c.upSwitch + bitAt 3 c.downSwitch + bitAt 2 c.pressure + bitAt 1 c.stopLine +
  bitAt 0 c.pedal

/-- An enumeration that may be absent, in a bit field: 0, or its place from 1 (R195). -/
def optPlace {α : Type} (place : α → Nat) : Option α → Nat
  | none => 0
  | some a => place a + 1

/-- Word 2 of READ STATUS (R196). -/
def State.statusWord2 (s : State) : Nat :=
  bitAt 15 s.cradle.settleTimer.isSome + fieldAt 12 s.turn.phase.place +
  fieldAt 10 (optPlace Direction.place s.turn.direction) + fieldAt 8 (optPlace id s.turn.picked) +
  bitAt 7 s.turn.swept +
  bitAt 6 ((s.active.map fun h => (s.vol h).uncertain).getD false) +
  fieldAt 3 s.run.state.place + fieldAt 1 (optPlace Direction.place s.run.wanted) + bitAt 0 s.overlap

/-- Word 4 of READ STATUS (R196). -/
def State.statusWord4 (s : State) : Nat :=
  bitAt 15 s.delivery.emptyDeliver + bitAt 14 s.full +
  bitAt 13 (decide (s.heads.left.phase = .capturing)) +
  bitAt 12 (decide (s.heads.right.phase = .capturing)) +
  fieldAt 8 s.delivery.queue.length + fieldAt 0 s.rescan.length

/-- Word 5 of READ STATUS (R196). -/
def State.statusWord5 (s : State) : Nat :=
  match s.active with
  | none => 0
  | some h => min (s.vol h).counters.rescanOverflow.toNat 65535

/-- Slot states, three bits each from bit 0 upward (R196). -/
def slotStateBits : List Slot → Nat
  | [] => 0
  | x :: xs => x.state.place + 8 * slotStateBits xs

/-- Word 7 of READ STATUS (R196). -/
def State.statusWord7 (s : State) : Nat :=
  slotStateBits ([5, 6, 7].map s.slot) + fieldAt 9 (optPlace RunKind.place s.run.kind) +
  fieldAt 11 (optPlace EndReason.place (s.run.lastEnd.map (·.reason)))

/-- Word 9 of READ STATUS on a link (R196). -/
def Link.statusWord9 (l : Link) : Nat := l.flags.bits + bitAt 15 l.attention

/-- READ STATUS (R196); the bits its table gives to no field are 0 (log 39). -/
def readStatus (link : MasterLink) (s : State) : Reply × State :=
  (.accepted
    ([s.statusWord1, s.statusWord2, s.openingNow, s.statusWord4, s.statusWord5,
      slotStateBits ([0, 1, 2, 3, 4].map s.slot), s.statusWord7, s.requests.toNat,
      (s.link link).statusWord9].flatMap num16), s)

/-- TAKE NOTICES (R192). -/
def takeNotices (link : MasterLink) (s : State) : Reply × State :=
  (.accepted [(s.link link).notices], s.setLink link { s.link link with notices := 0 })

/-- All five sticky flags clear (R191). -/
def LinkFlags.clear : LinkFlags := ⟨false, false, false, false, false⟩

/-- CLEAR LINK FLAGS (R191). -/
def clearLinkFlags (link : MasterLink) (s : State) : Reply × State :=
  (.accepted [], s.setLink link { s.link link with flags := LinkFlags.clear })

/-! ### Handing a command to its block (R188, R189) -/

/-- What an action command does; a settings command has acted already (R188, R190). -/
def Cmd.perform (c : Cmd) (link : MasterLink) (ws : List Word) (s : State) : Reply × State :=
  match c with
  | .readStatus => Machine.readStatus link s
  | .takeNotices => Machine.takeNotices link s
  | .clearLinkFlags => Machine.clearLinkFlags link s
  | .readLeaf => Machine.readLeaf (arg ws 0) (arg ws 1) s
  | .rescanHead => Machine.rescanHead s
  | .turnRequest => Machine.turnRequest (arg ws 0) s
  | .picked => Machine.picked (arg ws 0) s
  | .swept => Machine.swept s
  | .clear => Machine.clear s
  | .aborted => Machine.aborted s
  | .turnerFault => Machine.turnerFault s
  | .openVolume => Machine.openVolume (OpenRequest.ofWords ws) s
  | .closeVolume => Machine.closeVolume s
  | .discardVolume => Machine.discardVolume (arg ws 0) s
  | .forgetVolume => Machine.forgetVolume (arg ws 0) s
  | .readVolume => Machine.readVolume (arg ws 0) s
  | .readSummary => Machine.readSummary (arg ws 0) s
  | .setCeilings => Machine.setCeilings (arg48 ws 0) (arg32 ws 3) s
  | .setSideMarks => Machine.setSideMarks (arg ws 0) (arg ws 1) (arg ws 2) (ws.getD 3 0) s
  | .markRescan => Machine.markRescan (arg ws 0) (arg ws 1) s
  | .setOpening => Machine.setOpening (arg ws 0) s
  | .leafRewrite =>
    match parseRewrite ws with
    | some (r, _) => Machine.leafRewrite r s
    | none => (.refused .badParam, s)
  | .accept => Machine.accept (arg ws 0) s
  | .reject => Machine.reject (arg ws 0) s
  | .readSlot => Machine.readSlot (arg ws 0) s
  | .clearCounters => Machine.clearCounters s
  | .lower => Machine.lower s
  | .raise => Machine.raise s
  | .resume => Machine.resume s
  | .readLighting => Machine.readLighting s
  | .expose => Machine.expose (arg ws 0) (arg ws 1) (arg ws 2) s
  | .readCapture => Machine.readCapture (arg ws 0) s
  | .darkSeed => Machine.darkSeed (arg ws 0) s
  | .darkCapture => Machine.darkCapture (arg ws 0) s
  | .flatCapture => Machine.flatCapture (arg ws 0) (arg ws 1) s
  | .gainLoad => Machine.gainLoad (arg ws 0) (arg ws 1) (arg ws 2) (arg ws 3) (ws.drop 4) s
  | .readGain => Machine.readGain (arg ws 0) (arg ws 1) (arg ws 2) (arg ws 3) s
  | .readCalibration => Machine.readCalibration (arg ws 0) s
  | .readMeasurement => Machine.readMeasurement (arg ws 0) s
  | .run => Machine.run (arg ws 0) s
  | .seek => Machine.seek (arg ws 0) s
  | .stopRun => Machine.stopRun s
  | .readRun => Machine.readRun s
  | .deliver => Machine.deliver (arg ws 0) s
  | .cancelDelivery => Machine.cancelDelivery s
  | .readDelivery => Machine.readDelivery s
  | .readFaults => Machine.readFaults s
  | .clearFaults => Machine.clearFaults s
  | .partialReset => Machine.partialReset s
  | .setTimers | .setLighting | .setCorrection | .setMeasurement | .setKeep | .setDelivery =>
    (.accepted [], s)

/-- The volume records a command reads as it is taken, by its handle word or as those of the ACTIVE
volume; what it reads or writes further on, the operations it uses read (R178, log 6). To find out which volume is
ACTIVE is not itself a read of a record: the ACTIVE volume's alone is read, and none while none is ACTIVE, the model's
choice (log 6). -/
def Cmd.volumesRead (c : Cmd) (ws : List Word) (s : State) : List Handle :=
  match c with
  | .readLeaf | .discardVolume | .forgetVolume | .readVolume | .readSummary | .leafRewrite =>
    (handleOf (arg ws 0)).toList
  | .openVolume => [.zero, .one]
  | .readStatus | .rescanHead | .turnRequest | .clear | .aborted | .closeVolume | .setCeilings
  | .setSideMarks | .markRescan | .setOpening | .darkCapture | .flatCapture => s.active.toList
  | _ => []

/-- Whether a command reads the rescan list as it is taken (R178, log 6). -/
def Cmd.readsRescan : Cmd → Bool
  | .readStatus | .rescanHead | .markRescan => true
  | _ => false

/-- The reads of account memory other than leaf records that a command begins with (R178). -/
def Cmd.readTable (c : Cmd) (ws : List Word) (s : State) : State :=
  let s := (c.volumesRead ws s).foldl State.readVolume s
  if c.readsRescan then s.readRescan else s

/-- An action command taken with its words (R188, R178). -/
def Cmd.act (c : Cmd) (link : MasterLink) (ws : List Word) (s : State) : Reply × State :=
  c.perform link ws (c.readTable ws s)

/-- The last of a settings command's words so far, applied as a field (R190). -/
def Cmd.applyField (c : Cmd) (ws : List Word) (s : State) : State :=
  let i := ws.length - 1
  let v := arg ws i
  match c with
  | .setTimers => setTimersField i v s
  | .setLighting => setLightingField i v s
  | .setKeep => setKeepField i v s
  | .setDelivery => setDeliveryField i v s
  | .setCorrection =>
    match headOf (arg ws 0) with
    | some h => setCorrectionField h i v s
    | none => s
  | .setMeasurement =>
    match headOf (arg ws 0) with
    | some h => setMeasurementField h ws s
    | none => s
  | _ => s

/-- Whether a settings command is refused at its head word (R105, R140). -/
def Cmd.headRefused (c : Cmd) (ws : List Word) : Bool :=
  (c == .setCorrection || c == .setMeasurement) && (headOf (arg ws 0)).isNone

/-! ### Words out (R187, R188) -/

/-- The word the part sends next on a link (R187, R188). A status word is formed when it goes out, so one sent again
after a word cut off shows in bit 8 the notice set as it then stands: the model's choice (log 40). -/
def Link.outgoing (l : Link) : BitVec 18 :=
  match l.response with
  | [] => frameWord true (statusNone l.attention)
  | .status r :: _ => frameWord true (statusWord r l.attention)
  | .data w :: _ => frameWord false w

/-- A whole word is clocked: the part's word goes out with it (R187). -/
def Link.clockOut (l : Link) : Link :=
  { l with response := l.response.tail, lastSent := some l.outgoing }

/-- The words of a response: one status word, then the result words (R188). -/
def Reply.response : Reply → List ResponseWord
  | .accepted ws => .status none :: ws.map .data
  | .refused r => [.status (some r)]

/-- Change a link. -/
def State.modLink (s : State) (link : MasterLink) (f : Link → Link) : State :=
  s.setLink link (f (s.link link))

/-- The link refuses by itself: the refusal is pending, and the words that follow are discarded until
the next command word (R191). -/
def Link.refuse (l : Link) (r : Reason) : Link :=
  { l with rx := .discarding, response := Reply.response (.refused r) }

/-- A block's answer is queued; the words that follow are fillers (R188). -/
def Link.answer (l : Link) (r : Reply) : Link := { l with rx := .idle, response := r.response }

/-! ### Words in (R188, R190, R191) -/

/-- A command is taken at the arrival of its last word (R188). -/
def State.takeCommand (s : State) (link : MasterLink) (c : Cmd) (ws : List Word) : State :=
  let (r, s) := c.act link ws (s.modLink link fun l => { l with rx := .idle })
  s.modLink link (·.answer r)

/-- What a command word ends: a pending response, and a collection, which sets ABANDONED when it was
an action command's (R188, R190). -/
def Link.breakOff (l : Link) : Link :=
  { l with
    rx := .idle
    response := []
    flags := match l.rx with
      | .collecting c _ => if c.isSetting then l.flags else { l.flags with abandoned := true }
      | _ => l.flags }

/-- A link after a command word with good data has been clocked: the word out, and the break. -/
def State.beginWord (s : State) (link : MasterLink) : State :=
  s.modLink link fun l => l.clockOut.breakOff

/-- A command word with good parity (R189); R191's tests are taken in the order of their numbers, so
during the initialisation pass an unknown code or another link's command is told first (log 37). -/
def State.takeCommandWord (s : State) (link : MasterLink) (data : Word) : State :=
  match Cmd.ofCode data with
  | none =>
    s.modLink link fun l => { l with flags := { l.flags with unknown := true } }.refuse .badParam
  | some c =>
    if c.ownedBy link then
      if s.initRunning && !(c == .readStatus) then s.modLink link (·.refuse .initializing)
      else if c.complete [] then s.takeCommand link c []
      else s.modLink link fun l => { l with rx := .collecting c [] }
    else
      s.modLink link fun l => { l with flags := { l.flags with wrongLink := true } }.refuse .notOwner

/-- A completed command word (R188, R190, R191). -/
def State.commandWord (s : State) (link : MasterLink) (data : Word) (parity : Bool) : State :=
  let s := s.beginWord link
  if parityHolds true data parity then s.takeCommandWord link data
  else s.modLink link fun l => { l with flags := { l.flags with parity := true } }.refuse .linkError

/-- A parameter word of a command being collected, with good parity (R188, R190). -/
def State.collect (s : State) (link : MasterLink) (c : Cmd) (ws : List Word) : State :=
  if c.headRefused ws then s.modLink link (·.refuse .badParam)
  else
    let s := c.applyField ws s
    if c.complete ws then s.takeCommand link c ws
    else s.modLink link fun l => { l with rx := .collecting c ws }

/-- A completed word that is no command word: a parameter word of the command being collected, else a
filler, whose value is ignored (R188, R191, log 10). -/
def State.otherWord (s : State) (link : MasterLink) (data : Word) (parity : Bool) : State :=
  let rx := (s.link link).rx
  let s := s.modLink link Link.clockOut
  if parityHolds false data parity then
    match rx with
    | .collecting c ws => s.collect link c (ws ++ [data])
    | _ => s
  else
    let s := s.modLink link fun l => { l with flags := { l.flags with parity := true } }
    match rx with
    | .collecting _ _ => s.modLink link (·.refuse .linkError)
    | _ => s

/-! ### Whole commands (R188, log 9) -/

/-- A command's code as data bits (R189). -/
def Cmd.word (c : Cmd) : Word := BitVec.ofNat 16 c.code

/-- The parameter words of a command clocked one after another with good parity. -/
def State.clockWords (s : State) (link : MasterLink) (ws : List Word) : State :=
  ws.foldl (fun t w => t.otherWord link w (parityBit false w)) s

/-- A master's whole command: its command word, then its parameter words, with good parity. -/
def State.transact (s : State) (link : MasterLink) (c : Cmd) (ws : List Word) : State :=
  (s.commandWord link c.word (parityBit true c.word)).clockWords link ws

end Sys2Proof.Machine
end

