-- ==== Sys2Proof/Machine/Commands.lean ====
section
/-! DEFINITION. The meanings of the rows that are a master's whole command: its words clocked on its link
(12 R188, R189, log 9). What the command does is its block's definition of the same name. -/
namespace Sys2Proof.Machine

/-- The outcome of every row. -/
abbrev Result := Host.Outcome State Fault Refusal

/-- READ STATUS (R196). -/
def execReadStatus (link : MasterLink) (s : State) : Result :=
  done (s.transact link .readStatus [])

/-- TAKE NOTICES (R192). -/
def execTakeNotices (link : MasterLink) (s : State) : Result :=
  done (s.transact link .takeNotices [])

/-- CLEAR LINK FLAGS (R191). -/
def execClearLinkFlags (link : MasterLink) (s : State) : Result :=
  done (s.transact link .clearLinkFlags [])

/-- READ LEAF (R22). -/
def execReadLeaf (link : MasterLink) (handle leaf : Word) (s : State) : Result :=
  done (s.transact link .readLeaf [handle, leaf])

/-- RESCAN HEAD (R83). -/
def execRescanHead (link : MasterLink) (s : State) : Result :=
  done (s.transact link .rescanHead [])

/-- TURN REQUEST (R64). -/
def execTurnRequest (direction : Word) (s : State) : Result :=
  done (s.transact .turner .turnRequest [direction])

/-- PICKED (R66). -/
def execPicked (count : Word) (s : State) : Result :=
  done (s.transact .turner .picked [count])

/-- SWEPT (R67). -/
def execSwept (s : State) : Result :=
  done (s.transact .turner .swept [])

/-- CLEAR (R69). -/
def execClear (s : State) : Result :=
  done (s.transact .turner .clear [])

/-- ABORTED (R73). -/
def execAborted (s : State) : Result :=
  done (s.transact .turner .aborted [])

/-- TURNER FAULT (R74). -/
def execTurnerFault (s : State) : Result :=
  done (s.transact .turner .turnerFault [])

/-- OPEN VOLUME (R6). -/
def execOpenVolume (partSequence leaves : Word) (volumeCeiling : BitVec 48) (sideCeiling : BitVec 32)
    (length : Word) (chars : List Word) (s : State) : Result :=
  done (s.transact .station .openVolume
    ([partSequence, leaves] ++ split48 volumeCeiling ++ split32 sideCeiling ++ [length] ++ chars))

/-- CLOSE VOLUME (R8). -/
def execCloseVolume (s : State) : Result :=
  done (s.transact .station .closeVolume [])

/-- DISCARD VOLUME (R10). -/
def execDiscardVolume (handle : Word) (s : State) : Result :=
  done (s.transact .station .discardVolume [handle])

/-- FORGET VOLUME (R11). -/
def execForgetVolume (handle : Word) (s : State) : Result :=
  done (s.transact .station .forgetVolume [handle])

/-- READ VOLUME (R12). -/
def execReadVolume (handle : Word) (s : State) : Result :=
  done (s.transact .station .readVolume [handle])

/-- READ SUMMARY (R13). -/
def execReadSummary (handle : Word) (s : State) : Result :=
  done (s.transact .station .readSummary [handle])

/-- SET CEILINGS (R15). -/
def execSetCeilings (volumeCeiling : BitVec 48) (sideCeiling : BitVec 32) (s : State) : Result :=
  done (s.transact .station .setCeilings (split48 volumeCeiling ++ split32 sideCeiling))

/-- SET SIDE MARKS (R21). -/
def execSetSideMarks (leaf face declared skip : Word) (s : State) : Result :=
  done (s.transact .station .setSideMarks [leaf, face, declared, skip])

/-- MARK RESCAN (R82). -/
def execMarkRescan (leaf face : Word) (s : State) : Result :=
  done (s.transact .station .markRescan [leaf, face])

/-- SET OPENING (R78). -/
def execSetOpening (opening : Word) (s : State) : Result :=
  done (s.transact .station .setOpening [opening])

/-- LEAF REWRITE (R181). -/
def execLeafRewrite (words : List Word) (s : State) : Result :=
  done (s.transact .station .leafRewrite words)

/-- ACCEPT (R38). -/
def execAccept (slot : Word) (s : State) : Result :=
  done (s.transact .station .accept [slot])

/-- REJECT (R39). -/
def execReject (slot : Word) (s : State) : Result :=
  done (s.transact .station .reject [slot])

/-- READ SLOT (R45). -/
def execReadSlot (slot : Word) (s : State) : Result :=
  done (s.transact .station .readSlot [slot])

/-- CLEAR COUNTERS (R33). -/
def execClearCounters (s : State) : Result :=
  done (s.transact .station .clearCounters [])

/-- LOWER (R50). -/
def execLower (s : State) : Result :=
  done (s.transact .station .lower [])

/-- RAISE (R53). -/
def execRaise (s : State) : Result :=
  done (s.transact .station .raise [])

/-- RESUME (R60). -/
def execResume (s : State) : Result :=
  done (s.transact .station .resume [])

/-- SET TIMERS (R49). -/
def execSetTimers (travel settle grant frameLeft frameRight : Word) (s : State) : Result :=
  done (s.transact .station .setTimers [travel, settle, grant, frameLeft, frameRight])

/-- SET LIGHTING (R87). -/
def execSetLighting (fields : List Word) (s : State) : Result :=
  done (s.transact .station .setLighting fields)

/-- READ LIGHTING (R102). -/
def execReadLighting (s : State) : Result :=
  done (s.transact .station .readLighting [])

/-- EXPOSE (R107). -/
def execExpose (sides leftPanel rightPanel : Word) (s : State) : Result :=
  done (s.transact .station .expose [sides, leftPanel, rightPanel])

/-- SET CORRECTION (R105). -/
def execSetCorrection (words : List Word) (s : State) : Result :=
  done (s.transact .station .setCorrection words)

/-- READ CAPTURE (R120). -/
def execReadCapture (head : Word) (s : State) : Result :=
  done (s.transact .station .readCapture [head])

/-- DARK SEED (R127). -/
def execDarkSeed (head : Word) (s : State) : Result :=
  done (s.transact .station .darkSeed [head])

/-- DARK CAPTURE (R128). -/
def execDarkCapture (heads : Word) (s : State) : Result :=
  done (s.transact .station .darkCapture [heads])

/-- FLAT CAPTURE (R128). -/
def execFlatCapture (heads target : Word) (s : State) : Result :=
  done (s.transact .station .flatCapture [heads, target])

/-- GAIN LOAD (R134). -/
def execGainLoad (head channel first count : Word) (entries : List Word) (s : State) : Result :=
  done (s.transact .station .gainLoad ([head, channel, first, count] ++ entries))

/-- READ GAIN (R135). -/
def execReadGain (head channel first count : Word) (s : State) : Result :=
  done (s.transact .station .readGain [head, channel, first, count])

/-- READ CALIBRATION (R136). -/
def execReadCalibration (head : Word) (s : State) : Result :=
  done (s.transact .station .readCalibration [head])

/-- SET MEASUREMENT (R140). -/
def execSetMeasurement (words : List Word) (s : State) : Result :=
  done (s.transact .station .setMeasurement words)

/-- SET KEEP (R148). -/
def execSetKeep (mode motionTest degradedTest : Word) (s : State) : Result :=
  done (s.transact .station .setKeep [mode, motionTest, degradedTest])

/-- READ MEASUREMENT (R151). -/
def execReadMeasurement (head : Word) (s : State) : Result :=
  done (s.transact .station .readMeasurement [head])

/-- RUN (R154). -/
def execRun (count : Word) (s : State) : Result :=
  done (s.transact .station .run [count])

/-- SEEK (R155). -/
def execSeek (opening : Word) (s : State) : Result :=
  done (s.transact .station .seek [opening])

/-- STOP RUN (R163). -/
def execStopRun (s : State) : Result :=
  done (s.transact .station .stopRun [])

/-- READ RUN (R165). -/
def execReadRun (s : State) : Result :=
  done (s.transact .station .readRun [])

/-- SET DELIVERY (R168). -/
def execSetDelivery (format auto : Word) (s : State) : Result :=
  done (s.transact .station .setDelivery [format, auto])

/-- DELIVER (R169). -/
def execDeliver (slot : Word) (s : State) : Result :=
  done (s.transact .station .deliver [slot])

/-- CANCEL DELIVERY (R176). -/
def execCancelDelivery (s : State) : Result :=
  done (s.transact .station .cancelDelivery [])

/-- READ DELIVERY (R177). -/
def execReadDelivery (s : State) : Result :=
  done (s.transact .station .readDelivery [])

/-- READ FAULTS (R186). -/
def execReadFaults (s : State) : Result :=
  done (s.transact .station .readFaults [])

/-- CLEAR FAULTS (R186). -/
def execClearFaults (s : State) : Result :=
  done (s.transact .station .clearFaults [])

/-- PARTIAL RESET (R194). -/
def execPartialReset (s : State) : Result :=
  done (s.transact .station .partialReset [])

end Sys2Proof.Machine
end

