-- ==== Sys2Proof/Machine/Events.lean ====
section
/-! DEFINITION. The meanings of the rows that are a word on a link or an event at an input. -/
namespace Sys2Proof.Machine

/-- COMMAND_WORD (R188). -/
def execCommandWord (link : MasterLink) (data : Word) (parity : Bool) (s : State) : Result :=
  done (s.commandWord link data parity)

/-- PARAMETER_WORD (R188, log 10). -/
def execParameterWord (link : MasterLink) (data : Word) (parity : Bool) (s : State) : Result :=
  done (s.otherWord link data parity)

/-- FILLER_WORD (R188, log 10). -/
def execFillerWord (link : MasterLink) (data : Word) (parity : Bool) (s : State) : Result :=
  done (s.otherWord link data parity)

/-- PARTIAL_WORD_DISCARD: the word is taken again as the same word, and the same outgoing word is
sent again (R187, log 11). -/
def execPartialWordDiscard (_link : MasterLink) (_bits : Nat) (s : State) : Result :=
  done s

/-- PIN_RESET (R193). -/
def execPinReset (s : State) : Result :=
  done (pinReset s)

/-- INIT_PASS_END (R137). -/
def execInitPassEnd (s : State) : Result :=
  done (initPassEnd s)

/-- STOP_LINE_ASSERTED (R59). -/
def execStopLineAsserted (s : State) : Result :=
  done (stopLineAsserted s)

/-- STOP_LINE_RELEASED (R59). -/
def execStopLineReleased (s : State) : Result :=
  done (stopLineReleased s)

/-- PEDAL_ASSERTED (R156). -/
def execPedalAsserted (s : State) : Result :=
  done (pedalAsserted s)

/-- PEDAL_RELEASED (R156). -/
def execPedalReleased (s : State) : Result :=
  done (pedalReleased s)

/-- DOWN_SWITCH_ASSERTED (R51). -/
def execDownSwitchAsserted (s : State) : Result :=
  done (downSwitchAsserted s)

/-- UP_SWITCH_ASSERTED (R55). -/
def execUpSwitchAsserted (s : State) : Result :=
  done (upSwitchAsserted s)

/-- SWITCH_CLEARED (R57). -/
def execSwitchCleared (switch : PlatenSwitch) (s : State) : Result :=
  done (switchCleared switch s)

/-- PRESSURE_LOST (R52). -/
def execPressureLost (s : State) : Result :=
  done (pressureLost s)

/-- PRESSURE_RETURNED (R51). -/
def execPressureReturned (s : State) : Result :=
  done (pressureReturned s)

/-- TRAVEL_TIMER_EXPIRY (R57). -/
def execTravelTimerExpiry (s : State) : Result :=
  done (travelTimerExpiry s)

/-- SETTLE_TIMER_EXPIRY (R52). -/
def execSettleTimerExpiry (s : State) : Result :=
  done (settleTimerExpiry s)

/-- GRANT_TIMER_EXPIRY (R75). -/
def execGrantTimerExpiry (s : State) : Result :=
  done (grantTimerExpiry s)

/-- FRAME_TIMER_EXPIRY (R113). -/
def execFrameTimerExpiry (head : Head) (s : State) : Result :=
  done (frameTimerExpiry head s)

/-- STROBE_PULSE_END (R86). -/
def execStrobePulseEnd (bank : Bank) (s : State) : Result :=
  done (strobePulseEnd bank s)

/-- LINE_START (R111). -/
def execLineStart (head : Head) (s : State) : Result :=
  done (lineStart head s)

/-- SAMPLE (R111). -/
def execSample (head : Head) (value : BitVec 12) (s : State) : Result :=
  done (sample head value.toNat s)

/-- LINE_END (R111). -/
def execLineEnd (head : Head) (s : State) : Result :=
  done (lineEnd head s)

/-- FRAME_END (R112). -/
def execFrameEnd (head : Head) (s : State) : Result :=
  done (frameEnd head s)

/-- IMAGE_PORT_WORD_TAKEN (R171, R160). -/
def execImagePortWordTaken (s : State) : Result :=
  done (s.takeWord.reportFreed s)

end Sys2Proof.Machine
end

