-- ==== Sys2Proof/Machine/Dispatch.lean ====
section
/-! DEFINITION. One arm per command of the block. -/
namespace Sys2Proof.Machine

def exec (i : Instr) (s : State) : Host.Outcome State Fault Refusal :=
  match i with
  | .commandWord link data parity => Sys2Proof.Machine.execCommandWord link data parity s
  | .parameterWord link data parity => Sys2Proof.Machine.execParameterWord link data parity s
  | .fillerWord link data parity => Sys2Proof.Machine.execFillerWord link data parity s
  | .partialWordDiscard link bits => Sys2Proof.Machine.execPartialWordDiscard link bits s
  | .readStatus link => Sys2Proof.Machine.execReadStatus link s
  | .takeNotices link => Sys2Proof.Machine.execTakeNotices link s
  | .clearLinkFlags link => Sys2Proof.Machine.execClearLinkFlags link s
  | .readLeaf link handle leaf => Sys2Proof.Machine.execReadLeaf link handle leaf s
  | .rescanHead link => Sys2Proof.Machine.execRescanHead link s
  | .turnRequest direction => Sys2Proof.Machine.execTurnRequest direction s
  | .picked count => Sys2Proof.Machine.execPicked count s
  | .swept => Sys2Proof.Machine.execSwept s
  | .clear => Sys2Proof.Machine.execClear s
  | .aborted => Sys2Proof.Machine.execAborted s
  | .turnerFault => Sys2Proof.Machine.execTurnerFault s
  | .openVolume partSequence leaves volumeCeiling sideCeiling length chars => Sys2Proof.Machine.execOpenVolume partSequence leaves volumeCeiling sideCeiling length chars s
  | .closeVolume => Sys2Proof.Machine.execCloseVolume s
  | .discardVolume handle => Sys2Proof.Machine.execDiscardVolume handle s
  | .forgetVolume handle => Sys2Proof.Machine.execForgetVolume handle s
  | .readVolume handle => Sys2Proof.Machine.execReadVolume handle s
  | .readSummary handle => Sys2Proof.Machine.execReadSummary handle s
  | .setCeilings volumeCeiling sideCeiling => Sys2Proof.Machine.execSetCeilings volumeCeiling sideCeiling s
  | .setSideMarks leaf face declared skip => Sys2Proof.Machine.execSetSideMarks leaf face declared skip s
  | .markRescan leaf face => Sys2Proof.Machine.execMarkRescan leaf face s
  | .setOpening opening => Sys2Proof.Machine.execSetOpening opening s
  | .leafRewrite words => Sys2Proof.Machine.execLeafRewrite words s
  | .accept slot => Sys2Proof.Machine.execAccept slot s
  | .reject slot => Sys2Proof.Machine.execReject slot s
  | .readSlot slot => Sys2Proof.Machine.execReadSlot slot s
  | .clearCounters => Sys2Proof.Machine.execClearCounters s
  | .lower => Sys2Proof.Machine.execLower s
  | .raise => Sys2Proof.Machine.execRaise s
  | .resume => Sys2Proof.Machine.execResume s
  | .setTimers travel settle grant frameLeft frameRight => Sys2Proof.Machine.execSetTimers travel settle grant frameLeft frameRight s
  | .setLighting fields => Sys2Proof.Machine.execSetLighting fields s
  | .readLighting => Sys2Proof.Machine.execReadLighting s
  | .expose sides leftPanel rightPanel => Sys2Proof.Machine.execExpose sides leftPanel rightPanel s
  | .setCorrection words => Sys2Proof.Machine.execSetCorrection words s
  | .readCapture head => Sys2Proof.Machine.execReadCapture head s
  | .darkSeed head => Sys2Proof.Machine.execDarkSeed head s
  | .darkCapture heads => Sys2Proof.Machine.execDarkCapture heads s
  | .flatCapture heads target => Sys2Proof.Machine.execFlatCapture heads target s
  | .gainLoad head channel first count entries => Sys2Proof.Machine.execGainLoad head channel first count entries s
  | .readGain head channel first count => Sys2Proof.Machine.execReadGain head channel first count s
  | .readCalibration head => Sys2Proof.Machine.execReadCalibration head s
  | .setMeasurement words => Sys2Proof.Machine.execSetMeasurement words s
  | .setKeep mode motionTest degradedTest => Sys2Proof.Machine.execSetKeep mode motionTest degradedTest s
  | .readMeasurement head => Sys2Proof.Machine.execReadMeasurement head s
  | .run count => Sys2Proof.Machine.execRun count s
  | .seek opening => Sys2Proof.Machine.execSeek opening s
  | .stopRun => Sys2Proof.Machine.execStopRun s
  | .readRun => Sys2Proof.Machine.execReadRun s
  | .setDelivery format auto => Sys2Proof.Machine.execSetDelivery format auto s
  | .deliver slot => Sys2Proof.Machine.execDeliver slot s
  | .cancelDelivery => Sys2Proof.Machine.execCancelDelivery s
  | .readDelivery => Sys2Proof.Machine.execReadDelivery s
  | .readFaults => Sys2Proof.Machine.execReadFaults s
  | .clearFaults => Sys2Proof.Machine.execClearFaults s
  | .partialReset => Sys2Proof.Machine.execPartialReset s
  | .pinReset => Sys2Proof.Machine.execPinReset s
  | .initPassEnd => Sys2Proof.Machine.execInitPassEnd s
  | .stopLineAsserted => Sys2Proof.Machine.execStopLineAsserted s
  | .stopLineReleased => Sys2Proof.Machine.execStopLineReleased s
  | .pedalAsserted => Sys2Proof.Machine.execPedalAsserted s
  | .pedalReleased => Sys2Proof.Machine.execPedalReleased s
  | .downSwitchAsserted => Sys2Proof.Machine.execDownSwitchAsserted s
  | .upSwitchAsserted => Sys2Proof.Machine.execUpSwitchAsserted s
  | .switchCleared switch => Sys2Proof.Machine.execSwitchCleared switch s
  | .pressureLost => Sys2Proof.Machine.execPressureLost s
  | .pressureReturned => Sys2Proof.Machine.execPressureReturned s
  | .travelTimerExpiry => Sys2Proof.Machine.execTravelTimerExpiry s
  | .settleTimerExpiry => Sys2Proof.Machine.execSettleTimerExpiry s
  | .grantTimerExpiry => Sys2Proof.Machine.execGrantTimerExpiry s
  | .frameTimerExpiry head => Sys2Proof.Machine.execFrameTimerExpiry head s
  | .strobePulseEnd bank => Sys2Proof.Machine.execStrobePulseEnd bank s
  | .lineStart head => Sys2Proof.Machine.execLineStart head s
  | .sample head value => Sys2Proof.Machine.execSample head value s
  | .lineEnd head => Sys2Proof.Machine.execLineEnd head s
  | .frameEnd head => Sys2Proof.Machine.execFrameEnd head s
  | .imagePortWordTaken => Sys2Proof.Machine.execImagePortWordTaken s

end Sys2Proof.Machine
end

