-- ==== Sys2Proof/Machine/Step.lean ====
section
/-! DEFINITION. One step: the command at the front of the queue is taken whole; on an empty queue the
block idles (log 7). -/
namespace Sys2Proof.Machine

/-- The state with the front command taken off its queue. -/
def State.withQueue (s : State) (q : List Instr) : State := { s with pending := q }

/-- One step of the block. -/
def step (s : State) : Host.Outcome State Fault Refusal :=
  match s.pending with
  | [] => .next s
  | c :: rest => exec c (s.withQueue rest)

/-- A command put at the front of the queue. -/
def State.pushFront (s : State) (c : Instr) : State := s.withQueue (c :: s.pending)

/-- The command a word spells put at the front of the queue; no row gives bits (log 7). -/
def State.withFetchWord (s : State) (nbits w : Nat) : State :=
  match decodeTableWord nbits w with
  | some c => s.pushFront c
  | none => s

end Sys2Proof.Machine
end

