-- ==== Sys2Proof/WellFormed.lean ====
section
/-! DEFINITION. When a command is well formed: its operands are words a master can clock for it
(12 R188, R189); and the words a whole command stands for. Everything else about a command's values is
tested by the block itself, with a refusal; an ill-formed command is one that no sequence of link words
spells (log 34). -/
namespace Sys2Proof
open Machine

/-- The characters of OPEN VOLUME: as many as its length word says, none when that is out of range
(R6). -/
def charsFit (length : Word) (chars : List Word) : Bool :=
  if 1 ≤ length.toNat ∧ length.toNat ≤ 40 then chars.length = length.toNat else chars.length = 0

/-- The entries of GAIN LOAD: as many as its count says, none when that is out of range (R134). -/
def entriesFit (count : Word) (entries : List Word) : Bool :=
  if 1 ≤ count.toNat ∧ count.toNat ≤ 256 then entries.length = count.toNat else entries.length = 0

/-- The words of LEAF REWRITE: exactly those its own length words call for (R181, R197). -/
def rewriteFits (words : List Word) : Bool :=
  match parseRewrite words with
  | some (_, rest) => rest.length = 0
  | none => false

/-- The words of a settings command of one head: n, or the head word alone when it is refused (R105,
R140, R189). -/
def headWordsFit (n : Nat) (words : List Word) : Bool :=
  if (headOf (arg words 0)).isSome then words.length = n else words.length = 1

/-- A command is well formed. -/
def Instr.wellFormed : Instr → Bool
  | .partialWordDiscard _ bits => bits < 18
  | .openVolume _ _ _ _ length chars => charsFit length chars
  | .gainLoad _ _ _ count entries => entriesFit count entries
  | .leafRewrite words => rewriteFits words
  | .setLighting fields => fields.length = 15
  | .setCorrection words => headWordsFit 10 words
  | .setMeasurement words => headWordsFit 12 words
  | _ => true

/-- The command that a row names whole, with its link and its parameter words in order (R189); none
for a word and for an event. -/
def Instr.spelled : Instr → Option (MasterLink × Cmd × List Word)
  | .readStatus l => some (l, .readStatus, [])
  | .takeNotices l => some (l, .takeNotices, [])
  | .clearLinkFlags l => some (l, .clearLinkFlags, [])
  | .readLeaf l h n => some (l, .readLeaf, [h, n])
  | .rescanHead l => some (l, .rescanHead, [])
  | .turnRequest d => some (.turner, .turnRequest, [d])
  | .picked n => some (.turner, .picked, [n])
  | .swept => some (.turner, .swept, [])
  | .clear => some (.turner, .clear, [])
  | .aborted => some (.turner, .aborted, [])
  | .turnerFault => some (.turner, .turnerFault, [])
  | .openVolume p n vc sc l cs =>
    some (.station, .openVolume, [p, n] ++ split48 vc ++ split32 sc ++ [l] ++ cs)
  | .closeVolume => some (.station, .closeVolume, [])
  | .discardVolume h => some (.station, .discardVolume, [h])
  | .forgetVolume h => some (.station, .forgetVolume, [h])
  | .readVolume h => some (.station, .readVolume, [h])
  | .readSummary h => some (.station, .readSummary, [h])
  | .setCeilings vc sc => some (.station, .setCeilings, split48 vc ++ split32 sc)
  | .setSideMarks l f d k => some (.station, .setSideMarks, [l, f, d, k])
  | .markRescan l f => some (.station, .markRescan, [l, f])
  | .setOpening k => some (.station, .setOpening, [k])
  | .leafRewrite ws => some (.station, .leafRewrite, ws)
  | .accept n => some (.station, .accept, [n])
  | .reject n => some (.station, .reject, [n])
  | .readSlot n => some (.station, .readSlot, [n])
  | .clearCounters => some (.station, .clearCounters, [])
  | .lower => some (.station, .lower, [])
  | .raise => some (.station, .raise, [])
  | .resume => some (.station, .resume, [])
  | .setTimers a b c d e => some (.station, .setTimers, [a, b, c, d, e])
  | .setLighting fs => some (.station, .setLighting, fs)
  | .readLighting => some (.station, .readLighting, [])
  | .expose d l r => some (.station, .expose, [d, l, r])
  | .setCorrection ws => some (.station, .setCorrection, ws)
  | .readCapture h => some (.station, .readCapture, [h])
  | .darkSeed h => some (.station, .darkSeed, [h])
  | .darkCapture h => some (.station, .darkCapture, [h])
  | .flatCapture h t => some (.station, .flatCapture, [h, t])
  | .gainLoad h c x n es => some (.station, .gainLoad, [h, c, x, n] ++ es)
  | .readGain h c x n => some (.station, .readGain, [h, c, x, n])
  | .readCalibration h => some (.station, .readCalibration, [h])
  | .setMeasurement ws => some (.station, .setMeasurement, ws)
  | .setKeep m t d => some (.station, .setKeep, [m, t, d])
  | .readMeasurement h => some (.station, .readMeasurement, [h])
  | .run n => some (.station, .run, [n])
  | .seek k => some (.station, .seek, [k])
  | .stopRun => some (.station, .stopRun, [])
  | .readRun => some (.station, .readRun, [])
  | .setDelivery f a => some (.station, .setDelivery, [f, a])
  | .deliver n => some (.station, .deliver, [n])
  | .cancelDelivery => some (.station, .cancelDelivery, [])
  | .readDelivery => some (.station, .readDelivery, [])
  | .readFaults => some (.station, .readFaults, [])
  | .clearFaults => some (.station, .clearFaults, [])
  | .partialReset => some (.station, .partialReset, [])
  | .commandWord .. | .parameterWord .. | .fillerWord .. | .partialWordDiscard .. => none
  | .pinReset | .initPassEnd | .stopLineAsserted | .stopLineReleased => none
  | .pedalAsserted | .pedalReleased | .downSwitchAsserted | .upSwitchAsserted => none
  | .switchCleared _ | .pressureLost | .pressureReturned | .travelTimerExpiry => none
  | .settleTimerExpiry | .grantTimerExpiry | .frameTimerExpiry _ | .strobePulseEnd _ => none
  | .lineStart _ | .sample _ _ | .lineEnd _ | .frameEnd _ | .imagePortWordTaken => none

end Sys2Proof
end

