-- ==== Sys2Proof/Safety.lean ====
section
/-! DEFINITION. The words in which a command's effect is said (on its link, on the slots freed, on the parts
of a record a keep or a refusal writes, at the end of an exposure, on a table with no bit error); and what every
step keeps, from every state that has it: the canonical form of the sparse memories, the ranges of the account and of the
settings, and the interlock between the cradle, its timers, the strobes, the captures and the turn. -/
namespace Sys2Proof.Machine

/-! ### A whole command on its link (R187, R188, R190) -/

/-- The sticky flags after a command word: a collection that was open and not a settings command's
leaves ABANDONED (R188, R190). -/
def Link.brokenFlags (l : Link) : LinkFlags :=
  match l.rx with
  | .collecting c _ => if c.isSetting then l.flags else { l.flags with abandoned := true }
  | _ => l.flags

/-- The last word out while a command word and n parameter words come in: the word that was next, or
the status word with outcome NONE once the command word has ended the response (R187, R188). -/
def Link.lastOut (l : Link) (n : Nat) : BitVec 18 :=
  if n = 0 then l.outgoing else frameWord true (statusNone l.attention)

/-- A link when a command word and n parameter words have come in and no answer has been queued. -/
def Link.taking (l : Link) (n : Nat) : Link :=
  { rx := .idle, response := [], notices := l.notices, flags := l.brokenFlags
    lastSent := some (l.lastOut n) }

/-- The state in which a block is handed a command of n parameter words. -/
def State.taking (s : State) (link : MasterLink) (n : Nat) : State :=
  s.modLink link (·.taking n)

/-- The state after a command of n parameter words that did nothing but answer, at the end of its
event. -/
def State.answered (s : State) (link : MasterLink) (n : Nat) (r : Reply) : State :=
  { s.modLink link fun l => (l.taking n).answer r with skippedNow := [] }

/-! ### The sparse memories -/

/-- Capture memory, the leaf records and the gain table are in canonical form. -/
structure State.Canonical (s : State) : Prop where
  memory : Memory.wf s.memory = true
  leaves : Sparse.wf (LeafRecord.fresh .leaf) s.leaves = true
  gain : Sparse.wf GainEntry.unity s.gain = true

/-! ### Ranges of the account (R1, R2, R6, R70, R79, R95) -/

/-- A volume record's opening pointer is one of its openings (R3, R6, R70), its dose does not exceed its
volume ceiling (R95), and no word of it waits to be corrected (R178; no step makes an error, log 4). -/
structure Volume.InRange (v : Volume) : Prop where
  leaves : v.leaves ≤ 2046
  opening : v.opening ≤ v.leaves
  dose : v.dose ≤ v.volumeCeiling
  corrected : v.errors.single = 0

/-- At most one volume is ACTIVE, the rescan list fits its 64 places, and no word of it waits to be
corrected (R1, R2, R79, R178). -/
structure State.AccountInRange (s : State) : Prop where
  oneActive : ¬(s.vols.zero.state = .active ∧ s.vols.one.state = .active)
  serial : s.serial ≤ 65535
  zero : s.vols.zero.InRange
  one : s.vols.one.InRange
  rescan : s.rescan.length ≤ Config.rescanPlaces
  corrected : s.rescanErrors.single = 0

/-- No word of the two volume records or of the rescan list waits to be corrected, so that their reads
count nothing (R178, log 6). -/
structure State.TableClean (s : State) : Prop where
  zero : s.vols.zero.errors.single = 0
  one : s.vols.one.errors.single = 0
  rescan : s.rescanErrors.single = 0

/-! ### Ranges of the settings (R49, R87, R88, R105, R124, R140) -/

/-- A number between two limits. -/
def Within (lo hi n : Nat) : Prop := lo ≤ n ∧ n ≤ hi

/-- The limits of R49. -/
structure Timers.InRange (t : Timers) : Prop where
  travel : Within 100 5000 t.travel
  settle : t.settle ≤ 2000
  grant : Within 500 20000 t.grant
  left : Within 10 5000 t.frame.left
  right : Within 10 5000 t.frame.right

/-- The limits of a bank's level and weight (R87). -/
structure BankSetting.InRange (b : BankSetting) : Prop where
  level : b.level ≤ 255
  weight : b.weight ≤ 255

/-- The limits of R87; D_min is never above D_max, and the base durations lie between them (R88). -/
structure LightingSettings.InRange (l : LightingSettings) : Prop where
  banks : ∀ b, (l.banks.get b).InRange
  target : Within 1 65535 l.target
  low : 100 ≤ l.dMin
  order : l.dMin ≤ l.dMax
  high : l.dMax ≤ 65535
  left : Within l.dMin l.dMax l.base.left
  right : Within l.dMin l.dMax l.base.right

/-- W is a multiple of 16 from 1024 to 6144 and H is from 1024 to 8192 (R105); the fixed darks fit ten
bits and the window's limits keep their order (R124). -/
structure Correction.InRange (c : Correction) : Prop where
  w : Within 1024 6144 c.w
  multiple : c.w % 16 = 0
  h : Within 1024 8192 c.h
  fixed : ∀ ch, c.fixed.get ch ≤ 1023
  offset : c.offset ≤ 255
  window : c.winLo ≤ c.winHi
  winHi : c.winHi ≤ 1023

/-- The limits of R140. -/
structure Measurement.InRange (m : Measurement) : Prop where
  left : m.left ≤ 6143
  top : m.top ≤ 8191
  width : Within 1 6144 m.width
  height : Within 1 8192 m.height
  threshold : m.threshold ≤ 65535
  clipLimit : m.clipLimit ≤ 4294967295
  runLength : Within 1 8 m.runLength
  guardColumns : m.guardColumns ≤ 255
  guardLines : m.guardLines ≤ 255
  blankMinimum : m.blankMinimum ≤ 255

/-- The settings of one head are within their limits. -/
structure HeadUnit.InRange (u : HeadUnit) : Prop where
  correction : u.correction.InRange
  measurement : u.measurement.InRange

/-- Every setting is within its limits. -/
structure State.SettingsInRange (s : State) : Prop where
  timers : s.timers.InRange
  light : s.light.settings.InRange
  left : s.heads.left.InRange
  right : s.heads.right.InRange

/-! ### The interlock (R47, R49, R53, R55, R56, R63, R86) -/

/-- Whether no bank is LIT. -/
def Lighting.dark (l : Lighting) : Prop := l.strobes = ⟨none, none, none, none⟩

/-- Timers run only in their cradle states; outside READY every bank is DARK and no capture is in
flight; a pending raise waits for a capture; the turn's phase and the cradle's state agree. -/
structure State.Interlocked (s : State) : Prop where
  travel : s.cradle.travelTimer.isSome → s.cradle.state = .lowering ∨ s.cradle.state = .raising
  settle : s.cradle.settleTimer.isSome → s.cradle.state = .settling ∧ s.cradle.pressure = true
  grant : s.cradle.grantTimer.isSome → s.cradle.state = .turnGranted
  strobes : s.cradle.state ≠ .ready → s.light.dark
  captures : s.inFlight = true → s.cradle.state = .ready
  raisePending : s.cradle.raisePending = true → s.cradle.state = .ready ∧ s.inFlight = true
  pending : s.turn.phase = .pending ↔ s.cradle.grantPending = true
  grantPending : s.cradle.grantPending = true → s.cradle.state = .raising
  granted : s.turn.phase = .granted ↔ s.cradle.state = .turnGranted

/-! ### What EXPOSE sees (R107, R108) -/

/-- EXPOSE's tests 1 to 5 pass for the volume of a handle (R107). -/
structure State.ExposureReady (s : State) (h : Handle) : Prop where
  running : s.initRunning = false
  idle : s.run.state = .idle
  active : s.active = some h
  parity : s.cradle.parityGood = true
  ready : s.cradle.state = .ready
  free : s.inFlight = false
  certain : (s.vol h).uncertain = false

/-- A leaf record is valid and reads clean. -/
def State.cleanLeaf (s : State) (h : Handle) (n : Nat) : Prop :=
  (s.leaf h n).valid = true ∧ (s.leaf h n).errors = []

/-- The owner of a capture of a panel at a head's side of an opening (R17, R30). -/
def panelAt (h : Handle) (k : Nat) (p : Head) (panel : Nat) : Owner :=
  ⟨h, (sideAt k p).leaf, (sideAt k p).face, panel⟩

/-- Whether a slot is one an exposure of these panels may take: FREE, or holding one of them undecided
(R31, R32). -/
def Slot.availableFor (x : Slot) (owners : List Owner) : Bool :=
  x.state == .free || (x.state == .provisional && owners.any fun o => x.owner == some o)

/-! ### The end of an exposure (R54) -/

/-- The switches agree with the state that the end of an exposure in READY brings about (R54, R57). -/
def State.switchesAllowEnd (s : State) : Prop :=
  (s.cradle.raisePending = true → ¬(s.cradle.upSwitch = true ∧ s.cradle.downSwitch = true)) ∧
  (s.cradle.raisePending = false → s.cradle.pressure = false →
    s.cradle.upSwitch = false ∧ s.cradle.downSwitch = true)

/-- The state after the end of an exposure in READY, where the switches agree with it: a pending raise is
taken whatever the pressure, else a loss of pressure leads to SETTLING with its timer stopped, else the
cradle stays READY (R54). -/
def State.afterExposure (s : State) : State :=
  if s.cradle.raisePending = true then
    { s with cradle := { s.cradle with raisePending := false } }.enter .raising
  else if s.cradle.pressure = false then s.enter .settling
  else s

/-! ### What a write of one face leaves of its record (R16, R179) -/

/-- Of all the leaf records only the face of one side has changed, with the kept figures of its record in step
with what the record now holds. -/
structure FaceAlone (s t : State) (h : Handle) (d : Side) : Prop where
  record : t.leaf h d.leaf = (s.leaf h d.leaf).setFace d.face (t.face h d)
  others : d.leaf ≤ 2047 → ∀ h' n, (h' ≠ h ∨ n ≠ d.leaf) → n ≤ 2047 → t.leaf h' n = s.leaf h' n

/-! ### What freeing slots comes to (R29, R10, R31, R35, R44) -/

/-- Some slots are cleared and leave the delivery queue; the others keep their contents and their places. -/
structure SlotsFreed (s t : State) (gone : SlotNo → Bool) : Prop where
  slots : ∀ i, t.slot i = if gone i then Slot.cleared else s.slot i
  delivery : t.delivery = { s.delivery with queue := s.delivery.queue.filter fun i => !gone i }

/-- The panels of some slots lose their pending part, and those that others stand for at their generation lose
their settled part; nothing else in the leaf records changes. -/
structure PartsRemoved (s t : State) (pending settled : SlotNo → Bool) : Prop where
  panel : ∀ h d p, d.leaf ≤ 2047 →
    let e := (s.face h d).panel p
    let holds (i : SlotNo) : Bool := (s.slot i).owner == some ⟨h, d.leaf, d.face, p⟩
    (t.face h d).panel p =
      { e with
        pending := if allSlots.any (fun i => pending i && holds i) then none else e.pending
        settled :=
          if allSlots.any (fun i => settled i && holds i && (s.slot i).generation == e.generation) then .none
          else e.settled }
  face : ∀ h d, d.leaf ≤ 2047 →
    { t.face h d with panels := [] } = { s.face h d with panels := [] }
  record : ∀ h n, n ≤ 2047 →
    (t.leaf h n).kind = (s.leaf h n).kind ∧ (t.leaf h n).valid = (s.leaf h n).valid ∧
      (t.leaf h n).errors = (s.leaf h n).errors
  kept : ∀ h n, n ≤ 2047 →
    let r := { s.leaf h n with recto := (t.leaf h n).recto, verso := (t.leaf h n).verso }
    t.leaf h n = r ∨ t.leaf h n = r.keepMarks
  others : ∀ h n, n ≤ 2047 →
    (∀ i o, (pending i || settled i) = true → (s.slot i).owner = some o → ¬(o.handle = h ∧ o.leaf = n)) →
    t.leaf h n = s.leaf h n

/-- Each of some slots has an owner whose leaf record is valid and reads clean. -/
def State.ownersClean (s : State) (gone : SlotNo → Bool) : Prop :=
  ∀ i, gone i = true →
    ∃ o, (s.slot i).owner = some o ∧ o.leaf ≤ 2047 ∧ s.cleanLeaf o.handle o.leaf

/-- How many of some slots a volume owns. -/
def State.ownedAmong (s : State) (h : Handle) (gone : SlotNo → Bool) : Nat :=
  allSlots.countP fun i => gone i && (s.slot i).owner.any (·.handle = h)

/-! ### What a keep and a delivery's start come to (R36, R37, R170) -/

/-- The record of a delivery that starts for slot i with entry x and owner o of a volume with this serial
(R170, R172); bit 15 of its header word 2 is 0 (log 39). -/
def Slot.deliveryStart (x : Slot) (i : SlotNo) (o : Owner) (serial : Nat) (f : Format) (superseded : Bool) :
    Delivery :=
  { phase := .header, slot := i, owner := o, generation := x.generation, format := f, box := x.imageBox
    linesSent := 0, wordsSent := 0, wordInLine := 0, crc := 0xFFFFFFFF, damaged := false, cancelled := false
    toTake := headerWords serial x o f x.imageBox superseded, trailer := [] }

/-- Whether a slot is KEPT with an owner: what a keep of that owner's panel overtakes (R36 step 3). -/
def Slot.overtakenBy (x : Slot) (o : Owner) : Bool := x.state == .kept && x.owner == some o

/-- A side's rescan flag has gone from set to clear: if its volume is ACTIVE the side leaves the list, or the
overflow when the list does not hold it (R81). -/
structure LeftRescan (s t : State) (h : Handle) (d : Side) : Prop where
  rescan : t.rescan =
    if (s.vol h).state = .active ∧ d ∈ s.rescan then s.rescan.filter (· ≠ d) else s.rescan
  overflow : (t.vol h).counters.rescanOverflow =
    if (s.vol h).state = .active ∧ d ∉ s.rescan then (s.vol h).counters.rescanOverflow - 1
    else (s.vol h).counters.rescanOverflow

/-- What the keep of slot i, with entry x and owner o, makes of a state in which the owner's record reads clean:
the slot, the slots it overtakes, the panel, the side's flags, the counters, the rescan list, the delivery queue
and the base duration (R36, R37, R5, R81, R98). -/
structure KeepMade (s t : State) (i : SlotNo) (x : Slot) (o : Owner) : Prop where
  slot :
    let kept := { x with
      state := .kept, generation := ((s.face o.handle o.side).panel o.panel).generation + 1 }
    t.slot i =
      if s.delivery.settings.auto = false then kept
      else if s.delivery.current.isSome then { kept with queued := true }
      else { kept with state := .delivering, queued := false }
  overtaken : ∀ j, j ≠ i → t.slot j = if (s.slot j).overtakenBy o then Slot.cleared else s.slot j
  panel : (t.face o.handle o.side).panel o.panel =
    { number := o.panel, generation := ((s.face o.handle o.side).panel o.panel).generation + 1
      settled := .kept x.stats, pending := none }
  panels : ∀ p, p ≠ o.panel → (t.face o.handle o.side).panel? p = (s.face o.handle o.side).panel? p
  face : t.face o.handle o.side =
    { s.face o.handle o.side with
      panels := (t.face o.handle o.side).panels, blank := x.stats.blank
      rescan := (s.face o.handle o.side).rescan && !(t.face o.handle o.side).allSettled }
  clean : t.cleanLeaf o.handle o.leaf
  alone : FaceAlone s t o.handle o.side
  leaves : ∀ h n, (h ≠ o.handle ∨ n ≠ o.leaf) → n ≤ 2047 → t.leaf h n = s.leaf h n
  volume :
    let f := s.face o.handle o.side
    let c := (s.vol o.handle).counters
    t.vols = s.vols.set o.handle { s.vol o.handle with
      counters := { c with
        kept := c.kept + 1
        superseded := if (f.panel o.panel).settled = .none then c.superseded else c.superseded + 1
        blankSides := if f.blank = x.stats.blank then c.blankSides
          else if x.stats.blank then c.blankSides + 1 else c.blankSides - 1
        rescanOverflow := (t.vol o.handle).counters.rescanOverflow } }
  left : (s.face o.handle o.side).rescan = true → (t.face o.handle o.side).rescan = false →
    LeftRescan s t o.handle o.side
  stays : ((s.face o.handle o.side).rescan = true → (t.face o.handle o.side).rescan = true) →
    t.rescan = s.rescan ∧
      (t.vol o.handle).counters.rescanOverflow = (s.vol o.handle).counters.rescanOverflow
  light : t.light = match x.head with
    | none => s.light
    | some p => s.light.autoExpose p x.baseDuration x.stats.meanGray x.stats.blank
  delivery :
    let queue := s.delivery.queue.filter fun j => j == i || !(s.slot j).overtakenBy o
    let kept := { x with
      state := .kept, generation := ((s.face o.handle o.side).panel o.panel).generation + 1 }
    t.delivery =
      if s.delivery.settings.auto = false then { s.delivery with queue := queue }
      else if s.delivery.current.isSome then { s.delivery with queue := queue ++ [i] }
      else { s.delivery with
        queue := []
        current := some (kept.deliveryStart i o (s.vol o.handle).serial s.delivery.settings.format false) }

end Sys2Proof.Machine
end

