-- ==== Sys2Proof/Certificates/Slice0/Obligations.lean ====
section
/-! DEFINITION. The statements for the provers. Each holds of every state and operand its premises admit; a
rule is named R<n>, and a clause that rests on a choice of the model's names its log entry. -/
open Sys2Proof Sys2Proof.Machine

/-! ### The queue, the resets and the links (chapter 12) -/

/-- The queue is the model's own (log 27): a step takes the front command whole, and an empty queue leaves the
block idle (log 7). -/
def Obligations.StepRunsTheFrontCommand : Prop :=
  (∀ (s : State) (c : Instr) (rest : List Instr), s.pending = c :: rest →
    step s = exec c (s.withQueue rest)) ∧
  (∀ s : State, s.pending = [] → step s = .next s)

/-- Every command completes, leaves the commands that wait as they are, and ends its event (log 20). -/
def Obligations.EveryCommandCompletes : Prop :=
  ∀ (c : Instr) (s : State), ∃ t : State, exec c s = .next t ∧ t.pending = s.pending ∧
    t.skippedNow = []

/-- R193 with R2, R11, R23, R46, R62, R85, R103, R122, R138, R152, R166, R177, R186: a pin reset puts every
block in its reset state and starts the initialisation pass. Capture memory is not written (R46), and the levels
of the five inputs are not the part's to write (log 2). An EMPTY record's part sequence is 0 (log 33) and its words,
like those of the rescan list, read clean (log 6). -/
def Obligations.PinResetPutsEveryBlockInItsResetState : Prop :=
  ∀ s : State, ∃ t : State, exec .pinReset s = .next t ∧
    t.initRunning = true ∧ t.serial = 0 ∧ t.rescan = [] ∧ t.rescanErrors = ⟨0, 0⟩ ∧
    t.vols.zero = Volume.empty ∧ t.vols.one = Volume.empty ∧
    (∀ i : SlotNo, t.slot i = Slot.cleared) ∧ t.full = false ∧ t.requests = 0 ∧
    t.memory = s.memory ∧
    t.cradle.state = .halted ∧ t.cradle.haltCause = .pinReset ∧ t.cradle.parityGood = true ∧
    t.cradle.downDrive = false ∧ t.cradle.upDrive = false ∧
    t.cradle.travelTimer = none ∧ t.cradle.settleTimer = none ∧ t.cradle.grantTimer = none ∧
    t.cradle.raisePending = false ∧ t.cradle.grantPending = false ∧
    t.cradle.upSwitch = s.cradle.upSwitch ∧ t.cradle.downSwitch = s.cradle.downSwitch ∧
    t.cradle.pressure = s.cradle.pressure ∧ t.cradle.stopLine = s.cradle.stopLine ∧
    t.cradle.pedal = s.cradle.pedal ∧
    t.timers = ⟨2000, 300, 6000, ⟨1500, 1500⟩⟩ ∧
    t.turn = ⟨.none, none, none, false⟩ ∧
    t.light.settings = ⟨⟨⟨160, 128⟩, ⟨160, 128⟩, ⟨160, 128⟩, ⟨160, 128⟩⟩, 1000, 40000,
      ⟨8000, 8000⟩, 40000, ⟨true, true⟩⟩ ∧
    t.light.dark ∧ t.light.holds = ⟨0, 0⟩ ∧ t.light.lastFiring = none ∧ t.light.lastRefusal = none ∧
    t.light.lastUpdate = none ∧
    (∀ h : Head, (t.head h).phase = .idle ∧ (t.head h).port = .between ∧ (t.head h).capture = none ∧
      (t.head h).frameTimer = none ∧ (t.head h).flags = ⟨false, false, false⟩ ∧ (t.head h).stray = 0 ∧
      (t.head h).correction = ⟨6144, 8192, .fixed, ⟨0, 0, 0⟩, 0, 0, 1023⟩ ∧
      (t.head h).running = ⟨0, 0, 0⟩ ∧ (t.head h).driftCount = 0 ∧
      (t.head h).lastDarkUpdate = none ∧ (t.head h).lastDarkCapture = none ∧
      (t.head h).lastFlatCapture = none ∧
      (t.head h).measurement = ⟨1536, 2048, 3072, 4096, 6000, 3, 16, 16, 8, 100000⟩ ∧
      (t.head h).work.measuring = false ∧ (t.head h).lastMeasurement = none) ∧
    t.overlap = false ∧ t.keep = ⟨.gate, true, true⟩ ∧
    t.run.state = .idle ∧ t.run.kind = none ∧ t.run.remaining = 0 ∧ t.run.cycles = 0 ∧
    t.run.target = none ∧ t.run.budget = 0 ∧ t.run.turnsTaken = 0 ∧ t.run.wanted = none ∧
    t.run.stopRequested = false ∧
    t.run.slots = ⟨none, none⟩ ∧ t.run.lastEnd = none ∧ t.run.pedalRefusal = none ∧
    t.delivery.settings = ⟨.w16, true⟩ ∧ t.delivery.queue = [] ∧ t.delivery.current = none ∧
    t.delivery.emptyDeliver = false ∧ t.delivery.lastTrailer = none ∧
    t.faults.record = none ∧ (∀ c : FaultClass, t.faults.counts[c.place] = 0) ∧ t.faults.skipped = 0 ∧
    (∀ link : MasterLink, (t.link link).rx = .idle ∧ (t.link link).response = [] ∧
      (t.link link).attention = false ∧ (t.link link).flags = ⟨false, false, false, false, false⟩)

/-- The state from which the model starts is a pin reset's, whatever went before, and has what every step keeps (R193;
the input levels are log 2's, capture memory, the leaf records and the gain entries log 1's and log 3's). -/
def Obligations.ResetIsTheStateAfterAPinReset : Prop :=
  exec .pinReset State.reset = .next State.reset ∧ State.reset.memory = [] ∧
  State.reset.Canonical ∧ State.reset.AccountInRange ∧ State.reset.SettingsInRange ∧
  State.reset.Interlocked ∧
  ∀ s : State, exec .pinReset s = .next
    { State.reset with
      pending := s.pending, leaves := s.leaves, gain := s.gain, memory := s.memory
      memoryErrors := s.memoryErrors, draws := s.draws
      cradle := { State.reset.cradle with
        upSwitch := s.cradle.upSwitch, downSwitch := s.cradle.downSwitch
        pressure := s.cradle.pressure, stopLine := s.cradle.stopLine, pedal := s.cradle.pedal } }

/-- R137, R23: at the end of the pass every gain entry is 16384 and every leaf record is whole and valid as OPEN
VOLUME writes a leaf, INIT_DONE is in both notice sets, and nothing else has changed. With no pass running there
is no end of one (log 7). -/
def Obligations.InitialisationPassEnds : Prop :=
  ∀ s : State,
    (s.initRunning = true → ∃ t : State, exec .initPassEnd s = .next t ∧
      t.initRunning = false ∧
      (∀ k, t.gainEntry k = ⟨16384, none⟩) ∧
      (∀ h n, t.leaf h n = LeafRecord.fresh .leaf) ∧
      t.links.station = { s.links.station with
        notices := addNotice s.links.station.notices StationNotice.initDone.place } ∧
      t.links.turner = { s.links.turner with
        notices := addNotice s.links.turner.notices TurnerNotice.initDone.place } ∧
      t = { s with initRunning := false, leaves := t.leaves, gain := t.gain, links := t.links
                   skippedNow := [] }) ∧
    (s.initRunning = false → exec .initPassEnd s = .next { s with skippedNow := [] })

/-- R137, R191: until the pass ends, every command but READ STATUS is refused INITIALIZING, and a whole command
changes nothing but the receive side of its link. -/
def Obligations.CommandsAreRefusedDuringInitialisation : Prop :=
  (∀ (link : MasterLink) (c : Cmd) (s : State), s.initRunning = true → c ≠ .readStatus →
    c.ownedBy link = true →
    ∃ t : State, exec (.commandWord link c.word (parityBit true c.word)) s = .next t ∧
      (t.link link).response = [.status (some .initializing)] ∧ (t.link link).rx = .discarding ∧
      t = { s with links := s.links.set link (t.link link), skippedNow := [] }) ∧
  (∀ (c : Instr) (link : MasterLink) (cmd : Cmd) (ws : List Word) (s : State),
    c.spelled = some (link, cmd, ws) → cmd ≠ .readStatus → s.initRunning = true →
    ∃ t : State, exec c s = .next t ∧
      (t.link link).rx = .discarding ∧ (t.link link).notices = (s.link link).notices ∧
      t = { s with links := s.links.set link (t.link link), skippedNow := [] })

/-- R187, R188, R189: every word the part sends holds an even number of ones, its kind in bit 17 and its data in bits 16
to 1; a status word holds the outcome in bits 15..14, the notice mark in bit 8 and the refusal reason in bits 4..0; each
code of the command table names its command and every other code none. That a status word's bits 13 to 9 and 7 to 5,
which R188 gives to no field, are 0 is the model's choice (log 39). -/
def Obligations.LinkWordsAreCoded : Prop :=
  (∀ (kind : Bool) (data : Word),
     (List.range 18).foldl (fun odd i => xor odd ((frameWord kind data).getLsbD i)) false = false ∧
     (frameWord kind data).getLsbD 17 = kind ∧ (frameWord kind data).extractLsb' 1 16 = data) ∧
  ((∀ notices : Bool, (statusNone notices).toNat = if notices then 256 else 0) ∧
   (∀ notices : Bool, (statusWord none notices).toNat = 16384 + if notices then 256 else 0) ∧
   (∀ (r : Reason) (notices : Bool),
     (statusWord (some r) notices).toNat = 32768 + (if notices then 256 else 0) + r.number) ∧
   Reason.notOwner.number = 1 ∧ Reason.badParam.number = 2 ∧ Reason.linkError.number = 3 ∧
   Reason.initializing.number = 4 ∧ Reason.late.number = 5 ∧ Reason.cradleState.number = 6 ∧
   Reason.halted.number = 7 ∧ Reason.runActive.number = 8 ∧ Reason.noVolume.number = 9 ∧
   Reason.tableFull.number = 10 ∧ Reason.undecided.number = 11 ∧ Reason.endOfVolume.number = 12 ∧
   Reason.openingUncertain.number = 13 ∧ Reason.recordDamaged.number = 14 ∧
   Reason.exposureInFlight.number = 15 ∧ Reason.slotsFull.number = 16 ∧ Reason.doseLimit.number = 17 ∧
   Reason.nothingToCapture.number = 18 ∧ Reason.generationLimit.number = 19 ∧
   Reason.nothingToDeliver.number = 20 ∧ Reason.busy.number = 21) ∧
  ((∀ c : Cmd, Cmd.ofCode c.word = some c) ∧
   (∀ w : Word, ∀ c : Cmd, Cmd.ofCode w = some c → w = c.word) ∧
   Cmd.readStatus.word = 0x0001 ∧ Cmd.rescanHead.word = 0x0005 ∧ Cmd.turnRequest.word = 0x0010 ∧
   Cmd.turnerFault.word = 0x0015 ∧ Cmd.openVolume.word = 0x0020 ∧ Cmd.leafRewrite.word = 0x002A ∧
   Cmd.accept.word = 0x0030 ∧ Cmd.clearCounters.word = 0x0033 ∧ Cmd.lower.word = 0x0040 ∧
   Cmd.setTimers.word = 0x0043 ∧ Cmd.setLighting.word = 0x0050 ∧ Cmd.expose.word = 0x0052 ∧
   Cmd.setCorrection.word = 0x0060 ∧ Cmd.readCalibration.word = 0x0067 ∧
   Cmd.setMeasurement.word = 0x0070 ∧ Cmd.readMeasurement.word = 0x0072 ∧ Cmd.run.word = 0x0080 ∧
   Cmd.readRun.word = 0x0083 ∧ Cmd.setDelivery.word = 0x0090 ∧ Cmd.readDelivery.word = 0x0093 ∧
   Cmd.readFaults.word = 0x00A0 ∧ Cmd.partialReset.word = 0x00A2)

/-- R188, R189, R190: a command word of the link's own, with good parity and no pass running, ends what the link
was doing (ABANDONED only for an action command) and either awaits its parameters, changing nothing else, or is
taken at once. -/
def Obligations.CommandWordStartsATransaction : Prop :=
  ∀ (link : MasterLink) (c : Cmd) (s : State), c.ownedBy link = true → s.initRunning = false →
    (c.arity ≠ 0 → exec (.commandWord link c.word (parityBit true c.word)) s = .next
      { s with
        links := s.links.set link
          { rx := .collecting c [], response := [], notices := (s.link link).notices
            flags := (s.link link).brokenFlags, lastSent := some (s.link link).outgoing }
        skippedNow := [] }) ∧
    (c.arity = 0 → exec (.commandWord link c.word (parityBit true c.word)) s = .next
      (let (r, t) := c.act link [] (s.taking link 0)
       { t.modLink link (·.answer r) with skippedNow := [] }))

/-- R191: a command word with failed parity, one that names no command, and one of the other link's commands; each
sets its sticky flag, is answered by the link itself, ends what the link was doing, and changes nothing
else. That the last two are so answered during the initialisation pass too is the model's reading (log 37). -/
def Obligations.LinkRefusesBadCommandWords : Prop :=
  ∀ (link : MasterLink) (data : Word) (parity : Bool) (s : State),
    let after (f : LinkFlags) (r : Reason) : State :=
      { s with
        links := s.links.set link
          { rx := .discarding, response := [.status (some r)], notices := (s.link link).notices
            flags := f, lastSent := some (s.link link).outgoing }
        skippedNow := [] }
    let f := (s.link link).brokenFlags
    (parity ≠ parityBit true data →
      exec (.commandWord link data parity) s = .next (after { f with parity := true } .linkError)) ∧
    (parity = parityBit true data → Cmd.ofCode data = none →
      exec (.commandWord link data parity) s = .next (after { f with unknown := true } .badParam)) ∧
    (∀ c, parity = parityBit true data → Cmd.ofCode data = some c → c.ownedBy link = false →
      exec (.commandWord link data parity) s = .next (after { f with wrongLink := true } .notOwner))

/-- R188, R190, R191: a parameter word of an action command that still lacks words is kept and changes nothing
else; the last one hands the command to its block; a settings command's word is applied as a field; one with
failed parity drops the command, whose applied fields stay. A filler draws the next response word, its value
ignored; with failed parity it sets PARITY besides (log 10). R187: a word cut
off before its eighteenth bit changes nothing, and the part's next word is the one it was sending; where other events
come between, its notice bit is the model's choice (log 40). -/
def Obligations.ParameterAndFillerWords : Prop :=
  (∀ (link : MasterLink) (data : Word) (parity : Bool) (s : State),
     let l := s.link link
     let out : Link := { l with response := l.response.tail, lastSent := some l.outgoing }
     let given (x : Link) : State := { s with links := s.links.set link x }
     (∀ c ws, l.rx = .collecting c ws → c.isSetting = false → parity = parityBit false data →
       (c.complete (ws ++ [data]) = false → exec (.parameterWord link data parity) s =
         .next { given { out with rx := .collecting c (ws ++ [data]) } with skippedNow := [] }) ∧
       (c.complete (ws ++ [data]) = true → exec (.parameterWord link data parity) s = .next
         (let (r, t) := c.act link (ws ++ [data]) (given { out with rx := .idle })
          { t.modLink link (·.answer r) with skippedNow := [] }))) ∧
     (∀ c ws, l.rx = .collecting c ws → c.isSetting = true → parity = parityBit false data →
       c.headRefused (ws ++ [data]) = false → c.complete (ws ++ [data]) = false →
       exec (.parameterWord link data parity) s = .next
         { c.applyField (ws ++ [data]) (given { out with rx := .collecting c (ws ++ [data]) }) with
           skippedNow := [] }) ∧
     (∀ c ws, l.rx = .collecting c ws → parity ≠ parityBit false data →
       exec (.parameterWord link data parity) s = .next
         { given
             { out with
               rx := .discarding, response := [.status (some .linkError)]
               flags := { l.flags with parity := true } } with
           skippedNow := [] }) ∧
     ((∀ c ws, l.rx ≠ .collecting c ws) →
       exec (.fillerWord link data parity) s = .next
         { given
             { out with flags :=
                 if parity = parityBit false data then l.flags
                 else { l.flags with parity := true } } with
           skippedNow := [] })) ∧
  (∀ (link : MasterLink) (bits : Nat) (s : State), bits < 18 →
     ∃ t : State, exec (.partialWordDiscard link bits) s = .next t ∧
       t = { s with skippedNow := [] } ∧ (t.link link).outgoing = (s.link link).outgoing)
/-! ### Notices, flags and the status readout (R191, R192, R196) -/

/-- R192: TAKE NOTICES returns the set as one word and empties it, so the attention line is released; R191: CLEAR
LINK FLAGS clears the five flags of its link and has no result words. Nothing else changes.
Each kind has the bit of its place in R192's list for its link. Adding a kind to a set sets its bit and no other,
and the attention line is asserted exactly while some bit is set. -/
def Obligations.TakeNoticesAndClearLinkFlags : Prop :=
  (∀ (link : MasterLink) (s : State), s.initRunning = false →
     (∃ t : State, exec (.takeNotices link) s = .next t ∧
       t = { s with
         links := s.links.set link
           { (s.link link).taking 0 with
             response := [.status none, .data (s.link link).notices], notices := 0 }
         skippedNow := [] } ∧
       (t.link link).attention = false) ∧
     exec (.clearLinkFlags link) s = .next
       { s with
         links := s.links.set link
           { (s.link link).taking 0 with
             response := [.status none], flags := ⟨false, false, false, false, false⟩ }
         skippedNow := [] }) ∧
  [StationNotice.initDone, .captureDone, .undecided, .deliveryDone, .runEnded, .cradleHalted, .fault,
    .darkDrift, .rescanAdded, .volumeDrained, .openingChanged].map StationNotice.place = List.range 11 ∧
  [TurnerNotice.initDone, .turnWanted, .grantCancelled, .cradleHalted, .cradleOpen].map TurnerNotice.place =
    List.range 5 ∧
  ((∀ (set : Word) (place i : Nat), place < 16 → i < 16 →
     (addNotice set place).getLsbD i = (set.getLsbD i || i == place) ∧
     (removeNotice set place).getLsbD i = (set.getLsbD i && !(i == place))) ∧
   (∀ set place, place < 16 → addNotice (addNotice set place) place = addNotice set place) ∧
   (∀ l : Link, l.attention = true ↔ ∃ i < 16, l.notices.getLsbD i = true))

/-- R196: READ STATUS is answered on either link, during the pass too, with nine words laid out as its table
says, and changes nothing but its link. The ranges in the premise are what the words have room for, and no word of
the records read waits to be corrected (R178, log 6). -/
def Obligations.ReadStatusReportsTheState : Prop :=
  ∀ (link : MasterLink) (s : State), s.TableClean →
    s.turn.picked.getD 0 ≤ 2 → s.delivery.queue.length ≤ 8 → s.rescan.length ≤ 64 →
    s.openingNow ≤ 65535 →
    ∃ w1 w2 w3 w4 w5 w6 w7 w8 w9 : Word,
      exec (.readStatus link) s =
        .next (s.answered link 0 (.accepted [w1, w2, w3, w4, w5, w6, w7, w8, w9])) ∧
      (w1.toNat / 32768 % 2 = 1 ↔ s.initRunning = true) ∧
      (w1.toNat / 16384 % 2 = 1 ↔ s.active.isSome = true) ∧
      (w1.toNat / 8192 % 2 = 1 ↔ s.active = some .one) ∧
      w1.toNat / 1024 % 8 = s.cradle.state.place ∧ w1.toNat / 128 % 8 = s.cradle.haltCause.place ∧
      (w1.toNat / 64 % 2 = 1 ↔ s.cradle.raisePending = true) ∧
      (w1.toNat / 32 % 2 = 1 ↔ s.cradle.grantPending = true) ∧
      (w1.toNat / 16 % 2 = 1 ↔ s.cradle.upSwitch = true) ∧
      (w1.toNat / 8 % 2 = 1 ↔ s.cradle.downSwitch = true) ∧
      (w1.toNat / 4 % 2 = 1 ↔ s.cradle.pressure = true) ∧
      (w1.toNat / 2 % 2 = 1 ↔ s.cradle.stopLine = true) ∧ (w1.toNat % 2 = 1 ↔ s.cradle.pedal = true) ∧
      (w2.toNat / 32768 % 2 = 1 ↔ s.cradle.settleTimer.isSome = true) ∧
      w2.toNat / 4096 % 8 = s.turn.phase.place ∧
      w2.toNat / 1024 % 4 = (match s.turn.direction with
        | none => 0
        | some .forward => 1
        | some .back => 2) ∧
      w2.toNat / 256 % 4 = (match s.turn.picked with
        | none => 0
        | some n => n + 1) ∧
      (w2.toNat / 128 % 2 = 1 ↔ s.turn.swept = true) ∧
      (w2.toNat / 64 % 2 = 1 ↔ ∃ h, s.active = some h ∧ (s.vol h).uncertain = true) ∧
      w2.toNat / 8 % 8 = s.run.state.place ∧
      w2.toNat / 2 % 4 = (match s.run.wanted with
        | none => 0
        | some .forward => 1
        | some .back => 2) ∧
      (w2.toNat % 2 = 1 ↔ s.overlap = true) ∧
      w3.toNat = (match s.active with
        | none => 0
        | some h => (s.vol h).opening) ∧
      (w4.toNat / 32768 % 2 = 1 ↔ s.delivery.emptyDeliver = true) ∧
      (w4.toNat / 16384 % 2 = 1 ↔ s.full = true) ∧
      (w4.toNat / 8192 % 2 = 1 ↔ (s.head .left).phase = .capturing) ∧
      (w4.toNat / 4096 % 2 = 1 ↔ (s.head .right).phase = .capturing) ∧
      w4.toNat / 256 % 16 = s.delivery.queue.length ∧ w4.toNat % 128 = s.rescan.length ∧
      w5.toNat = (match s.active with
        | none => 0
        | some h => min (s.vol h).counters.rescanOverflow.toNat 65535) ∧
      (∀ i : Fin 5, w6.toNat / 8 ^ i.val % 8 = (s.slot ⟨i.val, by omega⟩).state.place) ∧
      (∀ i : Fin 3, w7.toNat / 8 ^ i.val % 8 = (s.slot ⟨5 + i.val, by omega⟩).state.place) ∧
      w7.toNat / 512 % 4 = (match s.run.kind with
        | none => 0
        | some k => k.place + 1) ∧
      w7.toNat / 2048 % 16 = (match s.run.lastEnd with
        | none => 0
        | some e => e.reason.place + 1) ∧
      w8 = s.requests ∧
      (w9.toNat % 2 = 1 ↔ (s.link link).brokenFlags.parity = true) ∧
      (w9.toNat / 2 % 2 = 1 ↔ (s.link link).brokenFlags.abandoned = true) ∧
      (w9.toNat / 4 % 2 = 1 ↔ (s.link link).brokenFlags.unknown = true) ∧
      (w9.toNat / 8 % 2 = 1 ↔ (s.link link).brokenFlags.wrongLink = true) ∧
      (w9.toNat / 16 % 2 = 1 ↔ (s.link link).brokenFlags.late = true) ∧
      (w9.toNat / 32768 % 2 = 1 ↔ (s.link link).notices ≠ 0)

/-! ### The volume account (chapter 1) -/

/-- R6, R7, R2, R14: what OPEN VOLUME tests, in order, a refusal changing nothing but its link; one that passes
opens the lower EMPTY handle with the next serial, its record and all its leaf records as R7 gives them, and the
other handle's untouched. No word of the records read waits to be corrected (log 6). -/
def Obligations.OpenVolume : Prop :=
  (∀ (s : State) (part leaves length : Word) (vc : BitVec 48) (sc : BitVec 32) (chars : List Word)
     (h : Handle),
     s.initRunning = false → s.Canonical → s.TableClean → s.active = none →
     s.cradle.parityGood = true → (s.cradle.state = .opened ∨ s.cradle.state = .halted) →
     (s.vol h).state = .empty → (h = .one → s.vols.zero.state ≠ .empty) →
     1 ≤ leaves.toNat → leaves.toNat ≤ 2046 → part.toNat ≤ 999 →
     1 ≤ length.toNat → length.toNat ≤ 40 → chars.length = length.toNat →
     (∀ c ∈ chars, 0x20 ≤ c.toNat ∧ c.toNat ≤ 0x7E) →
     let serial := if s.serial = 65535 then 1 else s.serial + 1
     s.serial ≤ 65535 →
     ∃ t : State, exec (.openVolume part leaves vc sc length chars) s = .next t ∧
       t.vol h =
         { state := .active, serial := serial, shelfMark := chars.map fun c => c.extractLsb' 0 8
           partSequence := part.toNat, leaves := leaves.toNat, opening := 0, uncertain := false
           discarded := false, dose := 0, volumeCeiling := vc.toNat
           sideCeiling := min sc.toNat vc.toNat, highestSideDose := 0
           counters := ⟨0, 0, 0, 0, 0, 0, 0, 0, 0, 0, 0, 0⟩, errors := ⟨0, 0⟩ } ∧
       (∀ n, n ≤ 2047 → t.leaf h n = LeafRecord.fresh
         (if n = 0 then .frontBoard else if n = leaves.toNat + 1 then .backBoard else .leaf)) ∧
       (∀ h' n, h' ≠ h → n ≤ 2047 → t.leaf h' n = s.leaf h' n) ∧
       t = { s.answered .station (8 + chars.length)
               (.accepted [BitVec.ofNat 16 h.place, BitVec.ofNat 16 serial]) with
             vols := s.vols.set h (t.vol h), leaves := t.leaves, serial := serial, rescan := []
             rescanErrors := ⟨0, 0⟩ }) ∧
  (∀ (s : State) (part leaves length : Word) (vc : BitVec 48) (sc : BitVec 32) (chars : List Word),
     s.initRunning = false → s.TableClean → s.cradle.parityGood = true →
     charsFit length chars = true →
     let refused (r : Reason) := exec (.openVolume part leaves vc sc length chars) s =
       .next (s.answered .station (8 + chars.length) (.refused r))
     let badParam := ¬(1 ≤ leaves.toNat ∧ leaves.toNat ≤ 2046) ∨ 999 < part.toNat ∨
       ¬(1 ≤ length.toNat ∧ length.toNat ≤ 40) ∨ ∃ c ∈ chars, c.toNat < 0x20 ∨ 0x7E < c.toNat
     (s.active ≠ none → refused .busy) ∧
     (s.active = none → s.vols.zero.state ≠ .empty → s.vols.one.state ≠ .empty →
       refused .tableFull) ∧
     (s.active = none → (s.vols.zero.state = .empty ∨ s.vols.one.state = .empty) →
       s.cradle.state ≠ .opened → s.cradle.state ≠ .halted → refused .cradleState) ∧
     (s.active = none → (s.vols.zero.state = .empty ∨ s.vols.one.state = .empty) →
       (s.cradle.state = .opened ∨ s.cradle.state = .halted) → badParam → refused .badParam))

/-- R8: CLOSE VOLUME's tests in order, and its effect: the list emptied, the volume DRAINING if it owns a slot and
CLOSED if it does not, and nothing else changed.
R11: FORGET VOLUME's refusals, and the record of a CLOSED volume becoming EMPTY, its part sequence 0 (log 33);
nothing else changes. No word of the records read waits to be corrected, and a record or a list written whole reads
clean (R178, log 6). -/
def Obligations.CloseAndForgetVolume : Prop :=
  (∀ (s : State), s.initRunning = false → s.TableClean →
     let refused (r : Reason) := exec .closeVolume s = .next (s.answered .station 0 (.refused r))
     let flying := ∃ p c, (s.head p).phase = .capturing ∧ (s.head p).capture = some c ∧ c.kind = .normal
     let owned (h : Handle) (st : SlotState) := ∃ i o, (s.slot i).state = st ∧
       (s.slot i).owner = some o ∧ o.handle = h
     (s.active = none → refused .noVolume) ∧
     ∀ h, s.active = some h →
       (s.run.state ≠ .idle → refused .runActive) ∧
       (s.run.state = .idle → flying → refused .exposureInFlight) ∧
       (s.run.state = .idle → ¬flying → owned h .provisional → refused .undecided) ∧
       (s.run.state = .idle → ¬flying → ¬owned h .provisional →
         ∀ after : VolumeState,
           (after = .draining ↔ ∃ st, st ≠ .free ∧ owned h st) → (after = .draining ∨ after = .closed) →
           exec .closeVolume s = .next
             { s.answered .station 0 (.accepted [BitVec.ofNat 16 after.place]) with
               vols := s.vols.set h { s.vol h with state := after }, rescan := []
               rescanErrors := ⟨0, 0⟩ })) ∧
  (∀ (s : State) (w : Word), s.initRunning = false → s.TableClean →
     let refused (r : Reason) := exec (.forgetVolume w) s = .next (s.answered .station 1 (.refused r))
     (2 ≤ w.toNat → refused .badParam) ∧
     ∀ h : Handle, w.toNat = h.place →
       ((s.vol h).state = .empty → refused .noVolume) ∧
       ((s.vol h).state = .active ∨ (s.vol h).state = .draining → refused .busy) ∧
       ((s.vol h).state = .closed → exec (.forgetVolume w) s = .next
         { s.answered .station 1 (.accepted []) with
           vols := s.vols.set h
             { state := .empty, serial := 0, shelfMark := [], partSequence := 0, leaves := 0
               opening := 0, uncertain := false, discarded := false, dose := 0, volumeCeiling := 0
               sideCeiling := 0, highestSideDose := 0
               counters := ⟨0, 0, 0, 0, 0, 0, 0, 0, 0, 0, 0, 0⟩, errors := ⟨0, 0⟩ } }))

/-- R15: the volume ceiling is never set below the dose, nor the side ceiling below the highest side dose; the
result words are the two as set. No word of the record waits to be corrected (log 6). -/
def Obligations.SetCeilingsClampsUpward : Prop :=
  ∀ (s : State) (vc : BitVec 48) (sc : BitVec 32), s.initRunning = false → s.TableClean →
    (s.active = none → exec (.setCeilings vc sc) s =
      .next (s.answered .station 5 (.refused .noVolume))) ∧
    ∀ h, s.active = some h →
      let v := max vc.toNat (s.vol h).dose
      let d := max (min sc.toNat v) (s.vol h).highestSideDose
      exec (.setCeilings vc sc) s = .next
        { s.answered .station 5 (.accepted
            [BitVec.ofNat 16 (v / 2 ^ 32), BitVec.ofNat 16 (v / 2 ^ 16), BitVec.ofNat 16 v,
             BitVec.ofNat 16 (d / 2 ^ 16), BitVec.ofNat 16 d]) with
          vols := s.vols.set h { s.vol h with volumeCeiling := v, sideCeiling := d } }

/-- R10, R44, R9: DISCARD VOLUME's tests in order. An accepted one leaves the volume no slot but one being delivered,
sets its discarded flag, makes it DRAINING or CLOSED by what it still owns, and empties the list of a volume that was
ACTIVE; the other slots keep their places. Where the records of the captures it frees are valid and read clean, the
counters are exact, the panels lose the pending and the settled parts of those captures and nothing more,
VOLUME_DRAINED comes with the last slot of a DRAINING volume, and everything else stays. No word of the volume records
waits to be corrected (log 6).
R160: while a run of the ACTIVE volume waits in SLOT_WAIT, the discard of a DRAINING volume has the same effect and
answer, and then, where it freed a slot, the run takes its cycle's next step (after the rest of the discard: log 41). -/
def Obligations.DiscardVolumeFreesItsSlots : Prop :=
  ∀ (s : State) (w : Word), s.initRunning = false → s.TableClean →
    let refused (r : Reason) := exec (.discardVolume w) s = .next (s.answered .station 1 (.refused r))
    (2 ≤ w.toNat → refused .badParam) ∧
    ∀ h : Handle, w.toNat = h.place →
      let v := s.vol h
      let gone (i : SlotNo) : Bool := (s.slot i).ownedBy h &&
        ((s.slot i).state == .provisional || (s.slot i).state == .kept)
      (v.state = .empty ∨ v.state = .closed → refused .noVolume) ∧
      (v.state = .active ∨ v.state = .draining → s.inFlight = true → refused .exposureInFlight) ∧
      (v.state = .active → s.inFlight = false → s.run.state ≠ .idle → refused .runActive) ∧
      (v.state = .active ∨ v.state = .draining → s.inFlight = false →
        (v.state = .active → s.run.state = .idle) → s.run.state ≠ .slotWait →
        ∃ t : State, exec (.discardVolume w) s = .next t ∧ SlotsFreed s t gone ∧
          (t.vol h).discarded = true ∧
          (t.vol h).state = (if t.ownsSlot h then .draining else .closed) ∧
          (∀ h', h' ≠ h → t.vol h' = s.vol h') ∧
          (t.links.station.response = [.status none, .data (BitVec.ofNat 16 (t.vol h).state.place)]) ∧
          t.rescan = (if v.state = .active then [] else s.rescan) ∧
          t = { s with
            links := { s.links with station := t.links.station }, vols := t.vols, leaves := t.leaves
            slots := t.slots, rescan := t.rescan, rescanErrors := t.rescanErrors, delivery := t.delivery
            faults := t.faults, skippedNow := [] } ∧
          (s.Canonical → s.ownersClean gone →
            let pending (i : SlotNo) : Bool := gone i && (s.slot i).state == .provisional
            let settled (i : SlotNo) : Bool := gone i && (s.slot i).state == .kept
            let drained := v.state = .draining ∧ allSlots.any gone = true ∧ t.ownsSlot h = false
            PartsRemoved s t pending settled ∧
            t.vol h = { v with
              discarded := true, state := (t.vol h).state
              counters := { v.counters with
                discarded := v.counters.discarded + BitVec.ofNat 32 (allSlots.countP gone)
                kept := v.counters.kept - BitVec.ofNat 32 (allSlots.countP settled) } } ∧
            t.links.station = { s.links.station.taking 1 with
              response := t.links.station.response
              notices := if drained then addNotice s.links.station.notices StationNotice.volumeDrained.place
                else s.links.station.notices } ∧
            t.faults = s.faults)) ∧
      (v.state = .draining → s.inFlight = false → s.run.state = .slotWait →
        ∃ u : State, exec (.discardVolume w) { s with run := { s.run with state := .idle } } = .next u ∧
          let t : State := { u with run := s.run }
          exec (.discardVolume w) s = .next
            (if s.freeCount < t.freeCount then { t.cycleStep with skippedNow := [] } else t))

/-- R78: SET OPENING's tests in order, and the pointer set with its flag cleared, OPENING_CHANGED only when the
pointer changes. No word of the record waits to be corrected (log 6). -/
def Obligations.SetOpeningMovesThePointer : Prop :=
  ∀ (s : State) (w : Word), s.initRunning = false → s.TableClean → s.cradle.parityGood = true →
    let refused (r : Reason) := exec (.setOpening w) s = .next (s.answered .station 1 (.refused r))
    (s.active = none → refused .noVolume) ∧
    ∀ h, s.active = some h →
      (s.run.state ≠ .idle → refused .runActive) ∧
      (s.run.state = .idle → s.cradle.state ≠ .opened → s.cradle.state ≠ .halted →
        refused .cradleState) ∧
      (s.run.state = .idle → (s.cradle.state = .opened ∨ s.cradle.state = .halted) →
        ((s.vol h).leaves < w.toNat → refused .badParam) ∧
        (w.toNat ≤ (s.vol h).leaves →
          let t : State :=
            { s.answered .station 1 (.accepted [w, 0]) with
              vols := s.vols.set h { s.vol h with opening := w.toNat, uncertain := false } }
          exec (.setOpening w) s = .next
            (if w.toNat = (s.vol h).opening then t else t.postStation .openingChanged)))

/-! ### Leaf records: reads, marks, rewrites (chapters 1, 4 and 11) -/

/-- R178, R179: a read of words of a leaf record. An invalid record is not read. An uncorrectable word among them
makes it invalid, counts it damaged and reports LEAF_DAMAGE, the single errors beside it left as they are and
uncounted (log 26); otherwise each single error among them is corrected and counted once.
R178: a read of a volume record, and one of the rescan list, correct and count the single errors among their words;
words that cannot be corrected stay and are used as they stand (log 6). A write of part of a volume record reads it
first. What a command reads as it is taken is read before its block answers: READ VOLUME reads its record and RESCAN
HEAD the list.
R20: the side summary state, by the first condition of its table that holds; the premise is R19's, no panel entry
above the declared count. -/
def Obligations.ReadingARecordAndItsSummary : Prop :=
  (∀ (s : State) (h : Handle) (n : Nat) (ws : List LeafWord), s.Canonical → s.TableClean →
     let r := s.leaf h n
     let bad := ∃ e ∈ r.errors, e.1 ∈ ws ∧ e.2 = .uncorrectable
     (r.valid = false → s.readLeaf h n ws = (false, s)) ∧
     (r.valid = true → bad → ∃ t : State, s.readLeaf h n ws = (false, t) ∧
       t.leaf h n = { r with valid := false } ∧
       t.vol h = { s.vol h with
         counters := { (s.vol h).counters with
           damagedLeaves := (s.vol h).counters.damagedLeaves + 1 } } ∧
       t.faults.record = some
         { cls := .leafDamage, volume := some (h, (s.vol h).serial), leaf := some n, head := none
           channel := none, column := none, slot := none } ∧
       t.faults.counts[FaultClass.leafDamage.place] =
         min (s.faults.counts[FaultClass.leafDamage.place] + 1) 65535 ∧
       t.links.station.notices = addNotice s.links.station.notices StationNotice.fault.place ∧
       t = { s with links := t.links, vols := s.vols.set h (t.vol h), leaves := t.leaves
                    faults := t.faults }) ∧
     (r.valid = true → ¬bad → ∃ t : State, s.readLeaf h n ws = (true, t) ∧
       t.leaf h n = { r with errors := r.errors.filter fun e => !ws.contains e.1 } ∧
       t.faults.record = s.faults.record ∧
       t.faults.counts[FaultClass.recoveredAccount.place] =
         (if r.errors.countP (fun e => ws.contains e.1) = 0
          then s.faults.counts[FaultClass.recoveredAccount.place]
          else min (s.faults.counts[FaultClass.recoveredAccount.place] +
           r.errors.countP fun e => ws.contains e.1) 65535) ∧
       t = { s with leaves := t.leaves, faults := t.faults })) ∧
  (∀ (s : State) (k : Nat),
     let counted (f : FaultReport) : Prop := f.record = s.faults.record ∧ f.skipped = s.faults.skipped ∧
       ∀ c : FaultClass, f.counts[c.place] =
         if c = .recoveredAccount then min (s.faults.counts[c.place] + k) 65535 else s.faults.counts[c.place]
     (∀ h : Handle, (s.vol h).errors.single = k →
       let v : Volume := { s.vol h with errors := ⟨0, (s.vol h).errors.uncorrectable⟩ }
       (k = 0 → s.readVolume h = s) ∧
       (0 < k → ∃ f, counted f ∧ s.readVolume h = { s with vols := s.vols.set h v, faults := f }) ∧
       (∀ g : Volume → Volume, ∃ f, (k = 0 → f = s.faults) ∧ (0 < k → counted f) ∧
         s.modVol h g = { s with vols := s.vols.set h (g v), faults := f }) ∧
       (∀ w : Word, w.toNat = h.place → s.initRunning = false → (s.vol h).state ≠ .empty → 0 < k →
         ∃ (t : State) (f : FaultReport), exec (.readVolume w) s = .next t ∧ counted f ∧
           t.links.station.response.head? = some (.status none) ∧
           t = { s with
             links := { s.links with station := t.links.station }, vols := s.vols.set h v, faults := f
             skippedNow := [] })) ∧
     (s.rescanErrors.single = k →
       let e : WordErrors := ⟨0, s.rescanErrors.uncorrectable⟩
       (k = 0 → s.readRescan = s) ∧
       (0 < k → ∃ f, counted f ∧ s.readRescan = { s with rescanErrors := e, faults := f }) ∧
       (∀ (h : Handle) (link : MasterLink), s.active = some h → (s.vol h).errors.single = 0 →
         s.initRunning = false → 0 < k →
         ∃ (t : State) (f : FaultReport), exec (.rescanHead link) s = .next t ∧ counted f ∧
           t = { s with
             links := s.links.set link (t.link link), rescanErrors := e, faults := f, skippedNow := [] }))) ∧
  (∀ f : FaceRecord, (∀ e ∈ f.panels, 1 ≤ e.number ∧ e.number ≤ f.declared) →
     (∀ e ∈ f.panels, ∀ e' ∈ f.panels, e.number = e'.number → e = e') → 1 ≤ f.declared →
     let settled (p : Nat) := ∃ e ∈ f.panels, e.number = p ∧ e.settled ≠ .none
     let delivered (p : Nat) := ∃ e ∈ f.panels, e.number = p ∧ ∃ c, e.settled = .delivered c
     let some_ := ∃ p, settled p
     let all := ∀ p, 1 ≤ p → p ≤ f.declared → settled p
     let allDelivered := ∀ p, 1 ≤ p → p ≤ f.declared → delivered p
     (f.skip = true → f.summary = .skipped) ∧
     (f.skip = false → ¬some_ → f.missed = false → f.summary = .unseen) ∧
     (f.skip = false → ¬some_ → f.missed = true → f.summary = .missed) ∧
     (f.skip = false → some_ → ¬all → f.summary = .partly) ∧
     (f.skip = false → all → ¬allDelivered → f.summary = .captured) ∧
     (f.skip = false → allDelivered → f.summary = .complete))

/-- R22, R197: READ LEAF's refusals in order, and the words of a record with no bit error, laid out as R197's
table says; nothing but the link changes.
R12, R13, R3, R4, R195: READ VOLUME returns the record's fields in order and READ SUMMARY the close summary,
over the sides of valid records. With no bit error in what they read, nothing but the link changes (an uncorrectable
word of a volume record is used as it stands: log 6). The bits of READ LEAF's face flags and statistics flags words that
R197 gives to no field are 0 by the model's choice (log 39). -/
def Obligations.AccountReadouts : Prop :=
  (∀ (s : State) (link : MasterLink) (w l : Word), s.initRunning = false → s.TableClean →
     let refused (r : Reason) := exec (.readLeaf link w l) s = .next (s.answered link 2 (.refused r))
     let stats (c : CaptureStats) : List Nat :=
       [(if c.blank then 1 else 0) + (if c.degraded then 2 else 0) + (if c.motion then 4 else 0) +
         (if c.overlong then 8 else 0) + if c.crop.isSome then 16 else 0] ++
       (match c.crop with
        | none => []
        | some b => [b.left, b.top, b.width, b.height]) ++
       [c.meanGray, c.clipCount / 65536, c.clipCount]
     let panel (e : PanelEntry) : List Nat :=
       [e.number, e.generation] ++
       (match e.settled with
        | .none => [0]
        | .kept _ => [1]
        | .delivered _ => [2]) ++
       (match e.pending with
        | none => [0, 0xFFFF]
        | some ⟨.exposing, i⟩ => [1, i.val]
        | some ⟨.provisional, i⟩ => [2, i.val]) ++
       (match e.settled with
        | .none => []
        | .kept c => stats c
        | .delivered c => stats c)
     let face (f : FaceRecord) : List Nat :=
       [f.declared, (if f.skip then 1 else 0) + (if f.missed then 2 else 0) +
         (if f.rescan then 4 else 0) + (if f.blank then 8 else 0) + f.summary.place * 256,
        f.dose / 65536, f.dose, f.panels.length] ++ f.panels.flatMap panel
     let words (r : LeafRecord) : List Nat :=
       match r.kind with
       | .frontBoard => [l.toNat, 0] ++ face r.verso
       | .leaf => [l.toNat, 1] ++ face r.recto ++ face r.verso
       | .backBoard => [l.toNat, 2] ++ face r.recto
     (2 ≤ w.toNat → refused .badParam) ∧
     ∀ h : Handle, w.toNat = h.place →
       ((s.vol h).state = .empty → refused .noVolume) ∧
       ((s.vol h).state ≠ .empty → (s.vol h).leaves + 1 < l.toNat → refused .badParam) ∧
       ((s.vol h).state ≠ .empty → l.toNat ≤ (s.vol h).leaves + 1 →
         ((s.leaf h l.toNat).valid = false → refused .recordDamaged) ∧
         ((s.leaf h l.toNat).valid = true → (s.leaf h l.toNat).errors = [] →
           exec (.readLeaf link w l) s = .next
             (s.answered link 2 (.accepted
               ((words (s.leaf h l.toNat)).map (BitVec.ofNat 16))))))) ∧
  (∀ (s : State) (w : Word), s.initRunning = false → s.TableClean →
     let refusedV (r : Reason) := exec (.readVolume w) s = .next (s.answered .station 1 (.refused r))
     let refusedS (r : Reason) := exec (.readSummary w) s = .next (s.answered .station 1 (.refused r))
     let hi32 (b : BitVec 32) : List Word := [b.extractLsb' 16 16, b.extractLsb' 0 16]
     let n48 (n : Nat) : List Nat := [n / 2 ^ 32, n / 2 ^ 16, n]
     let flag (b : Bool) : Nat := if b then 1 else 0
     (2 ≤ w.toNat → refusedV .badParam ∧ refusedS .badParam) ∧
     ∀ h : Handle, w.toNat = h.place →
       let v := s.vol h
       let c := v.counters
       (v.state = .empty → refusedV .noVolume ∧ refusedS .noVolume) ∧
       (v.state = .active → refusedS .busy) ∧
       (v.state ≠ .empty →
         exec (.readVolume w) s = .next (s.answered .station 1 (.accepted
           (([h.place, v.state.place, v.serial, v.shelfMark.length] ++ v.shelfMark.map BitVec.toNat ++
             [v.partSequence, v.leaves, v.opening, flag v.uncertain, flag v.discarded] ++ n48 v.dose ++
             n48 v.volumeCeiling ++ [v.sideCeiling / 2 ^ 16, v.sideCeiling] ++
             [v.highestSideDose / 2 ^ 16, v.highestSideDose]).map (BitVec.ofNat 16) ++
            [c.attempts, c.kept, c.discarded, c.superseded, c.delivered, c.missedSides, c.blankSides,
             c.damagedLeaves, c.misfires, c.doublePicks, c.turns, c.rescanOverflow].flatMap hi32)))) ∧
       (v.state = .draining ∨ v.state = .closed → (∀ n, n ≤ v.leaves + 1 →
         (s.leaf h n).valid = true → (s.leaf h n).errors = []) →
         let sides := (List.range (v.leaves + 2)).flatMap fun n =>
           if (s.leaf h n).valid then (s.leaf h n).kind.faces.map (s.leaf h n).face else []
         let among (p : FaceRecord → Bool) : Nat := sides.countP p
         exec (.readSummary w) s = .next (s.answered .station 1 (.accepted
           (([among (fun f => f.summary == .complete), among (fun f => f.summary == .skipped),
              among (fun f => !(f.summary == .complete) && !(f.summary == .skipped)),
              among (·.rescan), among (·.blank)].map (BitVec.ofNat 16)) ++ hi32 c.damagedLeaves ++
            ((n48 v.dose ++ [v.serial, flag v.discarded]).map (BitVec.ofNat 16)))))))

/-- R21: SET SIDE MARKS' refusals in order (on an invalid record RECORD_DAMAGED before the BAD_PARAM of a declared count
below an entry: log 29), and the two marks written, the rescan flag of the side cleared, with
its accounting (R81), when skip goes from clear to set or the count is lowered to leave every panel settled. The
skip word is 0 or 1 (R195). Premises: no bit error in what is read (log 6), and R19's entries. -/
def Obligations.SetSideMarksWritesTheMarks : Prop :=
  ∀ (s : State) (l f d k : Word), s.initRunning = false → s.Canonical → s.TableClean → (k = 0 ∨ k = 1) →
    let run := exec (.setSideMarks l f d k) s
    let refused (r : Reason) := run = .next (s.answered .station 4 (.refused r))
    (s.active = none → refused .noVolume) ∧
    (s.active ≠ none → 2 ≤ f.toNat → refused .badParam) ∧
    ∀ (h : Handle) (face : Face), s.active = some h → f.toNat = face.place →
      let side : Side := ⟨l.toNat, face⟩
      let old := s.face h side
      (sideExists (s.vol h).leaves side = false ∨ d.toNat < 1 ∨ 4 < d.toNat → refused .badParam) ∧
      (sideExists (s.vol h).leaves side = true → 1 ≤ d.toNat → d.toNat ≤ 4 →
        ((s.leaf h l.toNat).valid = false → refused .recordDamaged) ∧
        ((s.leaf h l.toNat).valid = true → (s.leaf h l.toNat).errors = [] →
          ((∃ e ∈ old.panels, d.toNat < e.number) → refused .badParam) ∧
          ((∀ e ∈ old.panels, e.number ≤ d.toNat) → (∃ e ∈ old.panels, e.pending ≠ none) →
            refused .busy) ∧
          ((∀ e ∈ old.panels, e.number ≤ d.toNat ∧ e.pending = none) →
            let marked := { old with declared := d.toNat, skip := decide (k = 1) }
            let clears := old.rescan = true ∧ ((k = 1 ∧ old.skip = false) ∨
              (d.toNat < old.declared ∧ marked.allSettled = true))
            ∃ t : State, run = .next t ∧
              t.face h side = (if clears then { marked with rescan := false } else marked) ∧
              (¬clears → t.rescan = s.rescan ∧ t.vols = s.vols) ∧
              (clears → side ∈ s.rescan →
                t.rescan = s.rescan.filter (· ≠ side) ∧ t.vols = s.vols) ∧
              (clears → side ∉ s.rescan → t.rescan = s.rescan ∧
                t.vols = s.vols.set h { s.vol h with
                  counters := { (s.vol h).counters with
                    rescanOverflow := (s.vol h).counters.rescanOverflow - 1 } }) ∧
              FaceAlone s t h side ∧
              t = { s.answered .station 4 (.accepted [BitVec.ofNat 16 marked.summary.place]) with
                    vols := t.vols, leaves := t.leaves, rescan := t.rescan })))

/-- R82, R80: MARK RESCAN's refusals in order (RECORD_DAMAGED on an invalid record: log 29); a clear flag is set and
the side joins the list, or the overflow of a full one, with RESCAN_ADDED; a set flag stays. R83: RESCAN HEAD
returns the list's length, the overflow count and the oldest entry with the opening that shows it (the optional
entry's coding is log 16's), and removes nothing. No bit error in what is read (log 6). -/
def Obligations.MarkRescanAndRescanHead : Prop :=
  ∀ (s : State), s.initRunning = false → s.Canonical → s.TableClean →
    (s.active = none → ∀ l f link,
      exec (.markRescan l f) s = .next (s.answered .station 2 (.refused .noVolume)) ∧
      exec (.rescanHead link) s = .next (s.answered link 0 (.refused .noVolume))) ∧
    ∀ h, s.active = some h →
      (∀ link, exec (.rescanHead link) s = .next (s.answered link 0 (.accepted
        ([BitVec.ofNat 16 s.rescan.length, (s.vol h).counters.rescanOverflow.extractLsb' 16 16,
          (s.vol h).counters.rescanOverflow.extractLsb' 0 16] ++
         (match s.rescan with
          | [] => [0]
          | ⟨n, .verso⟩ :: _ => [1, BitVec.ofNat 16 n, 1, BitVec.ofNat 16 n]
          | ⟨n, .recto⟩ :: _ => [1, BitVec.ofNat 16 n, 0, BitVec.ofNat 16 (n - 1)]))))) ∧
      (∀ l f : Word, 2 ≤ f.toNat →
        exec (.markRescan l f) s = .next (s.answered .station 2 (.refused .badParam))) ∧
      ∀ (l f : Word) (face : Face), f.toNat = face.place →
        let side : Side := ⟨l.toNat, face⟩
        let run := exec (.markRescan l f) s
        let refused (r : Reason) := run = .next (s.answered .station 2 (.refused r))
        let reply (t : State) : Reply := .accepted
          [BitVec.ofNat 16 t.rescan.length, (t.vol h).counters.rescanOverflow.extractLsb' 16 16,
           (t.vol h).counters.rescanOverflow.extractLsb' 0 16]
        (sideExists (s.vol h).leaves side = false → refused .badParam) ∧
        (sideExists (s.vol h).leaves side = true →
          ((s.leaf h l.toNat).valid = false → refused .recordDamaged) ∧
          ((s.leaf h l.toNat).valid = true → (s.leaf h l.toNat).errors = [] →
            ((s.face h side).skip = true → refused .badParam) ∧
            ((s.face h side).skip = false → (s.face h side).rescan = true →
              run = .next (s.answered .station 2 (reply s))) ∧
            ((s.face h side).skip = false → (s.face h side).rescan = false →
              ∃ t : State, run = .next t ∧
                t.face h side = { s.face h side with rescan := true } ∧
                (s.rescan.length < 64 → t.rescan = s.rescan ++ [side] ∧ t.vols = s.vols) ∧
                (64 ≤ s.rescan.length → t.rescan = s.rescan ∧
                  t.vols = s.vols.set h { s.vol h with
                    counters := { (s.vol h).counters with
                      rescanOverflow := (s.vol h).counters.rescanOverflow + 1 } }) ∧
                FaceAlone s t h side ∧
                t = State.postStation
                  { s.answered .station 2 (reply t) with
                    vols := t.vols, leaves := t.leaves, rescan := t.rescan } .rescanAdded)))

/-- R181: LEAF REWRITE's refusals, by its five tests in order (a side dose above its ceiling before any other record is
read: log 25). R182, R183: an accepted one, of a volume with no bit errors in its valid records, writes the record whole and valid, its panel list and panels rebuilt from the slot table, and
brings the volume's figures into agreement; the rescan list takes RECTO before VERSO (log 35). Nothing else changes.
No word of the volume record or of the list waits to be corrected (log 6). -/
def Obligations.LeafRewriteRebuildsTheRecord : Prop :=
  ∀ (s : State) (ws : List Word) (r : SuppliedLeaf), s.initRunning = false → s.Canonical → s.TableClean →
    parseRewrite ws = some (r, []) →
    let run := exec (.leafRewrite ws) s
    let refused (q : Reason) := run = .next (s.answered .station ws.length (.refused q))
    (2 ≤ r.handle → refused .badParam) ∧
    ∀ h : Handle, r.handle = h.place →
      let v := s.vol h
      let was := s.leaf h r.leaf
      let badGroup (g : SuppliedFace) := 4 < g.panelCount ∨ g.declared < 1 ∨ 4 < g.declared ∨
        ¬(g.panels.map (·.number)).Nodup ∨
        ∃ p ∈ g.panels, p.number < 1 ∨ 4 < p.number ∨ 255 < p.generation ∨ 2 < p.settled
      let bad := v.leaves + 1 < r.leaf ∨ kindOf r.kind ≠ some (kindAt v.leaves r.leaf) ∨
        ∃ g ∈ r.faces, badGroup g.2
      let low := ∃ g ∈ r.faces, (∃ p ∈ g.2.panels, g.2.declared < p.number) ∨
        ∃ p, 1 ≤ p ∧ p ≤ 4 ∧ g.2.declared < p ∧ ∃ i, (s.slot i).holds ⟨h, r.leaf, g.1, p⟩ = true
      let high := ∃ g ∈ r.faces, v.sideCeiling < g.2.dose
      let doses := ((List.range (v.leaves + 2)).flatMap fun n =>
          if n ≠ r.leaf ∧ (s.leaf h n).valid then
            (s.leaf h n).kind.faces.map fun f => ((s.leaf h n).face f).dose
          else []) ++ r.faces.map (·.2.dose)
      (v.state = .empty → refused .noVolume) ∧
      (v.state ≠ .empty → bad ∨ low ∨ high → refused .badParam) ∧
      (v.state ≠ .empty → ¬bad → ¬low → ¬high → v.leaves ≤ 2046 →
        (∀ n, n ≤ v.leaves + 1 → (s.leaf h n).valid = true → (s.leaf h n).errors = []) →
        (v.volumeCeiling < doses.sum → refused .badParam) ∧
        (doses.sum ≤ v.volumeCeiling →
          let flag (g : Face × SuppliedFace) : Bool := g.2.rescan && !g.2.skip
          let account (a : List Side × BitVec 32) (g : Face × SuppliedFace) : List Side × BitVec 32 :=
            let d : Side := ⟨r.leaf, g.1⟩
            if flag g && !was.keptRescan g.1 then
              if a.1.length < 64 then (a.1 ++ [d], a.2) else (a.1, a.2 + 1)
            else if was.keptRescan g.1 && !flag g then
              if d ∈ a.1 then (a.1.filter (· ≠ d), a.2) else (a.1, a.2 - 1)
            else a
          let figures := if v.state = .active then
            r.faces.foldl account (s.rescan, v.counters.rescanOverflow) else (s.rescan, v.counters.rescanOverflow)
          let joined := v.state = .active ∧ ∃ g ∈ r.faces, flag g = true ∧ was.keptRescan g.1 = false
          ∃ t : State, run = .next t ∧
            (t.leaf h r.leaf).valid = true ∧ (t.leaf h r.leaf).errors = [] ∧
            (t.leaf h r.leaf).kind = kindAt v.leaves r.leaf ∧
            (t.leaf h r.leaf).keptBlank = r.faces.countP (·.2.blank) ∧
            t.rescan = figures.1 ∧
            t.vols = s.vols.set h { v with
              dose := doses.sum, highestSideDose := doses.foldl max 0
              counters := { v.counters with
                damagedLeaves := if was.valid then v.counters.damagedLeaves else v.counters.damagedLeaves - 1
                blankSides := v.counters.blankSides + BitVec.ofNat 32 (r.faces.countP (·.2.blank)) -
                  BitVec.ofNat 32 was.keptBlank
                rescanOverflow := figures.2 } } ∧
            (∀ g ∈ r.faces,
              let f := t.face h ⟨r.leaf, g.1⟩
              f.declared = g.2.declared ∧ f.skip = g.2.skip ∧ f.missed = g.2.missed ∧
              f.rescan = flag g ∧ (t.leaf h r.leaf).keptRescan g.1 = flag g ∧ f.blank = g.2.blank ∧
              f.dose = g.2.dose ∧
              f.panels.map (·.number) = [1, 2, 3, 4].filter (fun p =>
                g.2.panels.any (fun q => q.number = p) ||
                  allSlots.any fun i => (s.slot i).holds ⟨h, r.leaf, g.1, p⟩) ∧
              ∀ e ∈ f.panels,
                let o : Owner := ⟨h, r.leaf, g.1, e.number⟩
                let pending (i : SlotNo) := (s.slot i).holds o = true ∧
                  ((s.slot i).state = .filling ∨ (s.slot i).state = .provisional)
                let standing (i : SlotNo) : Bool := (s.slot i).holds o &&
                  ((s.slot i).state == .kept || (s.slot i).state == .delivering)
                let generations :=
                  (g.2.panels.filter (·.number = e.number)).map (·.generation) ++
                  (allSlots.filter standing).map (fun i => (s.slot i).generation) ++
                  if was.valid then [((was.face g.1).panel e.number).generation] else []
                ((¬∃ i, pending i) → e.pending = none ∧ e.generation = generations.foldl max 0) ∧
                ((∃ i, pending i) → ∃ i, pending i ∧ e.generation = (s.slot i).generation - 1 ∧
                  e.pending = some ⟨if (s.slot i).state = .filling then .exposing else .provisional, i⟩) ∧
                ((∃ i, standing i = true ∧ (s.slot i).generation = e.generation) →
                  ∃ i, standing i = true ∧ (s.slot i).generation = e.generation ∧
                    e.settled = .kept (s.slot i).stats) ∧
                ((¬∃ i, standing i = true ∧ (s.slot i).generation = e.generation) →
                  (∀ q ∈ g.2.panels, q.number = e.number →
                    e.settled = if q.settled = 0 then .none else .delivered q.stats) ∧
                  ((¬∃ q ∈ g.2.panels, q.number = e.number) → e.settled = .none))) ∧
            (∀ h' n, (h' ≠ h ∨ n ≠ r.leaf) → n ≤ 2047 → t.leaf h' n = s.leaf h' n) ∧
            t = { s with
              links := s.links.set .station
                { s.links.station.taking ws.length with
                  response := [.status none, .data (BitVec.ofNat 16 r.leaf),
                    .data ((t.vol h).counters.damagedLeaves.extractLsb' 16 16),
                    .data ((t.vol h).counters.damagedLeaves.extractLsb' 0 16)]
                  notices := if joined then
                      addNotice s.links.station.notices StationNotice.rescanAdded.place
                    else s.links.station.notices }
              vols := t.vols, leaves := t.leaves, rescan := t.rescan, skippedNow := [] }))

/-! ### The cradle interlock (chapter 3) -/

/-- R47, R49, R86, R185: what entering a cradle state writes: the drives of its row, fresh parity, the travel timer
in LOWERING and RAISING, the grant timer in TURN_GRANTED, no settle timer, and every bank DARK outside READY;
nothing else. -/
def Obligations.EnteringACradleState : Prop :=
  ∀ (s : State) (st : CradleState),
    let t := s.enter st
    t.cradle.state = st ∧ t.cradle.parityGood = true ∧
    (t.cradle.downDrive = true ↔ st = .lowering ∨ st = .settling ∨ st = .ready) ∧
    (t.cradle.upDrive = true ↔ st = .opened ∨ st = .turnGranted ∨ st = .raising) ∧
    (t.cradle.permitted = true ↔ st = .ready) ∧
    t.cradle.travelTimer = (if st = .lowering ∨ st = .raising then some s.timers.travel else none) ∧
    t.cradle.settleTimer = none ∧
    t.cradle.grantTimer = (if st = .turnGranted then some s.timers.grant else none) ∧
    (st ≠ .ready → t.light.dark) ∧ (st = .ready → t.light = s.light) ∧
    t = { s with
      cradle := { s.cradle with
        state := st, parityGood := true, travelTimer := t.cradle.travelTimer, settleTimer := none
        grantTimer := t.cradle.grantTimer }
      light := { s.light with strobes := t.light.strobes } }

/-- R58, R114, R115, R164, R74, R75, R76: every effect of an entry to HALTED from another state: the drives, the
timers, the pending flags, the captures aborted with CAPTURE_DONE, the run ended with reason HALTED, a held grant
cancelled, CRADLE_HALTED to both masters and the fault of the cause; every other block stays.
R35, R5, R186: where the volume records read clean (log 6) and the leaf records of the aborted captures are valid and
read clean, their slots are freed, their pending parts removed and they are counted discarded, exactly; a capture in
flight is never a DRAINING volume's (R8, R10). That the fault record ends with the halt's own fault, also where the
panel update of an abort reports LEAF_DAMAGE in the same event, is the model's choice of an order (log 35). -/
def Obligations.HaltEffects : Prop :=
  (∀ (s : State) (cause : HaltCause),
    let t := s.halt cause
    t.cradle = { s.cradle with
      state := .halted, parityGood := true, haltCause := cause, raisePending := false
      grantPending := false, travelTimer := none, settleTimer := none, grantTimer := none } ∧
    t.cradle.downDrive = false ∧ t.cradle.upDrive = false ∧ t.light.dark ∧ t.inFlight = false ∧
    (∀ p, (s.head p).phase = .capturing → t.head p =
      { s.head p with
        phase := .idle, port := .between, frameTimer := none
        capture := (s.head p).capture.map fun c =>
          { c with outcome := .aborted (if cause = .partialReset then .partialReset else .halt) }
        lineBuffer := [], darkSums := ⟨0, 0, 0⟩, activeSums := ⟨0, 0, 0⟩, flatSums := []
        work := WorkRecord.cleared }) ∧
    (∀ p, (s.head p).phase = .idle → t.head p = s.head p) ∧
    (s.inFlight = true →
      t.links.station.notices.getLsbD StationNotice.captureDone.place = true) ∧
    (s.run.state ≠ .idle → t.run = { s.run with
        state := .idle, wanted := none, stopRequested := false, slots := ⟨none, none⟩
        lastEnd := some ⟨.halted, .none, s.openingNow⟩ } ∧
      t.links.turner.notices.getLsbD TurnerNotice.turnWanted.place = false ∧
      t.links.station.notices.getLsbD StationNotice.runEnded.place = true) ∧
    (s.run.state = .idle → t.run = s.run) ∧
    t.turn = { s.turn with phase :=
      match s.turn.phase with
      | .granted | .pending => if cause = .turner then .faulted else .cancelled
      | p => p } ∧
    (s.turn.phase = .granted →
      t.links.turner.notices.getLsbD TurnerNotice.grantCancelled.place = true) ∧
    (∀ h, t.active = some h →
      ((t.vol h).uncertain = true ↔ (s.vol h).uncertain = true ∨
        (s.turn.phase = .granted ∧ (s.turn.picked.isSome = true ∨
          (s.turn.swept = true ∧ cause ≠ .turner))))) ∧
    t.active = s.active ∧ (∀ h, (t.vol h).opening = (s.vol h).opening) ∧
    t.links.station.notices.getLsbD StationNotice.cradleHalted.place = true ∧
    t.links.turner.notices.getLsbD TurnerNotice.cradleHalted.place = true ∧
    (∀ c, cause.fault = some c → t.faults.record = some (FaultRecord.plain c) ∧
      t.links.station.notices.getLsbD StationNotice.fault.place = true) ∧
    t = { s with
      links := ⟨{ s.links.station with notices := t.links.station.notices },
        { s.links.turner with notices := t.links.turner.notices }⟩
      vols := t.vols, leaves := t.leaves, slots := t.slots, cradle := t.cradle, turn := t.turn
      light := { s.light with strobes := ⟨none, none, none, none⟩ }, heads := t.heads, run := t.run
      delivery := { s.delivery with queue := t.delivery.queue }, faults := t.faults
      skippedNow := t.skippedNow }) ∧
  (∀ (s : State) (cause : HaltCause), s.Canonical → s.TableClean →
    let gone (i : SlotNo) : Bool := [Head.left, .right].any fun p =>
      (s.head p).phase == .capturing && (s.head p).capture.bind (·.slot) == some i
    s.ownersClean gone →
    (∀ i o, gone i = true → (s.slot i).owner = some o → (s.vol o.handle).state ≠ .draining) →
    let t := s.halt cause
    let doubt := s.turn.phase = .granted ∧
      (s.turn.picked.isSome = true ∨ (s.turn.swept = true ∧ cause ≠ .turner))
    let station := s.links.station.notices
    let station := if s.run.state = .idle then station else addNotice station StationNotice.runEnded.place
    let station := if s.inFlight then addNotice station StationNotice.captureDone.place else station
    let station := addNotice station StationNotice.cradleHalted.place
    let turner := s.links.turner.notices
    let turner := if s.run.state = .idle then turner else removeNotice turner TurnerNotice.turnWanted.place
    let turner := if s.turn.phase = .granted then addNotice turner TurnerNotice.grantCancelled.place else turner
    SlotsFreed s t gone ∧ PartsRemoved s t gone (fun _ => false) ∧
    (∀ h, t.vol h = { s.vol h with
      uncertain := (s.vol h).uncertain || decide (s.active = some h ∧ doubt)
      counters := { (s.vol h).counters with
        discarded := (s.vol h).counters.discarded + BitVec.ofNat 32 (s.ownedAmong h gone) } }) ∧
    t.faults = (match cause.fault with
      | none => s.faults
      | some c => { s.faults.raise c 1 with record := some (FaultRecord.plain c) }) ∧
    t.links.station.notices =
      (if cause.fault.isSome then addNotice station StationNotice.fault.place else station) ∧
    t.links.turner.notices = addNotice turner TurnerNotice.cradleHalted.place ∧
    t.skippedNow = s.skippedNow)

/-- R50, R53, R60: LOWER, RAISE and RESUME with a good parity: their refusals in order, and the state each brings
about where the switches agree with it (R57), with the result words. A RAISE that begins with the up switch still
asserted is RAISING until the switch becomes asserted again (log 15). -/
def Obligations.LowerRaiseResume : Prop :=
  ∀ s : State, s.initRunning = false → s.cradle.parityGood = true →
    let st := s.cradle.state
    let c := s.cradle
    let refused (i : Instr) (r : Reason) := exec i s = .next (s.answered .station 0 (.refused r))
    let after (ws : List Word) : State := s.answered .station 0 (.accepted ws)
    (s.run.state ≠ .idle → refused .lower .runActive ∧ refused .raise .runActive) ∧
    (s.run.state = .idle → st = .halted → refused .lower .halted ∧ refused .raise .halted) ∧
    (s.run.state = .idle → st = .turnGranted ∨ st = .raising → refused .lower .cradleState) ∧
    (s.run.state = .idle → st = .opened → c.downSwitch = false →
      exec .lower s = .next ((after [2]).enter .lowering)) ∧
    (s.run.state = .idle → st = .lowering ∨ st = .settling →
      exec .lower s = .next (after [BitVec.ofNat 16 st.place])) ∧
    (s.run.state = .idle → st = .ready →
      exec .lower s = .next { after [4] with cradle := { c with raisePending := false } }) ∧
    (s.run.state = .idle → (st = .ready ∧ s.inFlight = false) ∨ st = .settling ∨ st = .lowering →
      ¬(c.upSwitch = true ∧ c.downSwitch = true) →
      exec .raise s = .next ((after [5, if c.raisePending then 1 else 0]).enter .raising)) ∧
    (s.run.state = .idle → st = .ready → s.inFlight = true →
      exec .raise s = .next { after [4, 1] with cradle := { c with raisePending := true } }) ∧
    (s.run.state = .idle → st = .opened ∨ st = .turnGranted ∨ st = .raising →
      exec .raise s = .next (after [BitVec.ofNat 16 st.place, if c.raisePending then 1 else 0])) ∧
    (st ≠ .halted → refused .resume .cradleState) ∧
    (st = .halted → c.stopLine = true ∨ (c.upSwitch = true ∧ c.downSwitch = true) →
      refused .resume .halted) ∧
    (st = .halted → c.stopLine = false → c.upSwitch = false →
      exec .resume s = .next ((after [5]).enter .raising)) ∧
    (st = .halted → c.stopLine = false → c.upSwitch = true → c.downSwitch = false →
      c.grantPending = false → s.run.state ≠ .preparing →
      exec .resume s = .next (((after [0]).enter .opened).postTurner .cradleOpen))

/-- R49: SET TIMERS writes five fields, each clamped to the nearer limit of its range, and changes nothing else: a
timer that runs keeps its duration. -/
def Obligations.SetTimersClampsEachField : Prop :=
  ∀ (s : State) (a b c d e : Word), s.initRunning = false →
    exec (.setTimers a b c d e) s = .next
      { s.answered .station 5 (.accepted []) with
        timers :=
          { travel := max 100 (min a.toNat 5000), settle := min b.toNat 2000
            grant := max 500 (min c.toNat 20000)
            frame := ⟨max 10 (min d.toNat 5000), max 10 (min e.toNat 5000)⟩ } }

/-- R51, R55, R57: a platen switch that becomes asserted completes LOWERING or RAISING, or halts the cradle when
it disagrees with the state; one that clears is checked. A level that repeats is no event (log 8).
The positions that each state requires stand last. -/
def Obligations.PlatenSwitches : Prop :=
  (∀ s : State, s.cradle.parityGood = true →
     let c := s.cradle
     let fin (t : State) : State := { t with skippedNow := [] }
     let down : State := { s with cradle := { c with downSwitch := true } }
     let up : State := { s with cradle := { c with upSwitch := true } }
     let opened := (up.enter .opened).postTurner .cradleOpen
     (c.downSwitch = true → exec .downSwitchAsserted s = .next (fin s)) ∧
     (c.downSwitch = false → c.state = .lowering → c.upSwitch = false → c.pressure = false →
       exec .downSwitchAsserted s = .next (fin (down.enter .settling))) ∧
     (c.downSwitch = false → c.state = .lowering → c.upSwitch = false → c.pressure = true →
       s.timers.settle ≠ 0 →
       exec .downSwitchAsserted s = .next (fin
         { down.enter .settling with
           cradle := { (down.enter .settling).cradle with settleTimer := some s.timers.settle } })) ∧
     (c.downSwitch = false → c.state = .lowering → c.upSwitch = false → c.pressure = true →
       s.timers.settle = 0 → s.run.state ≠ .preparing →
       exec .downSwitchAsserted s = .next (fin ((down.enter .settling).enter .ready))) ∧
     (c.downSwitch = false → c.state = .lowering → c.upSwitch = true →
       exec .downSwitchAsserted s = .next (fin ((down.enter .settling).halt .interlockCheck))) ∧
     (c.downSwitch = false → c.state ≠ .lowering →
       exec .downSwitchAsserted s = .next
         (fin (if switchesAgree c.state c.upSwitch true then down else down.halt .interlockCheck))) ∧
     (c.upSwitch = true → exec .upSwitchAsserted s = .next (fin s)) ∧
     (c.upSwitch = false → c.state = .raising → c.downSwitch = false → c.grantPending = false →
       s.run.state ≠ .preparing → exec .upSwitchAsserted s = .next (fin opened)) ∧
     (c.upSwitch = false → c.state = .raising → c.downSwitch = false → c.grantPending = true →
       exec .upSwitchAsserted s = .next (fin (State.enter
         { opened with
           cradle := { opened.cradle with grantPending := false }
           turn := { s.turn with phase := .granted } } .turnGranted))) ∧
     (c.upSwitch = false → c.state = .raising → c.downSwitch = true →
       exec .upSwitchAsserted s = .next (fin ((up.enter .opened).halt .interlockCheck))) ∧
     (c.upSwitch = false → c.state ≠ .raising →
       exec .upSwitchAsserted s = .next
         (fin (if switchesAgree c.state true c.downSwitch then up else up.halt .interlockCheck))) ∧
     (c.downSwitch = true → exec (.switchCleared .down) s = .next (fin
       (let t : State := { s with cradle := { c with downSwitch := false } }
        if switchesAgree c.state c.upSwitch false then t else t.halt .interlockCheck))) ∧
     (c.upSwitch = true → exec (.switchCleared .up) s = .next (fin
       (let t : State := { s with cradle := { c with upSwitch := false } }
        if switchesAgree c.state false c.downSwitch then t else t.halt .interlockCheck))) ∧
     (c.downSwitch = false → exec (.switchCleared .down) s = .next (fin s)) ∧
     (c.upSwitch = false → exec (.switchCleared .up) s = .next (fin s))) ∧
  (∀ up down : Bool,
     (switchesAgree .opened up down = true ↔ up = true ∧ down = false) ∧
     (switchesAgree .turnGranted up down = true ↔ up = true ∧ down = false) ∧
     (switchesAgree .lowering up down = true ↔ down = false) ∧
     (switchesAgree .settling up down = true ↔ up = false ∧ down = true) ∧
     (switchesAgree .ready up down = true ↔ up = false ∧ down = true) ∧
     (switchesAgree .raising up down = true ↔ ¬(up = true ∧ down = true)) ∧
     switchesAgree .halted up down = true)

/-- R51, R52, R146: what pressure and the settle timer do. In READY with an exposure in flight a loss of pressure
marks the motion flag of the heads that are measuring and moves nothing. A level that repeats, and the expiry of a
timer that is stopped, is no event (log 8, log 7). -/
def Obligations.PressureAndSettling : Prop :=
  ∀ s : State, s.cradle.parityGood = true →
    let c := s.cradle
    let fin (t : State) : State := { t with skippedNow := [] }
    let lost : State := { s with cradle := { c with pressure := false } }
    let back : State := { s with cradle := { c with pressure := true } }
    let motion (u : HeadUnit) : HeadUnit :=
      if u.work.measuring then { u with work := { u.work with motion := true } } else u
    (c.pressure = true → c.state = .settling →
      exec .pressureLost s = .next (fin { lost with cradle := { lost.cradle with settleTimer := none } })) ∧
    (c.pressure = true → c.state = .ready → s.inFlight = false → c.upSwitch = false →
      c.downSwitch = true → exec .pressureLost s = .next (fin (lost.enter .settling))) ∧
    (c.pressure = true → c.state = .ready → s.inFlight = true →
      exec .pressureLost s = .next (fin
        { lost with heads := ⟨motion s.heads.left, motion s.heads.right⟩ })) ∧
    (c.pressure = true → c.state ≠ .settling → c.state ≠ .ready →
      exec .pressureLost s = .next (fin lost)) ∧
    (c.pressure = false → exec .pressureLost s = .next (fin s)) ∧
    (c.pressure = false → c.state = .settling → c.settleTimer = none → s.timers.settle ≠ 0 →
      exec .pressureReturned s = .next (fin
        { back with cradle := { back.cradle with settleTimer := some s.timers.settle } })) ∧
    (c.pressure = false → c.state = .settling → c.settleTimer = none → s.timers.settle = 0 →
      c.upSwitch = false → c.downSwitch = true → s.run.state ≠ .preparing →
      exec .pressureReturned s = .next (fin (back.enter .ready))) ∧
    (c.pressure = false → ¬(c.state = .settling ∧ c.settleTimer = none) →
      exec .pressureReturned s = .next (fin back)) ∧
    (c.pressure = true → exec .pressureReturned s = .next (fin s)) ∧
    (c.settleTimer.isSome = true → c.upSwitch = false → c.downSwitch = true →
      s.run.state ≠ .preparing → exec .settleTimerExpiry s = .next (fin (s.enter .ready))) ∧
    (c.settleTimer = none → exec .settleTimerExpiry s = .next (fin s))

/-- R57, R59, R74, R75: the events that halt the cradle, from a state with good parity: the stop line, the travel
and grant timers, TURNER FAULT; and what the stop line and TURNER FAULT do to a cradle already HALTED. A timer
that is stopped does not expire (log 7), and a stop line that is already asserted makes no event (log 8). -/
def Obligations.HaltingEvents : Prop :=
  ∀ s : State, s.cradle.parityGood = true → s.skippedNow = [] →
    let c := s.cradle
    let fin (t : State) : State := { t with skippedNow := [] }
    let stop : State := { s with cradle := { c with stopLine := true } }
    (c.stopLine = true → exec .stopLineAsserted s = .next (fin s)) ∧
    (c.stopLine = false → c.state ≠ .halted →
      exec .stopLineAsserted s = .next (fin (stop.halt .stop))) ∧
    (c.stopLine = false → c.state = .halted →
      exec .stopLineAsserted s = .next (fin (State.report
        { stop with cradle := { stop.cradle with haltCause := .stop } } (FaultRecord.plain .stop)))) ∧
    (c.travelTimer.isSome = true → exec .travelTimerExpiry s = .next (fin (s.halt .travelTimeout))) ∧
    (c.travelTimer = none → exec .travelTimerExpiry s = .next (fin s)) ∧
    (c.grantTimer.isSome = true → exec .grantTimerExpiry s = .next (fin (s.halt .turnTimeout))) ∧
    (c.grantTimer = none → exec .grantTimerExpiry s = .next (fin s)) ∧
    (s.initRunning = false → c.state ≠ .halted →
      exec .turnerFault s = .next (fin ((s.answered .turner 0 (.accepted [])).halt .turner))) ∧
    (s.initRunning = false → c.state = .halted →
      exec .turnerFault s = .next (fin (State.report
        { s.answered .turner 0 (.accepted []) with cradle := { c with haltCause := .turner } }
        (FaultRecord.plain .turner))))

/-- R59, R156: the releases of the stop line and of the pedal change their level and nothing else; the pedal's
assertion is taken as RUN 0 while the run controller is IDLE and no pass runs, and a refusal writes the pedal
refusal alone. A pedal that is already asserted makes no event (log 8). No word of the volume record waits to be
corrected (log 6); a start that finds the cradle's parity failed is FailedParityHaltsTheCradle's. -/
def Obligations.StopLineAndPedal : Prop :=
  ∀ s : State,
    let c := s.cradle
    let fin (t : State) : State := { t with skippedNow := [] }
    let down : State := { s with cradle := { c with pedal := true } }
    exec .stopLineReleased s = .next (fin { s with cradle := { c with stopLine := false } }) ∧
    exec .pedalReleased s = .next (fin { s with cradle := { c with pedal := false } }) ∧
    (c.pedal = true → exec .pedalAsserted s = .next (fin s)) ∧
    (c.pedal = false → s.initRunning = true ∨ s.run.state ≠ .idle →
      exec .pedalAsserted s = .next (fin down)) ∧
    (c.pedal = false → s.initRunning = false → s.run.state = .idle → s.active = none →
      exec .pedalAsserted s = .next (fin
        { down with run := { s.run with pedalRefusal := some .noVolume } })) ∧
    (∀ h, c.pedal = false → s.initRunning = false → s.TableClean → s.run.state = .idle → s.active = some h →
      c.parityGood = true →
      let refused (r : Reason) : Prop := exec .pedalAsserted s = .next (fin
        { down with run := { s.run with pedalRefusal := some r } })
      let busy := c.state = .turnGranted ∨ (c.state = .raising ∧ c.grantPending = true)
      (c.state = .halted → refused .halted) ∧
      (busy → refused .cradleState) ∧
      (c.state ≠ .halted → ¬busy → s.inFlight = true → refused .exposureInFlight) ∧
      (c.state ≠ .halted → ¬busy → s.inFlight = false → (s.vol h).uncertain = true →
        refused .openingUncertain) ∧
      (c.state ≠ .halted → ¬busy → s.inFlight = false → (s.vol h).uncertain = false →
        exec .pedalAsserted s = .next (fin
          (let t := { down with run := s.run.startRun 0 }.cycleStep
           { t with run := { t.run with pedalRefusal := none } }))))

/-- R185: a command or an event that reads the cradle state and finds its parity failed halts the cradle with
INTERLOCK_CHECK. A command is refused HALTED, an input keeps the level its event gave it, and nothing more is done: an
EXPOSE was counted as asked for (R33), the pedal leaves the pedal refusal alone, and what the event that ends an
exposure or prompts a run's capture did before stands (log 23). No word of the volume records or of the rescan list
waits to be corrected (log 6). -/
def Obligations.FailedParityHaltsTheCradle : Prop :=
  (∀ s : State, s.cradle.parityGood = false → s.skippedNow = [] → s.TableClean →
    let fin (t : State) : State := { t with skippedNow := [] }
    let trips (i : Instr) (link : MasterLink) (n : Nat) : Prop :=
      exec i s = .next (fin ((s.answered link n (.refused .halted)).halt .interlockCheck))
    let halts (i : Instr) (c : Cradle) : Prop :=
      exec i s = .next (fin (State.halt { s with cradle := c } .interlockCheck))
    (s.initRunning = false →
      trips .resume .station 0 ∧ trips .turnerFault .turner 0 ∧
      (∀ d : Word, d.toNat ≤ 1 → trips (.turnRequest d) .turner 1) ∧
      (s.turn.phase = .granted → trips .clear .turner 0 ∧ trips .aborted .turner 0) ∧
      (s.run.state = .idle → trips .lower .station 0 ∧ trips .raise .station 0) ∧
      (s.run.state = .idle → s.active.isSome = true →
        (∀ w : Word, trips (.run w) .station 1 ∧ trips (.seek w) .station 1 ∧
          trips (.setOpening w) .station 1) ∧
        (∀ a b c : Word, exec (.expose a b c) s = .next (fin (State.halt
          { s.answered .station 3 (.refused .halted) with requests := s.requests + 1 } .interlockCheck)))) ∧
      (s.active = none → s.vols.zero.state = .empty ∨ s.vols.one.state = .empty →
        ∀ part leaves length vc sc chars, charsFit length chars = true →
          trips (.openVolume part leaves vc sc length chars) .station (8 + chars.length)) ∧
      (s.active = none → s.run.state = .idle → ∀ set target : Word, 1 ≤ set.toNat → set.toNat ≤ 3 →
        trips (.darkCapture set) .station 1 ∧ trips (.flatCapture set target) .station 2) ∧
      (s.cradle.pedal = false → s.run.state = .idle → s.active.isSome = true →
        halts .pedalAsserted { s.cradle with pedal := true })) ∧
    (s.cradle.travelTimer.isSome = true → halts .travelTimerExpiry s.cradle) ∧
    (s.cradle.settleTimer.isSome = true → halts .settleTimerExpiry s.cradle) ∧
    (s.cradle.grantTimer.isSome = true → halts .grantTimerExpiry s.cradle) ∧
    (s.cradle.pressure = true → halts .pressureLost { s.cradle with pressure := false }) ∧
    (s.cradle.pressure = false → halts .pressureReturned { s.cradle with pressure := true }) ∧
    (s.cradle.upSwitch = false → halts .upSwitchAsserted { s.cradle with upSwitch := true }) ∧
    (s.cradle.downSwitch = false → halts .downSwitchAsserted { s.cradle with downSwitch := true }) ∧
    (s.cradle.upSwitch = true → halts (.switchCleared .up) { s.cradle with upSwitch := false }) ∧
    (s.cradle.downSwitch = true → halts (.switchCleared .down) { s.cradle with downSwitch := false }) ∧
    (s.cradle.stopLine = false → halts .stopLineAsserted { s.cradle with stopLine := true }) ∧
    (∀ h : Head, (s.head h).phase = .capturing → (s.head h).frameTimer.isSome = true →
      (∀ p, p ≠ h → (s.head p).phase = .idle) → s.run.state ≠ .slotWait →
      exec (.frameTimerExpiry h) s = .next (fin
        (((s.abortCapture h .timeout).postStation .captureDone).halt .interlockCheck)))) ∧
  (∀ s : State, s.cradle.parityGood = false →
    s.exposureEnd = (s.postStation .captureDone).halt .interlockCheck ∧
    ∀ rs, s.run.stopRequested = false → s.captureChosen rs = s.halt .interlockCheck)

/-! ### Turns (chapter 4) -/

/-- R64, R65, R56: TURN REQUEST's tests in order, with a good parity, and what an accepted request does in each
cradle state whose switches agree with it. A refusal changes nothing but the link. No word of the volume record waits
to be corrected (log 6). -/
def Obligations.TurnRequestIsTestedAndTaken : Prop :=
  ∀ (s : State) (w : Word), s.initRunning = false → s.TableClean → s.cradle.parityGood = true →
    let run := exec (.turnRequest w) s
    let refused (r : Reason) := run = .next (s.answered .turner 1 (.refused r))
    let st := s.cradle.state
    (2 ≤ w.toNat → refused .badParam) ∧
    ∀ d : Direction, w.toNat = d.place →
      let held := ∃ h, s.active = some h ∧ ∃ i o, (s.slot i).state = .provisional ∧
        (s.slot i).owner = some o ∧ o.handle = h ∧
        (o.side = ⟨(s.vol h).opening, .verso⟩ ∨ o.side = ⟨(s.vol h).opening + 1, .recto⟩)
      let atEnd := ∃ h, s.active = some h ∧
        ((d = .forward ∧ (s.vol h).leaves ≤ (s.vol h).opening) ∨ (d = .back ∧ (s.vol h).opening = 0))
      let free := s.run.state = .idle ∨ s.run.wanted = some d
      let pass := st ≠ .halted ∧ free ∧ s.inFlight = false ∧ ¬held ∧ ¬atEnd
      let after (ws : List Word) (phase : TurnPhase) (pending : Bool) : State :=
        { s.answered .turner 1 (.accepted ws) with
          turn := ⟨phase, some d, none, false⟩
          cradle := { s.cradle with grantPending := pending } }
      (st = .halted → refused .halted) ∧
      (st ≠ .halted → ¬free → refused .runActive) ∧
      (st ≠ .halted → free → s.inFlight = true → refused .exposureInFlight) ∧
      (st ≠ .halted → free → s.inFlight = false → held → refused .undecided) ∧
      (st ≠ .halted → free → s.inFlight = false → ¬held → atEnd → refused .endOfVolume) ∧
      (pass → st = .lowering ∨ st = .turnGranted → refused .cradleState) ∧
      (pass → st = .opened → s.cradle.upSwitch = true → s.cradle.downSwitch = false →
        run = .next ((after [1] .granted false).enter .turnGranted)) ∧
      (pass → st = .settling ∨ st = .ready → ¬(s.cradle.upSwitch = true ∧ s.cradle.downSwitch = true) →
        run = .next ((after [5] .pending true).enter .raising)) ∧
      (pass → st = .raising → run = .next (after [5] .pending true))

/-- R66, R67, R68: PICKED and SWEPT write the turn record in phase GRANTED and have no result words; PICKED,
SWEPT, CLEAR and ABORTED in another phase are answered LATE, which sets the turner link's LATE flag and changes
nothing else; a count above 2 is refused first.
R73: an accepted ABORTED opens the cradle, leaves the pointer, and counts a misfire in the ACTIVE volume. No word of
the volume record waits to be corrected (log 6). -/
def Obligations.ReportsDuringAGrant : Prop :=
  (∀ (s : State) (w : Word), s.initRunning = false → s.TableClean →
     let late (n : Nat) : State :=
       { s with
         links := ⟨s.links.station,
           { (s.links.turner.taking n).answer (.refused .late) with
             flags := { s.links.turner.brokenFlags with late := true } }⟩
         skippedNow := [] }
     (2 < w.toNat → exec (.picked w) s = .next (s.answered .turner 1 (.refused .badParam))) ∧
     (w.toNat ≤ 2 → s.turn.phase = .granted → exec (.picked w) s = .next
       { s.answered .turner 1 (.accepted []) with turn := { s.turn with picked := some w.toNat } }) ∧
     (s.turn.phase = .granted → exec .swept s = .next
       { s.answered .turner 0 (.accepted []) with turn := { s.turn with swept := true } }) ∧
     (s.turn.phase ≠ .granted →
       (w.toNat ≤ 2 → exec (.picked w) s = .next (late 1)) ∧ exec .swept s = .next (late 0) ∧
       exec .clear s = .next (late 0) ∧ exec .aborted s = .next (late 0))) ∧
  (∀ s : State, s.initRunning = false → s.TableClean → s.cradle.parityGood = true → s.turn.phase = .granted →
     s.cradle.upSwitch = true → s.cradle.downSwitch = false →
     (s.run.state = .idle ∨ s.run.wanted = none) →
     let ended : State := State.enter
       { s.answered .turner 0 (.accepted []) with turn := { s.turn with phase := .aborted } } .opened
     (s.active = none → exec .aborted s = .next ended) ∧
     ∀ h, s.active = some h → exec .aborted s = .next
       { ended with
         vols := s.vols.set h { s.vol h with
           counters := { (s.vol h).counters with misfires := (s.vol h).counters.misfires + 1 } } })

/-- R69, R70, R71: an accepted CLEAR opens the cradle, moves the pointer of the ACTIVE volume by the picked count,
clamped with the uncertain flag set, counts the turn, and tells the station when the pointer changes; this for turns
that mark no sides and that no run has asked for.
R161, R162: a turn that the run asked for, ended by CLEAR or ABORTED, is recorded in the same way; then the wanted
direction is cleared and the run ends UNCERTAIN after a clamped move, its cycles and turns taken not raised (the order
of R162's cases is log 31's reading), or counts the turn and ends or goes on, by its kind. The leaves a double pick hides have clean records there. No word of the volume records waits to be corrected
(log 6). -/
def Obligations.ClearRecordsTheTurn : Prop :=
  (∀ (s : State) (d : Direction) (n : Nat), s.initRunning = false → s.TableClean →
    s.cradle.parityGood = true →
    s.turn.phase = .granted → s.turn.direction = some d → s.turn.picked.getD 0 = n → n ≤ 2 →
    s.cradle.upSwitch = true → s.cradle.downSwitch = false →
    (s.run.state = .idle ∨ s.run.wanted = none) → ¬(d = .forward ∧ n = 2) →
    let ended (ws : List Word) : State := State.enter
      { s.answered .turner 0 (.accepted ws) with turn := { s.turn with phase := .cleared } } .opened
    (s.active = none → exec .clear s = .next (ended [0, 0])) ∧
    ∀ h, s.active = some h →
      let v := s.vol h
      let clamped : Bool := match d with
        | .forward => decide (v.leaves < v.opening + n)
        | .back => decide (v.opening < n)
      let k := match d with
        | .forward => min v.leaves (v.opening + n)
        | .back => v.opening - n
      v.opening ≤ v.leaves →
      let u := v.uncertain || clamped
      let t : State :=
        { ended [BitVec.ofNat 16 k, if u then 1 else 0] with
          vols := s.vols.set h { v with
            opening := k, uncertain := u
            counters := { v.counters with
              turns := v.counters.turns + 1
              misfires := v.counters.misfires + if n = 0 then 1 else 0
              doublePicks := v.counters.doublePicks + if n = 2 then 1 else 0 } } }
      exec .clear s = .next (if k = v.opening then t else t.postStation .openingChanged)) ∧
  (∀ (s : State) (d : Direction) (h : Handle) (i : Instr) (u : State), s.initRunning = false → s.Canonical →
    s.TableClean → s.skippedNow = [] → s.cradle.parityGood = true → s.turn.phase = .granted →
    s.turn.direction = some d → s.cradle.upSwitch = true → s.cradle.downSwitch = false →
    s.run.state ≠ .idle → s.run.wanted.isSome = true → s.active = some h →
    (d = .forward → s.turn.picked = some 2 →
      s.cleanLeaf h ((s.vol h).opening + 1) ∧ s.cleanLeaf h ((s.vol h).opening + 2)) →
    i = .clear ∨ i = .aborted →
    let n := s.turn.picked.getD 0
    let clamped := i = .clear ∧ (match d with
      | .forward => (s.vol h).leaves < (s.vol h).opening + n
      | .back => (s.vol h).opening < n)
    let fin (t : State) : State := { t with skippedNow := [] }
    exec i { s with run := { s.run with wanted := none } } = .next u →
    (clamped → exec i s = .next (fin (u.endRun .uncertain .none))) ∧
    (¬clamped → s.run.kind = some .run →
      let t : State := { u with run := { u.run with
        cycles := s.run.cycles + 1, remaining := s.run.remaining - 1 } }
      exec i s = .next (fin (
        if s.run.stopRequested then t.endRun .stopped .none
        else if s.run.remaining ≤ 1 then t.endRun .countDone .none
        else t.cycleStep))) ∧
    (∀ target, ¬clamped → s.run.kind = some .seek → s.run.target = some target →
      s.run.turnsTaken < s.run.budget →
      let t : State := { u with run := { u.run with turnsTaken := s.run.turnsTaken + 1 } }
      let k := (u.vol h).opening
      exec i s = .next (fin (
        if k = target then t.endRun .arrived .none
        else if s.run.stopRequested then t.endRun .stopped .none
        else if s.run.turnsTaken + 1 = s.run.budget then t.endRun .noProgress .none
        else { t with
          run := { t.run with wanted := some (if k < target then .forward else .back) }
          links := { t.links with turner := { t.links.turner with
            notices := addNotice t.links.turner.notices TurnerNotice.turnWanted.place } } }))))

/-- R71, R72, R80: missed marking of one side with no bit error in its record; and a FORWARD turn of two leaves, which
marks the verso and then the recto that it hid, after the pointer has moved. No word of the volume record or of the
rescan list waits to be corrected (log 6). -/
def Obligations.MissedMarking : Prop :=
  (∀ (s : State) (h : Handle) (d : Side), s.Canonical → s.TableClean → s.active = some h →
     ((s.leaf h d.leaf).valid = true → (s.leaf h d.leaf).errors = []) →
     let f := s.face h d
     let settled := ∃ e ∈ f.panels, e.settled ≠ .none
     let t := s.markMissed h d
     ((s.leaf h d.leaf).valid = false → t = s.skipUpdate h d.leaf) ∧
     ((s.leaf h d.leaf).valid = true → f.skip = true ∨ settled → t = s) ∧
     ((s.leaf h d.leaf).valid = true → f.skip = false → ¬settled →
       t.face h d = { f with missed := true, rescan := true } ∧
       (s.Canonical → FaceAlone s t h d) ∧
       t.vols = s.vols.set h { s.vol h with
         counters := { (s.vol h).counters with
           missedSides := (s.vol h).counters.missedSides + 1
           rescanOverflow := (t.vol h).counters.rescanOverflow } } ∧
       (f.rescan = true → t.rescan = s.rescan ∧ t.links = s.links ∧
         (t.vol h).counters.rescanOverflow = (s.vol h).counters.rescanOverflow) ∧
       (f.rescan = false →
         t.links = { s.links with station := { s.links.station with
           notices := addNotice s.links.station.notices StationNotice.rescanAdded.place } } ∧
         (s.rescan.length < 64 → t.rescan = s.rescan ++ [d] ∧
           (t.vol h).counters.rescanOverflow = (s.vol h).counters.rescanOverflow) ∧
         (64 ≤ s.rescan.length → t.rescan = s.rescan ∧
           (t.vol h).counters.rescanOverflow = (s.vol h).counters.rescanOverflow + 1)) ∧
       t = { s with links := t.links, vols := t.vols, leaves := t.leaves, rescan := t.rescan })) ∧
  (∀ (s : State) (h : Handle), s.initRunning = false → s.TableClean → s.cradle.parityGood = true →
     s.turn.phase = .granted → s.turn.direction = some .forward → s.turn.picked = some 2 →
     s.cradle.upSwitch = true → s.cradle.downSwitch = false →
     (s.run.state = .idle ∨ s.run.wanted = none) → s.active = some h →
     (s.vol h).opening < (s.vol h).leaves → s.skippedNow = [] →
     let v := s.vol h
     let k := min v.leaves (v.opening + 2)
     let u := v.uncertain || decide (v.leaves < v.opening + 2)
     let moved : State := (State.enter
       { s.answered .turner 0 (.accepted [BitVec.ofNat 16 k, if u then 1 else 0]) with
         vols := s.vols.set h { v with
           opening := k, uncertain := u
           counters := { v.counters with
             turns := v.counters.turns + 1, doublePicks := v.counters.doublePicks + 1 } }
         turn := { s.turn with phase := .cleared } } .opened).postStation .openingChanged
     exec .clear s = .next
       { (moved.markMissed h ⟨v.opening + 1, .verso⟩).markMissed h ⟨v.opening + 2, .recto⟩ with
         skippedNow := [] })
/-! ### Slots, readouts and the clearing commands (chapters 2, 5 to 10, 11) -/

/-- R38, R39, R36, R37, R81: what ACCEPT and REJECT test, in order, and what each does to a held slot whose owner's
record holds no bit error: the keep with its rescan accounting and, auto-delivery on, its queueing or the start of its
delivery; the reject's counter and pending part and, for the last slot of a DRAINING volume, its close with VOLUME_DRAINED (R9);
nothing else changes. R180: a REJECT under an invalid record frees the slot all the same.
R159, R160: a run that waits for the decision, or for a slot, goes on with its cycle after the same effect, the whole of it first
(log 41), from a state in which no event is in progress, which every event leaves (EveryCommandCompletes). No word of
the volume records waits to be corrected (log 6). In the header of a delivery that an ACCEPT starts, the bit that R199
gives to no field is 0 by the model's choice (log 39). -/
def Obligations.HeldCapturesAreDecided : Prop :=
  ∀ (s : State) (n : Word), s.initRunning = false → s.Canonical → s.TableClean →
    let refused (i : Instr) (r : Reason) := exec i s = .next (s.answered .station 1 (.refused r))
    (8 ≤ n.toNat → refused (.accept n) .badParam ∧ refused (.reject n) .badParam) ∧
    ∀ i : SlotNo, n.toNat = i.val →
      ((s.slot i).state ≠ .provisional → refused (.accept n) .badParam ∧ refused (.reject n) .badParam) ∧
      ∀ o : Owner, (s.slot i).state = .provisional → (s.slot i).owner = some o → o.leaf ≤ 2047 →
        let x := s.slot i
        let e := (s.face o.handle o.side).panel o.panel
        let c := (s.vol o.handle).counters
        let drained := (s.vol o.handle).state = .draining ∧ ∀ j, j ≠ i → (s.slot j).ownedBy o.handle = false
        let done_ := s.answered .station 1 (.accepted [n])
        let freed : State := if drained then done_.postStation .volumeDrained else done_
        ((s.leaf o.handle o.leaf).valid = false → refused (.accept n) .recordDamaged ∧
          (s.run.state ≠ .deciding → s.run.state ≠ .slotWait → s.skippedNow = [] →
            exec (.reject n) s = .next
              { freed with
                vols := s.vols.set o.handle { s.vol o.handle with
                  state := if drained then .closed else (s.vol o.handle).state
                  counters := { c with discarded := c.discarded + 1 } }
                slots := s.slots.set i.val Slot.cleared i.isLt
                delivery := { s.delivery with queue := s.delivery.queue.filter fun j => !(j == i) }
                faults := { s.faults with skipped := min (s.faults.skipped + 1) 65535 } })) ∧
        (s.cleanLeaf o.handle o.leaf →
          (s.run.state ≠ .deciding → s.run.state ≠ .slotWait →
            ((s.delivery.current = none → s.delivery.queue = []) →
              ∃ t : State, exec (.accept n) s = .next t ∧ KeepMade s t i x o ∧
                t = { s.answered .station 1 (.accepted [n, BitVec.ofNat 16 (e.generation + 1)]) with
                  vols := t.vols, leaves := t.leaves, rescan := t.rescan, slots := t.slots
                  light := t.light, delivery := t.delivery }) ∧
            (∃ t : State, exec (.reject n) s = .next t ∧ SlotsFreed s t (fun j => j == i) ∧
              PartsRemoved s t (fun j => j == i) (fun _ => false) ∧ FaceAlone s t o.handle o.side ∧
              (t.face o.handle o.side).panel o.panel =
                { number := o.panel, generation := e.generation, settled := e.settled, pending := none } ∧
              t = { freed with
                vols := s.vols.set o.handle { s.vol o.handle with
                  state := if drained then .closed else (s.vol o.handle).state
                  counters := { c with discarded := c.discarded + 1 } }
                leaves := t.leaves, slots := t.slots, delivery := t.delivery })) ∧
          (∀ cmd ∈ [Instr.accept n, .reject n], ∀ h : Handle, s.active = some h → s.skippedNow = [] →
            ∃ u : State, exec cmd { s with run := { s.run with state := .idle } } = .next u ∧
              let t : State := { u with run := s.run }
              (s.run.state = .deciding → exec cmd s = .next
                (if t.heldAt h (t.vol h).opening then t else { t.cycleStep with skippedNow := [] })) ∧
              (s.run.state = .slotWait → exec cmd s = .next
                (if s.freeCount < t.freeCount then { t.cycleStep with skippedNow := [] } else t))))

/-- R45, R102, R120, R136, R151, R165, R177, R186, R198: each readout returns the fields its rule lists, in
order, as the state stands (their coding is R195's, with log 16's choices), a bad operand is refused BAD_PARAM,
and nothing but the link changes. READ FAULTS is laid out as R198 says; that its word 1 is 0 with no record present is
the model's choice (log 39), and so is that READ LIGHTING tells DARK or LIT without the remaining time of a LIT bank
(log 7). -/
def Obligations.ReadoutsChangeOnlyTheirLink : Prop :=
  ∀ (s : State) (w : Word), s.initRunning = false →
    let answers (i : Instr) (n : Nat) (ws : List Word) :=
      exec i s = .next (s.answered .station n (.accepted ws))
    let bad (i : Instr) := exec i s = .next (s.answered .station 1 (.refused .badParam))
    (8 ≤ w.toNat → bad (.readSlot w)) ∧
    (∀ i : SlotNo, w.toNat = i.val →
      let x := s.slot i
      answers (.readSlot w) 1
        (num16 x.state.place ++ optWords Owner.words x.owner ++ optEnum headPlace x.head ++
         num16 x.generation ++ num16 x.w ++ num16 x.h ++ num16 x.lines ++ flagWord x.queued ++
         optWords Box.words x.stats.crop ++ num16 x.stats.meanGray ++ num32 x.stats.clipCount ++
         flagWord x.stats.blank ++ flagWord x.stats.degraded ++ flagWord x.stats.motion ++
         flagWord x.stats.overlong)) ∧
    (2 ≤ w.toNat → bad (.readCapture w) ∧ bad (.readCalibration w) ∧ bad (.readMeasurement w)) ∧
    (∀ h : Head, w.toNat = headPlace h →
      let u := s.head h
      let c := u.correction
      answers (.readCapture w) 1
        (num16 u.phase.place ++ num16 u.port.place ++ optWords CaptureRecord.words u.capture ++
         num16 c.w ++ num16 c.h ++ flagWord u.flags.lineLength ++ flagWord u.flags.shortFrame ++
         flagWord u.flags.timeout ++ num16 u.stray) ∧
      answers (.readCalibration w) 1
        (num16 c.darkMode.place ++
         [c.fixed.r, u.running.r, c.fixed.g, u.running.g, c.fixed.b, u.running.b, c.offset, c.winLo,
          c.winHi, u.driftCount].flatMap num16 ++
         optWords (channelWords DarkFigure.words) u.lastDarkUpdate ++
         optWords (channelWords num16) u.lastDarkCapture ++
         optWords FlatRecord.words u.lastFlatCapture) ∧
      answers (.readMeasurement w) 1
        (u.measurement.words ++ s.keep.words ++ u.work.words ++
         optWords MeasurementRecord.words u.lastMeasurement)) ∧
    answers .readRun 0
      (let r := s.run
       num16 r.state.place ++ optEnum RunKind.place r.kind ++ num16 r.remaining ++ num16 r.cycles ++
       optWords num16 r.target ++ num16 r.budget ++ num16 r.turnsTaken ++
       optEnum Direction.place r.wanted ++ flagWord r.stopRequested ++
       optWords (fun i : SlotNo => num16 i.val) r.slots.left ++
       optWords (fun i : SlotNo => num16 i.val) r.slots.right ++ optWords RunEnd.words r.lastEnd ++
       refusalWord r.pedalRefusal) ∧
    answers .readDelivery 0
      (let d := s.delivery
       num16 d.phasePlace ++ optWords Delivery.words d.current ++
       listWords (fun i : SlotNo => num16 i.val) d.queue ++ num16 d.settings.format.place ++
       flagWord d.settings.auto ++ flagWord d.emptyDeliver ++ optWords TrailerRecord.words d.lastTrailer) ∧
    answers .readLighting 0
      (let l := s.light
       l.settings.words ++
       [(l.settings.latch .left).upperDuration, (l.settings.latch .left).lowerDuration,
        (l.settings.latch .right).upperDuration, (l.settings.latch .right).lowerDuration].flatMap num16 ++
       num32 (l.settings.latch .left).planned ++ num32 (l.settings.latch .right).planned ++
       [l.strobes.lu, l.strobes.ll, l.strobes.ru, l.strobes.rl].flatMap (fun b => flagWord b.isSome) ++
       num16 l.holds.left ++ num16 l.holds.right ++ optWords FiringRecord.words l.lastFiring ++
       optWords DoseRefusal.words l.lastRefusal ++ optWords UpdateRecord.words l.lastUpdate) ∧
    (∃ w1 : Word, ∃ rest : List Word,
      answers .readFaults 0 (w1 :: rest) ∧ rest.length = 21 ∧
      (s.faults.record = none → w1 = 0 ∧ rest.take 7 = [0, 0, 0, 0, 0, 0, 0]) ∧
      (∀ r, s.faults.record = some r →
        w1.toNat / 32768 = 1 ∧ w1.toNat % 16 = r.cls.place.val ∧
        (w1.toNat / 256 % 2 = 1 ↔ r.volume.isSome = true) ∧
        (w1.toNat / 512 % 2 = 1 ↔ r.leaf.isSome = true) ∧
        (w1.toNat / 1024 % 2 = 1 ↔ r.head.isSome = true) ∧
        (w1.toNat / 2048 % 2 = 1 ↔ r.channel.isSome = true) ∧
        (w1.toNat / 4096 % 2 = 1 ↔ r.column.isSome = true) ∧
        (w1.toNat / 8192 % 2 = 1 ↔ r.slot.isSome = true) ∧
        rest.take 7 = [(r.volume.map (·.1.place)).getD 0, (r.volume.map (·.2)).getD 0, r.leaf.getD 0,
          (r.head.map headPlace).getD 0, (r.channel.map Channel.place).getD 0, r.column.getD 0,
          (r.slot.map (·.val)).getD 0].map (BitVec.ofNat 16)) ∧
      (rest.drop 7).take 13 = s.faults.counts.toList.map (BitVec.ofNat 16) ∧
      rest.drop 20 = [BitVec.ofNat 16 s.faults.skipped])

/-- R33, R100, R121, R136, R169: CLEAR COUNTERS clears the request counter, FULL, OVERLAP, EMPTY_DELIVER, both
hold counts and each head's stray, drift and error flags, and nothing else. R186: CLEAR FAULTS empties the fault
report alone, with result word 0. -/
def Obligations.CountersAndFaultsAreCleared : Prop :=
  ∀ s : State, s.initRunning = false →
    let clean (u : HeadUnit) : HeadUnit :=
      { u with stray := 0, driftCount := 0, flags := ⟨false, false, false⟩ }
    exec .clearCounters s = .next
      { s.answered .station 0 (.accepted []) with
        requests := 0, full := false, overlap := false
        heads := ⟨clean s.heads.left, clean s.heads.right⟩
        light := { s.light with holds := ⟨0, 0⟩ }
        delivery := { s.delivery with emptyDeliver := false } } ∧
    ∃ t : State, exec .clearFaults s = .next t ∧
      t.faults.record = none ∧ (∀ c : FaultClass, t.faults.counts[c.place] = 0) ∧ t.faults.skipped = 0 ∧
      t = { s.answered .station 0 (.accepted [0]) with faults := t.faults }

/-- R194, R62, R46, R176: PARTIAL RESET halts the cradle with its cause, ends a run and a turn, discards every
held slot, and cancels a delivery in its header or pixels; its result word is HALTED. The other KEPT slots keep
their places, the queue keeps its order, and the settings, the other blocks' counters and the turner link's receive
state stay. That a cradle HALTED already takes the new cause alone, and one whose parity has failed enters HALTED
with it, is log 22's. Where the records of the discarded captures are valid and read clean (log 6) and no such capture
is a DRAINING volume's (R8, R10), the discarded counters, the pending parts, the notices, the run's end with reason
HALTED and the trailer record are exact, and nothing else changes. Bits 15 to 2 of trailer word 1, which R199 gives to
no field, are 0 by the model's choice (log 39). -/
def Obligations.PartialResetHaltsAndDiscards : Prop :=
  (∀ s : State, s.initRunning = false → s.Interlocked → s.skippedNow = [] →
    let unnamed (i : SlotNo) :=
      (∀ p c, (s.head p).phase = .capturing → (s.head p).capture = some c → c.slot ≠ some i) ∧
      ∀ d, s.delivery.current = some d → d.slot ≠ i
    let captured (i : SlotNo) : Bool := [Head.left, .right].any fun p =>
      (s.head p).phase == .capturing && (s.head p).capture.bind (·.slot) == some i
    let gone (i : SlotNo) : Bool := captured i || (s.slot i).state == .provisional
    ∃ t : State, exec .partialReset s = .next t ∧
      t.cradle.state = .halted ∧ t.cradle.haltCause = .partialReset ∧ t.light.dark ∧ t.inFlight = false ∧
      (s.cradle.state ≠ .halted → t.run.state = .idle) ∧
      t.turn.phase ≠ .granted ∧ t.turn.phase ≠ .pending ∧
      t.links.station.response = [.status none, .data 6] ∧
      (∀ i, (s.slot i).state = .provisional → unnamed i → t.slot i = Slot.cleared) ∧
      (∀ i, (s.slot i).state = .kept → unnamed i → t.slot i = s.slot i ∧
        (i ∈ s.delivery.queue → i ∈ t.delivery.queue)) ∧
      t.delivery.queue = s.delivery.queue.filter (fun i => !gone i) ∧
      (∀ d, s.delivery.current = some d →
        (d.phase = .pixels ∨ (d.phase = .header ∧ d.cancelled = false)) →
        (t.slot d.slot).state = .kept ∧ (t.slot d.slot).queued = false ∧
        ∃ r, t.delivery.lastTrailer = some r ∧ r.status = .cancelled ∧ r.slot = d.slot) ∧
      t.links.turner.rx = s.links.turner.rx ∧ t.links.turner.response = s.links.turner.response ∧
      (∀ p, (t.head p).correction = (s.head p).correction ∧
        (t.head p).measurement = (s.head p).measurement ∧ (t.head p).running = (s.head p).running ∧
        (t.head p).stray = (s.head p).stray ∧ (t.head p).flags = (s.head p).flags) ∧
      t = { s with
        links := t.links, vols := t.vols, leaves := t.leaves, slots := t.slots, cradle := t.cradle
        turn := t.turn, light := { s.light with strobes := t.light.strobes }, heads := t.heads
        run := t.run, delivery := t.delivery, faults := t.faults, skippedNow := [] } ∧
      (s.cradle.state = .halted → s.cradle.parityGood = true → s.delivery.current = none →
        (∀ i, (s.slot i).state ≠ .provisional) →
        t = { s.answered .station 0 (.accepted [6]) with
              cradle := { s.cradle with haltCause := .partialReset } })) ∧
  (∀ s : State, s.initRunning = false → s.Interlocked → s.skippedNow = [] → s.Canonical → s.TableClean →
    let captured (i : SlotNo) : Bool := [Head.left, .right].any fun p =>
      (s.head p).phase == .capturing && (s.head p).capture.bind (·.slot) == some i
    let gone (i : SlotNo) : Bool := captured i || (s.slot i).state == .provisional
    s.ownersClean gone →
    (∀ i o, gone i = true → (s.slot i).owner = some o → (s.vol o.handle).state ≠ .draining) →
    (∀ d, s.delivery.current = some d → gone d.slot = false) →
    let enters := ¬(s.cradle.state = .halted ∧ s.cradle.parityGood = true)
    let ends := enters ∧ s.run.state ≠ .idle
    let doubt := s.turn.phase = .granted ∧ (s.turn.picked.isSome = true ∨ s.turn.swept = true)
    let cancels (d : Delivery) : Bool := d.phase == .pixels || (d.phase == .header && !d.cancelled)
    let crc (d : Delivery) := d.crc ^^^ 0xFFFFFFFF
    let trailer (d : Delivery) : List PortWord :=
      [BitVec.ofNat 32 (1 + d.linesSent * 2 ^ 16), BitVec.ofNat 32 d.wordsSent, crc d]
    let cancelled (d : Delivery) : Delivery :=
      if d.phase = .pixels then
        { d with phase := .trailer, cancelled := true, toTake := trailer d, trailer := trailer d }
      else { d with cancelled := true, trailer := trailer d }
    let station := s.links.station.notices
    let station := if ends then addNotice station StationNotice.runEnded.place else station
    let station := if s.inFlight then addNotice station StationNotice.captureDone.place else station
    let station := if enters then addNotice station StationNotice.cradleHalted.place else station
    let turner := s.links.turner.notices
    let turner := if ends then removeNotice turner TurnerNotice.turnWanted.place else turner
    let turner := if s.turn.phase = .granted then addNotice turner TurnerNotice.grantCancelled.place else turner
    let turner := if enters then addNotice turner TurnerNotice.cradleHalted.place else turner
    let aborted (u : HeadUnit) : HeadUnit :=
      if u.phase = .capturing then
        { u with
          phase := .idle, port := .between, frameTimer := none
          capture := u.capture.map fun c => { c with outcome := .aborted .partialReset }
          lineBuffer := [], darkSums := ⟨0, 0, 0⟩, activeSums := ⟨0, 0, 0⟩, flatSums := []
          work := WorkRecord.cleared }
      else u
    let t₀ := s.answered .station 0 (.accepted [6])
    ∃ t : State, exec .partialReset s = .next t ∧
      (∀ i, t.slot i = if gone i then Slot.cleared
        else if ∃ d, s.delivery.current = some d ∧ cancels d = true ∧ d.slot = i then
          { s.slot i with state := .kept, queued := false }
        else s.slot i) ∧
      PartsRemoved s t gone (fun _ => false) ∧
      (∀ h, t.vol h = { s.vol h with
        uncertain := (s.vol h).uncertain || decide (s.active = some h ∧ doubt)
        counters := { (s.vol h).counters with
          discarded := (s.vol h).counters.discarded + BitVec.ofNat 32 (s.ownedAmong h gone) } }) ∧
      t = { t₀ with
        links := ⟨{ t₀.links.station with notices := station }, { s.links.turner with notices := turner }⟩
        vols := t.vols, leaves := t.leaves, slots := t.slots
        cradle := if enters then
            { s.cradle with
              state := .halted, parityGood := true, haltCause := .partialReset, raisePending := false
              grantPending := false, travelTimer := none, settleTimer := none, grantTimer := none }
          else { s.cradle with haltCause := .partialReset }
        turn := { s.turn with phase := match s.turn.phase with
          | .granted | .pending => .cancelled
          | p => p }
        light := { s.light with strobes := ⟨none, none, none, none⟩ }
        heads := ⟨aborted s.heads.left, aborted s.heads.right⟩
        run := if ends then
            { s.run with
              state := .idle, wanted := none, stopRequested := false, slots := ⟨none, none⟩
              lastEnd := some ⟨.halted, .none, s.openingNow⟩ }
          else s.run
        delivery := { s.delivery with
          queue := s.delivery.queue.filter fun i => !gone i
          current := s.delivery.current.map fun d => if cancels d then cancelled d else d
          lastTrailer := match s.delivery.current with
            | none => s.delivery.lastTrailer
            | some d =>
              if cancels d then
                some ⟨d.slot, d.owner, d.generation, d.format, .cancelled, d.linesSent, d.wordsSent, crc d⟩
              else s.delivery.lastTrailer } })

/-! ### Settings and lighting (R87, R88, R105, R124, R140, R148, R168; R86, R90 to R92, R99, R100) -/

/-- R87, R88, R105, R124, R140, R148, R168: a settings command carried to its end writes each field, each clamped
as its rule says, and nothing else; a head word above 1 is refused BAD_PARAM at that word, writes no field, and
leaves the words that follow to be discarded. -/
def Obligations.SettingsWriteTheirFields : Prop :=
  ∀ s : State, s.initRunning = false →
    let took (n : Nat) : State := s.answered .station n (.accepted [])
    let badHead : State :=
      { s with
        links := s.links.set .station
          { s.links.station.taking 1 with rx := .discarding, response := [.status (some .badParam)] }
        skippedNow := [] }
    (∀ mode motion degraded : Word, exec (.setKeep mode motion degraded) s = .next
      { took 3 with keep := ⟨if mode = 0 then .gate else .decideAll, motion != 0, degraded != 0⟩ }) ∧
    (∀ format auto : Word, exec (.setDelivery format auto) s = .next
      { took 2 with delivery := { s.delivery with settings :=
          ⟨if format = 0 then .w16 else if format = 1 then .w8 else if format = 2 then .g16 else .g8,
           auto != 0⟩ } }) ∧
    (∀ ws : List Word, ws.length = 10 → ∀ h : Head, arg ws 0 = headPlace h →
      let old := (s.head h).correction
      let lo := min (min (arg ws 8) 1023) old.winHi
      exec (.setCorrection ws) s = .next
        { took 10 with heads := s.heads.set h { s.head h with correction :=
          { w := max 1024 (min (arg ws 1) 6144) / 16 * 16
            h := max 1024 (min (arg ws 2) 8192)
            darkMode := if arg ws 3 = 0 then .fixed else if arg ws 3 = 1 then .running else .trimmed
            fixed := ⟨min (arg ws 4) 1023, min (arg ws 5) 1023, min (arg ws 6) 1023⟩
            offset := min (arg ws 7) 255
            winLo := lo
            winHi := max (min (arg ws 9) 1023) lo } } }) ∧
    (∀ ws : List Word, ws.length = 12 → ∀ h : Head, arg ws 0 = headPlace h →
      exec (.setMeasurement ws) s = .next
        { took 12 with heads := s.heads.set h { s.head h with measurement :=
          { left := min (arg ws 1) 6143
            top := min (arg ws 2) 8191
            width := max 1 (min (arg ws 3) 6144)
            height := max 1 (min (arg ws 4) 8192)
            threshold := arg ws 5
            runLength := max 1 (min (arg ws 6) 8)
            guardColumns := min (arg ws 7) 255
            guardLines := min (arg ws 8) 255
            blankMinimum := min (arg ws 9) 255
            clipLimit := arg ws 10 * 65536 + arg ws 11 } } }) ∧
    (∀ w : Word, 2 ≤ w.toNat →
      exec (.setCorrection [w]) s = .next badHead ∧ exec (.setMeasurement [w]) s = .next badHead) ∧
    (∀ fs : List Word, fs.length = 15 →
      let level (i : Nat) : BankSetting := ⟨min (arg fs (2 * i)) 255, min (arg fs (2 * i + 1)) 255⟩
      let lo := min (max 100 (arg fs 8)) s.light.settings.dMax
      let hi := max (max 100 (arg fs 9)) lo
      exec (.setLighting fs) s = .next
        { took 15 with light := { s.light with settings :=
          { banks := ⟨level 0, level 1, level 2, level 3⟩
            dMin := lo
            dMax := hi
            base := ⟨max lo (min (arg fs 10) hi), max lo (min (arg fs 11) hi)⟩
            target := max 1 (arg fs 12)
            auto := ⟨decide (0 < arg fs 13), decide (0 < arg fs 14)⟩ } } })

/-- R86, R90, R91, R92, R99, R100: the duration of a bank, the planned dose of a position, when an exposure is
refused by a ceiling, the auto-exposure update and its holds, and the end of a pulse. -/
def Obligations.LightingArithmetic : Prop :=
  (∀ (base : Nat) (b : BankSetting),
    (b.weight = 0 ∨ b.level = 0 → bankDuration base b = 0) ∧
    (b.weight ≠ 0 → b.level ≠ 0 → bankDuration base b = min 65535 ((base * b.weight + 64) / 128))) ∧
  (∀ (l : LightingSettings) (p : Head), ∃ upper lower : BankSetting,
    (upper, lower) = (match p with
      | .left => (l.banks.lu, l.banks.ll)
      | .right => (l.banks.ru, l.banks.rl)) ∧
    l.latch p = ⟨l.base.get p, upper, lower, bankDuration (l.base.get p) upper,
      bankDuration (l.base.get p) lower,
      bankDuration (l.base.get p) upper * upper.level + bankDuration (l.base.get p) lower * lower.level⟩) ∧
  (∀ (v : Volume) (ps : List LitPosition), doseRefused v ps = true ↔
    v.volumeCeiling = 0 ∨ v.sideCeiling = 0 ∨
    (∃ p ∈ ps, v.sideCeiling < p.dose + p.latch.planned) ∨
    v.volumeCeiling < v.dose + (ps.map (·.latch.planned)).sum) ∧
  (∀ (l : Lighting) (p : Head) (base mean : Nat) (blank : Bool),
    let ideal := base * l.settings.target / mean
    let step := max (base - base / 4) (min ideal (base + base / 4))
    let new := max l.settings.dMin (min step l.settings.dMax)
    (l.settings.auto.get p = false → l.autoExpose p base mean blank = l) ∧
    (l.settings.auto.get p = true → 0 < mean → blank = false → l.settings.dMin ≤ l.settings.dMax →
      l.autoExpose p base mean blank =
        { l with
          settings := { l.settings with base := l.settings.base.set p new }
          lastUpdate := some ⟨p, mean, base, .updated ideal new⟩ }) ∧
    (l.settings.auto.get p = true → (mean = 0 ∨ blank = true) →
      l.autoExpose p base mean blank =
        { l with
          holds := l.holds.set p (min (l.holds.get p + 1) 65535)
          lastUpdate := some ⟨p, mean, base, if mean = 0 then .holdDark else .holdBlank⟩ })) ∧
  (∀ (s : State) (b : Bank), exec (.strobePulseEnd b) s = .next
    { s with
      light := { s.light with strobes := s.light.strobes.set b none }
      skippedNow := [] })

/-! ### Exposures (R30 to R33, R92 to R95, R107 to R110) -/

/-- R107, R108 with R33, R32, R93: EXPOSE's tests in order, each with the counter, flag or record its refusal
leaves, and nothing else changed. The cradle's parity holds, and the requested sides' records hold no bit error
(a record found uncorrectable is R108's and R179's). A volume whose ceiling is 0 is refused whatever the sums, so that
the record of the refusal may mark no comparison failed (log 21); of a dropped, skipped, side the held capture makes no
slot available (log 31). No word of the volume record waits to be corrected (log 6). -/
def Obligations.ExposeIsTested : Prop :=
  (∀ (s : State) (sides left right : Word), s.initRunning = false → s.TableClean →
    let refused (r : Reason) : State :=
      { s.answered .station 3 (.refused r) with requests := s.requests + 1 }
    (s.run.state ≠ .idle → exec (.expose sides left right) s = .next (refused .runActive)) ∧
    (s.run.state = .idle → s.active = none →
      exec (.expose sides left right) s = .next (refused .noVolume)) ∧
    ∀ h, s.run.state = .idle → s.active = some h → s.cradle.parityGood = true →
      (s.cradle.state ≠ .ready → exec (.expose sides left right) s = .next (refused .cradleState)) ∧
      (s.cradle.state = .ready → s.inFlight = true →
        exec (.expose sides left right) s = .next { refused .exposureInFlight with overlap := true }) ∧
      (s.cradle.state = .ready → s.inFlight = false → (s.vol h).uncertain = true →
        exec (.expose sides left right) s = .next (refused .openingUncertain))) ∧
  (∀ (s : State) (h : Handle) (sides left right : Word), s.ExposureReady h → s.TableClean →
    let k := (s.vol h).opening
    let asked := requestsOf sides.toNat left.toNat right.toNat
    let leafOf (p : Head) := s.leaf h (sideAt k p).leaf
    let faceOf (p : Head) := s.face h (sideAt k p)
    let declared (p : Head) : Nat := if (leafOf p).valid then (faceOf p).declared else 4
    let rest := asked.filter fun r => !((leafOf r.1).valid && (faceOf r.1).skip)
    let badParam := asked = [] ∨ ∃ r ∈ asked, r.2 < 1 ∨ declared r.1 < r.2
    let damaged := ∃ r ∈ rest, (leafOf r.1).valid = false
    let spent := ∃ r ∈ rest, 255 ≤ ((faceOf r.1).panel r.2).generation
    let full := allSlots.countP (fun i => (s.slot i).availableFor
      (rest.map fun r => panelAt h k r.1 r.2)) < rest.length
    let lit := rest.map fun r =>
      (⟨r.1, (faceOf r.1).dose, s.light.settings.latch r.1⟩ : LitPosition)
    let refused (r : Reason) : State :=
      { s.answered .station 3 (.refused r) with requests := s.requests + 1 }
    (∀ r ∈ asked, (leafOf r.1).valid = true → (leafOf r.1).errors = []) →
    (badParam → exec (.expose sides left right) s = .next (refused .badParam)) ∧
    (¬badParam → rest = [] → exec (.expose sides left right) s = .next (refused .nothingToCapture)) ∧
    (¬badParam → rest ≠ [] → damaged →
      exec (.expose sides left right) s = .next (refused .recordDamaged)) ∧
    (¬badParam → rest ≠ [] → ¬damaged → spent →
      exec (.expose sides left right) s = .next (refused .generationLimit)) ∧
    (¬badParam → rest ≠ [] → ¬damaged → ¬spent → full →
      exec (.expose sides left right) s = .next { refused .slotsFull with full := true }) ∧
    (¬badParam → rest ≠ [] → ¬damaged → ¬spent → ¬full → doseRefused (s.vol h) lit = true →
      ∃ d : DoseRefusal,
        exec (.expose sides left right) s = .next
          { refused .doseLimit with light := { s.light with lastRefusal := some d } } ∧
        (d.failedLeft = true ↔ ∃ p ∈ lit, p.head = .left ∧
          (s.vol h).sideCeiling < p.dose + p.latch.planned) ∧
        (d.failedRight = true ↔ ∃ p ∈ lit, p.head = .right ∧
          (s.vol h).sideCeiling < p.dose + p.latch.planned) ∧
        (d.failedVolume = true ↔ (s.vol h).volumeCeiling < d.sum) ∧
        (∀ p ∈ lit, d.positions.get p.head = some (p.latch.planned, p.dose + p.latch.planned)) ∧
        (∀ p, (∀ q ∈ lit, q.head ≠ p) → d.positions.get p = none) ∧
        d.planned = (lit.map (·.latch.planned)).sum ∧ d.sum = (s.vol h).dose + d.planned ∧
        d.volumeCeiling = (s.vol h).volumeCeiling ∧ d.sideCeiling = (s.vol h).sideCeiling)) ∧
  (∀ left right : Nat, requestsOf 0 left right = [] ∧ requestsOf 1 left right = [(.left, left)] ∧
    requestsOf 2 left right = [(.right, right)] ∧
    requestsOf 3 left right = [(.left, left), (.right, right)] ∧
    ∀ n, 3 < n → requestsOf n left right = [])

/-- R109, R110, R30, R31, R94, R95, R33: an EXPOSE that passes its tests replaces held captures of the requested
panels, gives each remaining side the lowest slot there is, LEFT first, makes its panel EXPOSING, counts the
attempts, fires the banks, charges the dose, and triggers each head with a fresh record, its snapshot and its
frame timer. A skipped side's head, slots and face are left alone: its held capture is not replaced (log 31). The slot
keeps the base duration of its capture's snapshot (log 19), and the firing record gives a bank with t_b 0 its latched
level (log 36). No word of the volume record waits to be corrected (log 6). -/
def Obligations.ExposeStartsAnExposure : Prop :=
  ∀ (s : State) (h : Handle) (sides left right : Word), s.ExposureReady h → s.Canonical → s.TableClean →
    let k := (s.vol h).opening
    let face (p : Head) := s.face h (sideAt k p)
    let asked := requestsOf sides.toNat left.toNat right.toNat
    let rest := asked.filter fun r => !(face r.1).skip
    let owners := rest.map fun r => panelAt h k r.1 r.2
    let avail (i : SlotNo) := (s.slot i).availableFor owners
    let plan (r : Head × Nat) := (s.light.settings.latch r.1).planned
    let total := (rest.map plan).sum
    k ≤ 2046 → rest ≠ [] →
    (∀ r ∈ asked, s.cleanLeaf h (sideAt k r.1).leaf ∧ 1 ≤ r.2 ∧ r.2 ≤ (face r.1).declared) →
    (∀ r ∈ rest, ((face r.1).panel r.2).generation < 255) →
    rest.length ≤ allSlots.countP avail →
    0 < (s.vol h).volumeCeiling → 0 < (s.vol h).sideCeiling →
    (∀ r ∈ rest, (face r.1).dose + plan r ≤ (s.vol h).sideCeiling) →
    (s.vol h).dose + total ≤ (s.vol h).volumeCeiling →
    ∃ (t : State) (slots : PerHead (Option SlotNo)), exec (.expose sides left right) s = .next t ∧
      t.links.station.response = [.status none,
        .data ((if slots.left.isSome then 1 else 0) + (if slots.right.isSome then 2 else 0)),
        .data (slotWord slots.left), .data (slotWord slots.right)] ∧
      t.requests = s.requests + 1 ∧
      (∀ p, (∀ r ∈ rest, r.1 ≠ p) → slots.get p = none ∧ t.head p = s.head p ∧
        t.light.strobes.get (upperBank p) = s.light.strobes.get (upperBank p) ∧
        t.light.strobes.get (lowerBank p) = s.light.strobes.get (lowerBank p)) ∧
      (∀ r ∈ rest, ∃ i : SlotNo, slots.get r.1 = some i ∧ avail i = true ∧
        (∀ j, avail j = true → j < i → r.1 = .right ∧ slots.left = some j) ∧
        (let c := (s.head r.1).correction
         let e := (face r.1).panel r.2
         let d := t.face h (sideAt k r.1)
         let latch := s.light.settings.latch r.1
         t.slot i =
           { Slot.cleared with
             state := .filling, owner := some (panelAt h k r.1 r.2), head := some r.1, w := c.w, h := c.h
             generation := e.generation + 1, baseDuration := latch.base } ∧
         d.panel r.2 = { e with number := r.2, pending := some ⟨.exposing, i⟩ } ∧
         (∀ n, n ≠ r.2 → d.panel? n = (face r.1).panel? n) ∧
         d.dose = (face r.1).dose + plan r ∧
         { d with panels := (face r.1).panels, dose := (face r.1).dose } = face r.1 ∧
         t.cleanLeaf h (sideAt k r.1).leaf ∧
         t.leaf h (sideAt k r.1).leaf = (s.leaf h (sideAt k r.1).leaf).setFace (sideAt k r.1).face d ∧
         t.head r.1 =
           { s.head r.1 with
             phase := .capturing, port := .between
             capture := some
               { kind := .normal, slot := some i
                 side := some ⟨(sideAt k r.1).leaf, (sideAt k r.1).face, r.2⟩, lines := 0, overlong := false
                 clipCount := 0, substitutions := 0, outcome := .inFlight }
             snapshot := some ⟨c, (s.head r.1).running, (s.head r.1).measurement, s.keep, latch, 0⟩
             frameTimer := some (s.timers.frame.get r.1)
             lineBuffer := [], darkSums := ⟨0, 0, 0⟩, activeSums := ⟨0, 0, 0⟩, flatSums := []
             work := WorkRecord.started (effectiveWindow (s.head r.1).measurement c.w c.h) } ∧
         t.light.strobes.get (upperBank r.1) = (if latch.upperDuration = 0 then
           s.light.strobes.get (upperBank r.1) else some latch.upperDuration) ∧
         t.light.strobes.get (lowerBank r.1) = (if latch.lowerDuration = 0 then
           s.light.strobes.get (lowerBank r.1) else some latch.lowerDuration))) ∧
      (∀ j, slots.left ≠ some j → slots.right ≠ some j →
        t.slot j = if avail j = true ∧ (s.slot j).state = .provisional then Slot.cleared else s.slot j) ∧
      (∃ f : FiringRecord, t.light.lastFiring = some f ∧ f.kind = .normal ∧
        (∀ p, f.lit.get p = if rest.any (fun r => r.1 == p) then some
          (let l := s.light.settings.latch p
           (⟨l.upperDuration, l.upper.level⟩, ⟨l.lowerDuration, l.lower.level⟩, l.planned)) else none) ∧
        ∃ charged : PerHead (Option Side), f.charged = some ((s.vol h).serial, charged) ∧
          ∀ p, charged.get p = if rest.any (fun r => r.1 == p) then some (sideAt k p) else none) ∧
      t.vol h = { s.vol h with
        dose := (s.vol h).dose + total
        highestSideDose := rest.foldl (fun m r => max m ((face r.1).dose + plan r)) (s.vol h).highestSideDose
        counters := { (s.vol h).counters with
          attempts := (s.vol h).counters.attempts + BitVec.ofNat 32 rest.length
          discarded := (s.vol h).counters.discarded + BitVec.ofNat 32 (allSlots.countP fun j =>
            avail j && (s.slot j).state == .provisional) } } ∧
      (∀ h', h' ≠ h → t.vol h' = s.vol h') ∧
      (∀ h' d, d.leaf ≤ 2047 → (h' ≠ h ∨ ∀ r ∈ rest, sideAt k r.1 ≠ d) →
        t.face h' d = s.face h' d ∧ (t.leaf h' d.leaf).valid = (s.leaf h' d.leaf).valid) ∧
      (∀ h' n, n ≤ 2047 → (h' ≠ h ∨ ∀ r ∈ rest, (sideAt k r.1).leaf ≠ n) → t.leaf h' n = s.leaf h' n) ∧
      t = { s with
        requests := t.requests
        links := s.links.set .station
          { s.links.station.taking 3 with response := t.links.station.response }
        vols := t.vols, leaves := t.leaves, slots := t.slots, heads := t.heads
        light := { s.light with strobes := t.light.strobes, lastFiring := t.light.lastFiring }
        delivery := { s.delivery with queue := s.delivery.queue.filter fun j =>
          !(avail j && (s.slot j).state == .provisional) }
        skippedNow := [] }

/-! ### The sensor ports (R104, R111 to R119, R125, R130, R131) -/

/-- R111, R116, R117 to R119, R125, R130, R131: line starts, samples and unframed or misshapen lines. An IDLE head
discards them; a line not framed or longer or shorter than expected is a head error; samples of an overlong line
raise the port's count of samples and nothing else (log 31); a masked sample joins the dark sums; an active one is
summed, or floored and summed, or passes the correction stages, by the kind of the capture. -/
def Obligations.LinesAndSamples : Prop :=
  ∀ (s : State) (h : Head) (v : BitVec 12),
    let u := s.head h
    let put (x : HeadUnit) : State := { s with heads := s.heads.set h x, skippedNow := [] }
    let same (i : Instr) := exec i s = .next { s with skippedNow := [] }
    let broken (i : Instr) := exec i s = .next { s.headError h .lineLength with skippedNow := [] }
    (u.phase = .idle → same (.lineStart h) ∧ same (.sample h v) ∧ same (.lineEnd h)) ∧
    (∀ c snap, u.phase = .capturing → u.capture = some c → u.snapshot = some snap →
      let k := snap.correction
      let expected := 3 * (32 + k.w)
      (u.port = .between →
        exec (.lineStart h) s = .next (put { u with
          port := .inLine 0, lineBuffer := []
          capture := some { c with overlong := c.overlong || decide (k.h ≤ c.lines) } }) ∧
        broken (.sample h v) ∧ broken (.lineEnd h)) ∧
      (∀ n, u.port = .inLine n →
        let ch : Channel := if n % 3 = 0 then .r else if n % 3 = 1 then .g else .b
        let x := (n - 96) / 3
        let key := gainKey h ch x
        let e := s.gainEntry key
        let dark : Nat := match k.darkMode with
          | .fixed => k.fixed.get ch
          | .running => snap.running.get ch
          | .trimmed => min 4095 (snap.running.get ch + k.fixed.get ch)
        let s1 := min (v.toNat + k.offset - dark) 4095
        let counted (g : Nat) : HeadUnit :=
          let s2 := (s1 * g + 512) / 1024
          { u with
            port := .inLine (n + 1)
            lineBuffer := BitVec.ofNat 16 (min s2 65535) :: u.lineBuffer
            capture := some { c with
              clipCount := c.clipCount + (if v.toNat = 4095 ∨ 65535 < s2 then 1 else 0) } }
        broken (.lineStart h) ∧
        (k.h ≤ c.lines →
          exec (.sample h v) s = .next (put { u with port := .inLine (n + 1) }) ∧
          exec (.lineEnd h) s = .next (put { u with port := .between })) ∧
        (c.lines < k.h → n ≠ expected → broken (.lineEnd h)) ∧
        (c.lines < k.h → expected < n + 1 → broken (.sample h v)) ∧
        (c.lines < k.h → n < 96 → exec (.sample h v) s = .next (put { u with
          port := .inLine (n + 1)
          darkSums := u.darkSums.set ch (u.darkSums.get ch + v.toNat) })) ∧
        (c.lines < k.h → 96 ≤ n → n < expected → c.kind = .dark →
          exec (.sample h v) s = .next (put { u with
            port := .inLine (n + 1)
            activeSums := u.activeSums.set ch (u.activeSums.get ch + v.toNat) })) ∧
        (c.lines < k.h → 96 ≤ n → n < expected → c.kind = .flat →
          exec (.sample h v) s = .next (put { u with
            port := .inLine (n + 1)
            flatSums := u.flatSums.modify (n - 96) (· + s1)
            capture := some { c with
              clipCount := c.clipCount + (if v.toNat = 4095 then 1 else 0) } })) ∧
        (c.lines < k.h → 96 ≤ n → n < expected → c.kind = .normal →
          (e.error = none → exec (.sample h v) s = .next (put (counted e.value.toNat))) ∧
          (e.error = some .single → s.Canonical → ∃ t : State, exec (.sample h v) s = .next t ∧
            t.gainEntry key = { e with error := none } ∧
            (∀ j, j ≠ key → t.gainEntry j = s.gainEntry j) ∧
            t = { put (counted e.value.toNat) with
                  gain := t.gain, faults := s.faults.raise .recoveredGain 1 }) ∧
          (e.error = some .uncorrectable → ∃ t : State, exec (.sample h v) s = .next t ∧
            t.heads = s.heads.set h (let y := counted 16384
              { y with
                capture := y.capture.map fun c => { c with substitutions := c.substitutions + 1 }
                work := { u.work with degraded := true } }) ∧
            t.faults = { s.faults.raise .gainSubstitute 1 with
              record := some ⟨.gainSubstitute, none, none, some h, some ch, some x, none⟩ } ∧
            t = { s with
              heads := t.heads, faults := t.faults, skippedNow := []
              links := { s.links with station := { s.links.station with
                notices := addNotice s.links.station.notices StationNotice.fault.place } } }))))

/-- R111, R34, R25, R184, R139: a complete line within the first H: its samples are written at its place in its
slot (byte order: log 18) with fresh check bits, every other byte stays, lines received and lines written rise by
one, and the line is handed to the page measurement unit. A calibration capture has no slot and writes none. -/
def Obligations.CompleteLineIsStored : Prop :=
  ∀ (s : State) (h : Head) (c : CaptureRecord) (snap : Snapshot), s.Canonical →
    let u := s.head h
    u.phase = .capturing → u.capture = some c → u.snapshot = some snap → c.lines < snap.correction.h →
    u.port = .inLine (3 * (32 + snap.correction.w)) →
    let values := u.lineBuffer.reverse
    let after : HeadUnit :=
      { u with
        port := .between, lineBuffer := [], capture := some { c with lines := c.lines + 1 }
        work := if u.work.measuring then
            u.work.measure snap.measurement c.lines (graysOf values)
          else u.work }
    (c.slot = none → exec (.lineEnd h) s = .next
      { s with heads := s.heads.set h after, skippedNow := [] }) ∧
    (∀ i, c.slot = some i →
      let start := i.val * 536870912 + c.lines * 36864
      let stop := start + 2 * values.length
      ∃ t : State, exec (.lineEnd h) s = .next t ∧
        t.slot i = { s.slot i with lines := (s.slot i).lines + 1 } ∧
        (∀ j, j ≠ i → t.slot j = s.slot j) ∧
        (∀ n (hn : n < values.length),
          readByte t.memory (start + 2 * n) = values[n].extractLsb' 0 8 ∧
          readByte t.memory (start + 2 * n + 1) = values[n].extractLsb' 8 8) ∧
        (∀ a, a < start ∨ stop ≤ a → readByte t.memory a = readByte s.memory a) ∧
        (∀ e, e ∈ t.memoryErrors ↔ e ∈ s.memoryErrors ∧ ¬(start ≤ 8 * e.1 ∧ 8 * e.1 < stop)) ∧
        t = { s with
          heads := s.heads.set h after, slots := t.slots, memory := t.memory
          memoryErrors := t.memoryErrors, skippedNow := [] })

/-- R113, R114, R115, R35, R112, R96: the expiry of a frame timer, a line wrongly framed and a frame end before
line H abort the head's capture: its slot is freed and counted discarded, its flag, its fault and FAULT follow, the
dose stays, the other head is left alone. A timer that is stopped does not expire (log 7). When the capture was the
last in flight, CAPTURE_DONE follows, and the cradle leaves READY for a raise that waits or for a loss of pressure
(R54). No word of the volume record waits to be corrected (log 6). -/
def Obligations.HeadErrorsAbortTheCapture : Prop :=
  (∀ (s : State) (h : Head), (s.head h).phase = .capturing → (s.head h).frameTimer.isSome = true →
    exec (.frameTimerExpiry h) s = .next { s.headError h .timeout with skippedNow := [] }) ∧
  (∀ (s : State) (h : Head), ((s.head h).phase = .idle ∨ (s.head h).frameTimer = none) →
    exec (.frameTimerExpiry h) s = .next { s with skippedNow := [] }) ∧
  (∀ (s : State) (h : Head) (c : CaptureRecord) (snap : Snapshot), (s.head h).phase = .capturing →
    (s.head h).capture = some c → (s.head h).snapshot = some snap → c.lines < snap.correction.h →
    exec (.frameEnd h) s = .next { s.headError h .shortFrame with skippedNow := [] }) ∧
  (∀ (s : State) (h : Head) (c : CaptureRecord) (cause : AbortCause), s.TableClean →
    let other := match h with
      | .left => s.heads.right
      | .right => s.heads.left
    let u := s.head h
    (cause = .lineLength ∨ cause = .shortFrame ∨ cause = .timeout) →
    u.phase = .capturing → u.capture = some c → s.run.state = .idle → s.cradle.parityGood = true →
    s.cradle.state = .ready → s.switchesAllowEnd →
    (∀ i, c.slot = some i → ∃ o, (s.slot i).owner = some o ∧ s.cleanLeaf o.handle o.leaf ∧
      (s.vol o.handle).state = .active) →
    let gone (i : SlotNo) : Bool := c.slot == some i
    let t := s.abortCapture h cause
    let cls : FaultClass := if cause = .timeout then .headTimeout else .headError
    s.headError h cause =
      (if other.phase = .capturing then t else (t.postStation .captureDone).afterExposure) ∧
    t.head h =
      { u with
        phase := .idle, port := .between, frameTimer := none
        capture := some { c with outcome := .aborted cause }
        lineBuffer := [], darkSums := ⟨0, 0, 0⟩, activeSums := ⟨0, 0, 0⟩, flatSums := []
        work := WorkRecord.cleared
        flags := match cause with
          | .lineLength => { u.flags with lineLength := true }
          | .shortFrame => { u.flags with shortFrame := true }
          | _ => { u.flags with timeout := true } } ∧
    (∀ p, p ≠ h → t.head p = s.head p) ∧
    (∀ i, c.slot = some i → t.slot i = Slot.cleared ∧ ∀ o, (s.slot i).owner = some o →
      t.vol o.handle = { s.vol o.handle with counters :=
        { (s.vol o.handle).counters with discarded := (s.vol o.handle).counters.discarded + 1 } } ∧
      (t.face o.handle o.side).panel o.panel =
        { (s.face o.handle o.side).panel o.panel with pending := none } ∧
      (t.face o.handle o.side).dose = (s.face o.handle o.side).dose) ∧
    (∀ j, c.slot ≠ some j → t.slot j = s.slot j) ∧
    (c.slot = none → t.vols = s.vols ∧ t.leaves = s.leaves) ∧
    (s.Canonical → s.ownersClean gone →
      SlotsFreed s t gone ∧ PartsRemoved s t gone (fun _ => false) ∧
      ∀ h', t.vol h' = { s.vol h' with counters := { (s.vol h').counters with
        discarded := (s.vol h').counters.discarded + BitVec.ofNat 32 (s.ownedAmong h' gone) } }) ∧
    t = { s with
      vols := t.vols, leaves := t.leaves, slots := t.slots, heads := t.heads
      delivery := { s.delivery with queue := s.delivery.queue.filter fun j => !(c.slot == some j) }
      faults := { s.faults.raise cls 1 with
        record := some ⟨cls, none, none, some h, none, none, none⟩ }
      links := { s.links with station := { s.links.station with
        notices := addNotice s.links.station.notices StationNotice.fault.place } } }) ∧
  (∀ s : State, s.run.state = .idle → s.cradle.parityGood = true → s.cradle.state = .ready →
    let t := s.postStation .captureDone
    (s.cradle.raisePending = true → ¬(s.cradle.upSwitch = true ∧ s.cradle.downSwitch = true) →
      s.exposureEnd = State.enter { t with cradle := { s.cradle with raisePending := false } } .raising) ∧
    (s.cradle.raisePending = true → s.cradle.upSwitch = true → s.cradle.downSwitch = true →
      s.exposureEnd = State.halt
        (State.enter { t with cradle := { s.cradle with raisePending := false } } .raising) .interlockCheck) ∧
    (s.cradle.raisePending = false → s.cradle.pressure = false → s.cradle.upSwitch = false →
      s.cradle.downSwitch = true → s.exposureEnd = t.enter .settling) ∧
    (s.cradle.raisePending = false → s.cradle.pressure = false →
      ¬(s.cradle.upSwitch = false ∧ s.cradle.downSwitch = true) →
      s.exposureEnd = (t.enter .settling).halt .interlockCheck) ∧
    (s.cradle.raisePending = false → s.cradle.pressure = true → s.exposureEnd = t))

/-! ### Page measurement and frame ends (R112, R126, R141 to R145, R149, R150, R34 to R37) -/

/-- R141 to R145, R149: the effective window, a line's edges (the outer ends of its outermost bright runs), what a
complete line adds to the working record, the mean, blank, crop box, failed tests and verdict of a frame.
R126: the running dark update of a complete frame, channel by channel, with its drift count and notice. -/
def Obligations.MeasurementAndRunningDark : Prop :=
  ((∀ (m : Measurement) (w h : Nat), ∃ left top : Nat, left = min m.left (w - 1) ∧ top = min m.top (h - 1) ∧
     effectiveWindow m w h = ⟨left, top, min m.width (w - left), min m.height (h - top)⟩) ∧
   (∀ (m : Measurement) (grays : List Nat), 1 ≤ m.runLength →
     let run (x : Nat) : Prop := x + m.runLength ≤ grays.length ∧
       ∀ j < m.runLength, m.threshold ≤ grays.getD (x + j) 0
     (lineEdges m grays = none ↔ ∀ x, ¬run x) ∧
     (∀ l r, lineEdges m grays = some (l, r) ↔
       run l ∧ (∀ x, run x → l ≤ x) ∧ m.runLength ≤ r + 1 ∧ run (r + 1 - m.runLength) ∧
       ∀ x, run x → x + m.runLength ≤ r + 1)) ∧
   (∀ (w : WorkRecord) (m : Measurement) (l : Nat) (grays : List Nat),
     let added : WorkRecord :=
       { w with
         linesMeasured := w.linesMeasured + 1
         sum := w.sum + if w.window.top ≤ l ∧ l < w.window.top + w.window.height then
           ((List.range w.window.width).map fun x => grays.getD (w.window.left + x) 0).sum else 0 }
     (lineEdges m grays = none → w.measure m l grays = added) ∧
     (∀ a b, lineEdges m grays = some (a, b) → w.measure m l grays =
       { added with
         contentLines := w.contentLines + 1
         firstContent := some (w.firstContent.getD l), lastContent := some l
         leastLeft := some (match w.leastLeft with
           | none => a
           | some x => min x a)
         greatestRight := some (match w.greatestRight with
           | none => b
           | some x => max x b) })) ∧
   (∀ (w : WorkRecord) (snap : Snapshot) (clips : Nat),
     let m := snap.measurement
     let r := finishRecord w snap clips
     let n := w.window.width * w.window.height
     r.linesMeasured = w.linesMeasured ∧ r.contentLines = w.contentLines ∧
     r.firstContent = w.firstContent ∧ r.lastContent = w.lastContent ∧ r.leastLeft = w.leastLeft ∧
     r.greatestRight = w.greatestRight ∧ r.window = w.window ∧ r.mean = (w.sum + n / 2) / n ∧
     (r.blank = true ↔ w.contentLines = 0 ∨ w.contentLines < m.blankMinimum) ∧
     (r.blank = true → r.crop = none) ∧
     (∀ a b f g, r.blank = false → w.leastLeft = some a → w.greatestRight = some b →
       w.firstContent = some f → w.lastContent = some g → r.crop = some
         { left := a - m.guardColumns, top := f - m.guardLines
           width := min (snap.correction.w - 1) (b + m.guardColumns) + 1 - (a - m.guardColumns)
           height := min (snap.correction.h - 1) (g + m.guardLines) + 1 - (f - m.guardLines) }) ∧
     r.degraded = w.degraded ∧ r.motion = w.motion ∧ r.clipCount = clips ∧
     (r.failedMotion = true ↔ snap.keep.motionTest = true ∧ w.motion = true) ∧
     (r.failedClip = true ↔ m.clipLimit < clips) ∧
     (r.failedDegraded = true ↔ snap.keep.degradedTest = true ∧ w.degraded = true) ∧
     (r.verdict = .keep ↔ snap.keep.mode = .gate ∧ r.failedMotion = false ∧ r.failedClip = false ∧
       r.failedDegraded = false))) ∧
  (∀ (s : State) (h : Head) (snap : Snapshot),
     let u := s.head h
     let t := s.updateDark h snap
     let n := 32 * snap.correction.h
     let figure (ch : Channel) : DarkFigure :=
       let mean := (u.darkSums.get ch + n / 2) / n
       let cand := min mean 1023
       let v := u.running.get ch
       let held := decide (cand < snap.correction.winLo ∨ snap.correction.winHi < cand)
       ⟨mean, cand, v, if held then v else ((v : Int) + ((cand : Int) - v) / 8).toNat, held⟩
     let f : PerChannel DarkFigure := ⟨figure .r, figure .g, figure .b⟩
     let held := [f.r, f.g, f.b].countP (·.held)
     t.head h =
       { u with
         running := ⟨f.r.after, f.g.after, f.b.after⟩
         driftCount := min (u.driftCount + held) 65535
         lastDarkUpdate := some f } ∧
     t = { s with
       heads := s.heads.set h (t.head h)
       links := if held = 0 then s.links else { s.links with station := { s.links.station with
         notices := addNotice s.links.station.notices StationNotice.darkDrift.place } } })

/-- R112, R115, R116, R150, R34, R36, R37, R81: a frame end at an IDLE head counts a stray frame. One at a head that
has received its H lines of a NORMAL capture makes the running dark update, finishes the measurement, and keeps or
holds the slot by the verdict; a keep with auto-delivery on queues the slot or starts its delivery. R180: under an
invalid leaf record the capture is held whatever the verdict, and the update is counted skipped. When the exposure has
ended, CAPTURE_DONE follows, and the cradle leaves READY for a raise that waits or for a loss of pressure (R54). No run
is active, and no word of the volume records waits to be corrected (log 6). In the header of a delivery that starts, the
bit that R199 gives to no field is 0 by the model's choice (log 39). -/
def Obligations.FrameEndJudgesTheCapture : Prop :=
  (∀ (s : State) (h : Head), (s.head h).phase = .idle → exec (.frameEnd h) s = .next
    { s with
      heads := s.heads.set h { s.head h with stray := min ((s.head h).stray + 1) 65535 }
      skippedNow := [] }) ∧
  (∀ (s : State) (h : Head) (c : CaptureRecord) (snap : Snapshot) (i : SlotNo) (o : Owner), s.Canonical →
    s.TableClean →
    let other := match h with
      | .left => s.heads.right
      | .right => s.heads.left
    let u := s.head h
    let x := s.slot i
    let face := s.face o.handle o.side
    let e := face.panel o.panel
    u.phase = .capturing → u.capture = some c → u.snapshot = some snap → c.kind = .normal →
    snap.correction.h ≤ c.lines → c.slot = some i → x.owner = some o → x.state = .filling → o.leaf ≤ 2047 →
    (s.vol o.handle).state = .active → s.run.state = .idle →
    (s.delivery.current = none → s.delivery.queue = []) → s.cradle.parityGood = true →
    s.cradle.state = .ready → s.switchesAllowEnd →
    let dark := s.updateDark h snap
    let r := finishRecord u.work snap c.clipCount
    let stats : CaptureStats := ⟨r.crop, r.mean, r.clipCount, r.blank, r.degraded, r.motion, c.overlong⟩
    let invalid := (s.leaf o.handle o.leaf).valid = false
    let clean := s.cleanLeaf o.handle o.leaf
    let held := r.verdict = .hold ∨ invalid
    (invalid → s.skippedNow = []) → clean ∨ invalid →
    ∃ t : State,
      exec (.frameEnd h) s = .next
        { (if other.phase = .capturing then t else (t.postStation .captureDone).afterExposure) with
          skippedNow := [] } ∧
      t.head h =
        { dark.head h with
          phase := .idle, port := .between, frameTimer := none, lineBuffer := []
          capture := some { c with outcome := .ended (some r.verdict) }
          work := { u.work with measuring := false }, lastMeasurement := some r } ∧
      (∀ p, p ≠ h → t.head p = s.head p) ∧
      t.links =
        (let noted := dark.links.station.notices
         { dark.links with station := { dark.links.station with
             notices := if held then addNotice noted StationNotice.undecided.place else noted } }) ∧
      (held → t.slot i = { x with state := .provisional, stats := stats } ∧
        (∀ j, j ≠ i → t.slot j = s.slot j) ∧ t.vols = s.vols ∧ t.light = s.light ∧
        t.rescan = s.rescan ∧ t.delivery = s.delivery) ∧
      (invalid → t.leaves = s.leaves ∧
        t.faults = { s.faults with skipped := min (s.faults.skipped + 1) 65535 }) ∧
      (clean → t.faults = s.faults) ∧
      (clean → r.verdict = .hold →
        (t.face o.handle o.side).panel o.panel = { e with number := o.panel, pending := some ⟨.provisional, i⟩ } ∧
        (∀ p, p ≠ o.panel → (t.face o.handle o.side).panel? p = face.panel? p) ∧
        { t.face o.handle o.side with panels := [] } = { face with panels := [] } ∧
        t.cleanLeaf o.handle o.leaf ∧ FaceAlone s t o.handle o.side) ∧
      (clean → r.verdict = .keep → KeepMade s t i { x with stats := stats } o) ∧
      t = { s with
        links := t.links, vols := t.vols, leaves := t.leaves, rescan := t.rescan, slots := t.slots
        light := t.light, heads := t.heads, delivery := t.delivery, faults := t.faults
        skippedNow := t.skippedNow })

/-! ### Calibration and the gain table (R97, R127 to R135) -/

/-- R127, R128, R129, R97: DARK SEED; the tests of DARK CAPTURE and FLAT CAPTURE in order, a refusal changing
nothing; and their start: every head of the set triggered with its snapshot, no bank fired for DARK, those of each
position for FLAT, and no dose charged. The firing record gives a bank with t_b 0 its latched level (log 36). No word
of the volume record waits to be corrected (log 6). -/
def Obligations.CalibrationCapturesStart : Prop :=
  ∀ (s : State) (set target : Word), s.initRunning = false → s.TableClean →
    let refused (r : Reason) : Prop :=
      exec (.darkCapture set) s = .next (s.answered .station 1 (.refused r)) ∧
      exec (.flatCapture set target) s = .next (s.answered .station 2 (.refused r))
    let heads := if set = 1 then [Head.left] else if set = 2 then [.right] else if set = 3 then
      [.left, .right] else []
    (2 ≤ set.toNat → exec (.darkSeed set) s = .next (s.answered .station 1 (.refused .badParam))) ∧
    (∀ h : Head, set.toNat = headPlace h → exec (.darkSeed set) s = .next
      (let f := (s.head h).correction.fixed
       { s.answered .station 1 (.accepted [BitVec.ofNat 16 f.r, BitVec.ofNat 16 f.g, BitVec.ofNat 16 f.b]) with
         heads := s.heads.set h { s.head h with running := f } })) ∧
    (heads = [] → refused .badParam) ∧
    (heads ≠ [] → s.run.state ≠ .idle → refused .runActive) ∧
    (heads ≠ [] → s.run.state = .idle → s.active ≠ none → refused .busy) ∧
    (heads ≠ [] → s.run.state = .idle → s.active = none → s.cradle.parityGood = true →
      (s.cradle.state ≠ .ready → refused .cradleState) ∧
      (s.cradle.state = .ready → s.inFlight = true → refused .exposureInFlight) ∧
      (s.cradle.state = .ready → s.inFlight = false →
        let begun (kind : CaptureKind) (t : Nat) (p : Head) : HeadUnit :=
          let u := s.head p
          { u with
            phase := .capturing, port := .between
            capture := some ⟨kind, none, none, 0, false, 0, 0, .inFlight⟩
            snapshot := some ⟨u.correction, u.running, u.measurement, s.keep, s.light.settings.latch p, t⟩
            frameTimer := some (s.timers.frame.get p)
            lineBuffer := [], darkSums := ⟨0, 0, 0⟩, activeSums := ⟨0, 0, 0⟩
            flatSums := if kind = .flat then List.replicate (3 * u.correction.w) 0 else []
            work := WorkRecord.cleared }
        let pick {α : Type} (p : Head) (a b : α) : α := if heads.contains p then a else b
        let shots (p : Head) :=
          let l := s.light.settings.latch p
          some ((⟨l.upperDuration, l.upper.level⟩ : BankShot), (⟨l.lowerDuration, l.lower.level⟩ : BankShot),
            l.planned)
        let lit (b : Option Nat) (t : Nat) := if t = 0 then b else some t
        let t := max 1 (min target.toNat 4095)
        let l := s.light.settings.latch .left
        let r := s.light.settings.latch .right
        exec (.darkCapture set) s = .next
          { s.answered .station 1 (.accepted [set]) with
            heads := ⟨pick .left (begun .dark 0 .left) s.heads.left,
              pick .right (begun .dark 0 .right) s.heads.right⟩
            light := { s.light with lastFiring := some ⟨.dark, ⟨none, none⟩, none⟩ } } ∧
        exec (.flatCapture set target) s = .next
          { s.answered .station 2 (.accepted [set, BitVec.ofNat 16 t]) with
            heads := ⟨pick .left (begun .flat t .left) s.heads.left,
              pick .right (begun .flat t .right) s.heads.right⟩
            light := { s.light with
              strobes :=
                { lu := pick .left (lit s.light.strobes.lu l.upperDuration) s.light.strobes.lu
                  ll := pick .left (lit s.light.strobes.ll l.lowerDuration) s.light.strobes.ll
                  ru := pick .right (lit s.light.strobes.ru r.upperDuration) s.light.strobes.ru
                  rl := pick .right (lit s.light.strobes.rl r.lowerDuration) s.light.strobes.rl }
              lastFiring := some ⟨.flat,
                ⟨pick .left (shots .left) none, pick .right (shots .right) none⟩, none⟩ } }))

/-- R130, R132, R126, R112: the frame end of a complete calibration frame makes the running dark update and then
writes the measured darks of a DARK CAPTURE, or the gains of a FLAT CAPTURE with its record; the other head's
entries stay. When the exposure has ended, CAPTURE_DONE follows, and the cradle leaves READY for a raise that waits or
for a loss of pressure (R54). No run is active. -/
def Obligations.CalibrationCapturesEnd : Prop :=
  ∀ (s : State) (h : Head) (c : CaptureRecord) (snap : Snapshot), s.Canonical →
    let other := match h with
      | .left => s.heads.right
      | .right => s.heads.left
    let u := s.head h
    u.phase = .capturing → u.capture = some c → u.snapshot = some snap → snap.correction.h ≤ c.lines →
    s.run.state = .idle → s.cradle.parityGood = true → s.cradle.state = .ready →
    s.switchesAllowEnd →
    let dark := s.updateDark h snap
    let ended : HeadUnit :=
      { dark.head h with
        phase := .idle, port := .between, frameTimer := none, lineBuffer := []
        capture := some { c with outcome := .ended none } }
    let after (t : State) : State :=
      { (if other.phase = .capturing then t else (t.postStation .captureDone).afterExposure) with
        skippedNow := [] }
    (c.kind = .dark →
      let n := snap.correction.w * snap.correction.h
      let f (ch : Channel) := min 1023 ((u.activeSums.get ch + n / 2) / n)
      let level : PerChannel Nat := ⟨f .r, f .g, f .b⟩
      exec (.frameEnd h) s = .next (after
        { s with
          links := dark.links
          heads := s.heads.set h
            { ended with
              correction := { u.correction with fixed := level }, running := level
              lastDarkCapture := some level } })) ∧
    (c.kind = .flat → u.flatSums.length = 3 * snap.correction.w → snap.correction.w ≤ 6144 →
      let a (i : Nat) := (u.flatSums.getD i 0 + snap.correction.h / 2) / snap.correction.h
      let quotient (i : Nat) := (snap.flatTarget * 16384 + a i / 2) / a i
      let g (i : Nat) := if a i = 0 then 65535 else min 65535 (quotient i)
      let key (i : Nat) :=
        gainKey h (if i % 3 = 0 then .r else if i % 3 = 1 then .g else .b) (i / 3)
      let all := List.range (3 * snap.correction.w)
      ∃ t : State, exec (.frameEnd h) s = .next (after t) ∧
        (∀ i ∈ all, t.gainEntry (key i) = ⟨BitVec.ofNat 16 (g i), none⟩) ∧
        (∀ k, (∀ i ∈ all, k ≠ key i) → t.gainEntry k = s.gainEntry k) ∧
        t = { s with
          links := dark.links, gain := t.gain
          heads := s.heads.set h
            { ended with
              lastFlatCapture := some
                { target := snap.flatTarget, width := snap.correction.w
                  dead := all.countP fun i => a i = 0
                  limited := all.countP fun i => a i ≠ 0 ∧ 65535 < quotient i
                  clipCount := c.clipCount } } })

/-- R133, R134, R135: GAIN LOAD and READ GAIN refuse parameters out of range, GAIN LOAD a head that captures. A
load writes its columns whole and no other entry; a read returns the values in column order, 16384 for an
uncorrectable entry with its column named, and corrects single errors, counting them (the coding of the columns is
log 16's). -/
def Obligations.GainTable : Prop :=
  ∀ (s : State) (head channel first count : Word) (entries : List Word), s.initRunning = false →
    s.Canonical → entriesFit count entries = true →
    let n := count.toNat
    let bad := 1 < head.toNat ∨ 2 < channel.toNat ∨ n < 1 ∨ 256 < n ∨ 6143 < first.toNat + n - 1
    (bad →
      exec (.gainLoad head channel first count entries) s =
        .next (s.answered .station (4 + entries.length) (.refused .badParam)) ∧
      exec (.readGain head channel first count) s = .next (s.answered .station 4 (.refused .badParam))) ∧
    (∀ (h : Head) (c : Channel), ¬bad → head.toNat = headPlace h → channel.toNat = c.place →
      let key (j : Nat) := gainKey h c (first.toNat + j)
      ((s.head h).phase = .capturing → exec (.gainLoad head channel first count entries) s =
        .next (s.answered .station (4 + entries.length) (.refused .busy))) ∧
      ((s.head h).phase = .idle →
        ∃ t : State, exec (.gainLoad head channel first count entries) s = .next t ∧
          (∀ j < n, t.gainEntry (key j) = ⟨entries.getD j 0, none⟩) ∧
          (∀ k, (∀ j < n, k ≠ key j) → t.gainEntry k = s.gainEntry k) ∧
          t = { s.answered .station (4 + entries.length) (.accepted [count]) with gain := t.gain }) ∧
      (let e (j : Nat) := s.gainEntry (key j)
       let single (j : Nat) : Bool := (e j).error == some .single
       let lost (j : Nat) : Bool := (e j).error == some .uncorrectable
       let all := List.range n
       let values := all.map fun j => if lost j then 16384 else (e j).value.toNat
       let bad := (all.filter lost).map fun j => first.toNat + j
       let fixed := all.countP single
       ∃ t : State, exec (.readGain head channel first count) s = .next t ∧
        (∀ j < n, t.gainEntry (key j) = if single j then { e j with error := none } else e j) ∧
        (∀ k, (∀ j < n, k ≠ key j) → t.gainEntry k = s.gainEntry k) ∧
        t.faults = (if fixed = 0 then s.faults else s.faults.raise .recoveredGain fixed) ∧
        t = { s.answered .station 4 (.accepted
                ([count] ++ values.map (BitVec.ofNat 16) ++ [BitVec.ofNat 16 bad.length] ++
                  bad.map (BitVec.ofNat 16))) with
              gain := t.gain, faults := t.faults }))

/-! ### Run control (R153 to R157, R161, R163, R164) -/

/-- R154, R155: the tests of RUN and SEEK in order, a refusal changing nothing; and an accepted SEEK: its target
(for 0xFFFF the opening of the oldest rescan entry), its budget, and either its end with ARRIVED or the turn it
asks for.
R163, R164: STOP RUN by run state: nothing with no run, and nothing at a second one; an end with STOPPED where the run
waits on no exposure and no turn taken up; otherwise the request is kept. Its result word is the run state after it.
No word of the volume records or of the rescan list waits to be corrected (log 6). -/
def Obligations.RunAndSeekTestsSeekAndStop : Prop :=
  (∀ (s : State) (n : Word), s.initRunning = false → s.TableClean →
     let refused (i : Instr) (r : Reason) := exec i s = .next (s.answered .station 1 (.refused r))
     let both (r : Reason) := refused (.run n) r ∧ refused (.seek n) r
     let c := s.cradle
     let busy := c.state = .turnGranted ∨ (c.state = .raising ∧ c.grantPending = true)
     (s.run.state ≠ .idle → both .runActive) ∧
     (s.run.state = .idle → s.active = none → both .noVolume) ∧
     (∀ h, s.run.state = .idle → s.active = some h → c.parityGood = true →
       let v := s.vol h
       let k := v.opening
       (c.state = .halted → both .halted) ∧
       (busy → both .cradleState) ∧
       (c.state ≠ .halted → ¬busy → s.inFlight = true → both .exposureInFlight) ∧
       (c.state ≠ .halted → ¬busy → s.inFlight = false → v.uncertain = true → both .openingUncertain) ∧
       (c.state ≠ .halted → ¬busy → s.inFlight = false → v.uncertain = false →
         (4095 < n.toNat → refused (.run n) .badParam) ∧
         (n = 0xFFFF → s.rescan = [] → refused (.seek n) .badParam) ∧
         (n ≠ 0xFFFF → v.leaves < n.toNat → refused (.seek n) .badParam) ∧
         (∀ target : Nat,
           (n = 0xFFFF ∧ s.rescan.head?.map openingOf = some target) ∨
             (n ≠ 0xFFFF ∧ n.toNat = target ∧ target ≤ v.leaves) →
           (s.heldAt h k = true → refused (.seek n) .undecided) ∧
           (s.heldAt h k = false →
             let started : RunRecord :=
               { s.run with
                 state := .seeking, kind := some .seek, remaining := 0, target := some target
                 budget := (max target k - min target k) + 4, turnsTaken := 0, stopRequested := false
                 slots := ⟨none, none⟩
                 wanted := some (if k < target then .forward else .back) }
             let answer (w : Word) : State :=
               s.answered .station 1 (.accepted [BitVec.ofNat 16 target, w])
             (target = k → exec (.seek n) s = .next
               (let t := answer 0
                { t with
                  run := { started with state := .idle, wanted := none, lastEnd := some ⟨.arrived, .none, k⟩ }
                  links :=
                    ⟨{ t.links.station with
                       notices := addNotice t.links.station.notices StationNotice.runEnded.place },
                     { t.links.turner with
                       notices := removeNotice t.links.turner.notices TurnerNotice.turnWanted.place }⟩ })) ∧
             (target ≠ k → exec (.seek n) s = .next
               (let t := answer 6
                { t with
                  run := started
                  links := { t.links with turner := { t.links.turner with
                    notices := addNotice t.links.turner.notices TurnerNotice.turnWanted.place } } }))))))) ∧
  (∀ s : State, s.initRunning = false → s.TableClean →
     let taken := s.turn.phase = .pending ∨ s.turn.phase = .granted
     let waits := s.run.state = .preparing ∨ s.run.state = .deciding ∨ s.run.state = .slotWait
     let turns := s.run.state = .turning ∨ s.run.state = .seeking
     (s.run.state = .idle → exec .stopRun s = .next (s.answered .station 0 (.accepted [0]))) ∧
     (s.run.stopRequested = true → exec .stopRun s = .next
       (s.answered .station 0 (.accepted [BitVec.ofNat 16 s.run.state.place]))) ∧
     (s.run.stopRequested = false → waits ∨ (turns ∧ ¬taken) → exec .stopRun s = .next
       (let t := s.answered .station 0 (.accepted [0])
        { t with
          run := { s.run with
            state := .idle, remaining := 0, wanted := none, stopRequested := false, slots := ⟨none, none⟩
            lastEnd := some ⟨.stopped, .none, (s.active.map fun h => (s.vol h).opening).getD 0⟩ }
          links :=
            ⟨{ t.links.station with
               notices := addNotice t.links.station.notices StationNotice.runEnded.place },
             { t.links.turner with
               notices := removeNotice t.links.turner.notices TurnerNotice.turnWanted.place }⟩ })) ∧
     (s.run.stopRequested = false → s.run.state = .exposing ∨ (turns ∧ taken) → exec .stopRun s = .next
       { s.answered .station 0 (.accepted [BitVec.ofNat 16 s.run.state.place]) with
         run := { s.run with remaining := 0, stopRequested := true } }))

/-- R154, R157, R158, R161, R164, R33: an accepted RUN and its first step, with clean records at the opening: a held
capture makes it wait; with both sides settled or skipped it ends at a foldout or the end of the book, or asks for a
turn; with a side to capture it lowers the platen or, in READY, makes a counted exposure attempt.
R157, R158: the same step in the midst of a run, where a request to stop ends it before a capture and at a held one, and
a side in an invalid record is chosen; the step of a run in PREPARING when the cradle opens or becomes READY.
R164: what the end of a run writes. R159, R115: what a run makes of the end of its exposure, once the cradle has settled
its next state (R54); when both captures were
aborted, whose the detail names is a free value (log 14). R160: at a slot freed by a word taken at the image port, the
run that waits for one steps (after the rest of that event: log 41). No word of the volume records or of the rescan list waits to be corrected (log 6). -/
def Obligations.RunTakesItsFirstStep : Prop :=
  (∀ (s : State) (h : Handle) (n : Word), s.initRunning = false → s.TableClean → n.toNat ≤ 4095 →
    s.run.state = .idle → s.active = some h → s.cradle.parityGood = true → s.inFlight = false →
    (s.vol h).uncertain = false → s.cradle.state ≠ .halted → s.cradle.state ≠ .turnGranted →
    ¬(s.cradle.state = .raising ∧ s.cradle.grantPending = true) →
    let k := (s.vol h).opening
    let face (p : Head) := s.face h (sideAt k p)
    let clean := s.cleanLeaf h k ∧ s.cleanLeaf h (k + 1)
    let chosen (p : Head) := (face p).skip = false ∧ (face p).isSettled 1 = false
    let capture := chosen .left ∨ chosen .right
    let started : RunRecord :=
      { s.run with
        state := .preparing, kind := some .run, remaining := n.toNat + 1, cycles := 0, target := none
        budget := 0, turnsTaken := 0, wanted := none, stopRequested := false, slots := ⟨none, none⟩ }
    let answer (w : Word) : State := s.answered .station 1 (.accepted [w])
    let finished (r : EndReason) : State :=
      let t := answer 0
      { t with
        run := { started with state := .idle, lastEnd := some ⟨r, .none, k⟩ }
        links :=
          ⟨{ t.links.station with
             notices := addNotice t.links.station.notices StationNotice.runEnded.place },
           { t.links.turner with
             notices := removeNotice t.links.turner.notices TurnerNotice.turnWanted.place }⟩ }
    let foldout := 1 < (face .left).declared ∨ 1 < (face .right).declared
    (s.heldAt h k = true →
      exec (.run n) s = .next { answer 3 with run := { started with state := .deciding } }) ∧
    (s.heldAt h k = false → clean → ¬capture → foldout → exec (.run n) s = .next (finished .foldout)) ∧
    (s.heldAt h k = false → clean → ¬capture → ¬foldout → (s.vol h).leaves ≤ k →
      exec (.run n) s = .next (finished .endOfVolume)) ∧
    (s.heldAt h k = false → clean → ¬capture → ¬foldout → k < (s.vol h).leaves →
      exec (.run n) s = .next
        (let t := answer 5
         { t with
           run := { started with state := .turning, wanted := some .forward }
           links := { t.links with turner := { t.links.turner with
             notices := addNotice t.links.turner.notices TurnerNotice.turnWanted.place } } })) ∧
    (s.heldAt h k = false → clean → capture →
      (s.cradle.state = .lowering ∨ s.cradle.state = .settling ∨ s.cradle.state = .raising →
        exec (.run n) s = .next { answer 1 with run := started }) ∧
      (s.cradle.state = .opened → s.cradle.downSwitch = false → exec (.run n) s = .next
        { answer 1 with
          run := started, cradle := (s.enter .lowering).cradle, light := (s.enter .lowering).light }) ∧
      (s.cradle.state = .ready →
        let rs := (if chosen .left then [(Head.left, 1)] else []) ++
          (if chosen .right then [(Head.right, 1)] else [])
        let base : State := { s.taking .station 1 with run := started, requests := s.requests + 1 }
        let finish (t : State) : State :=
          { t.modLink .station (·.answer (.accepted [BitVec.ofNat 16 t.run.state.place])) with
            skippedNow := [] }
        ∀ a t, base.attemptExposure rs = (a, t) →
          (∀ slots, a = .started slots → exec (.run n) s = .next
            (finish { t with run := { t.run with slots := slots, state := .exposing } })) ∧
          (a = .refused .slotsFull → exec (.run n) s = .next
            (finish { t with run := { t.run with state := .slotWait } })) ∧
          (a = .refused .doseLimit → exec (.run n) s = .next (finish (t.endRun .dose .none))) ∧
          (∀ r, a = .refused r → r ≠ .slotsFull → r ≠ .doseLimit → exec (.run n) s = .next
            (finish (t.endRun .fault (.refusal r))))))) ∧
  (∀ (s : State) (h : Handle), s.TableClean → s.active = some h →
    let k := (s.vol h).opening
    let leaf (p : Head) := s.leaf h (sideAt k p).leaf
    let face (p : Head) := s.face h (sideAt k p)
    let chosen (p : Head) := (leaf p).valid = false ∨ ((face p).skip = false ∧ (face p).isSettled 1 = false)
    let capture := chosen .left ∨ chosen .right
    let foldout := 1 < (face .left).declared ∨ 1 < (face .right).declared
    let now (f : RunRecord → RunRecord) : State := { s with run := f s.run }
    (s.heldAt h k = true → s.cycleStep =
      if s.run.stopRequested then s.endRun .stopped .none else now fun r => { r with state := .deciding }) ∧
    (s.heldAt h k = false → (∀ p, (leaf p).valid = true → (leaf p).errors = []) →
      (¬capture → foldout → s.cycleStep = s.endRun .foldout .none) ∧
      (¬capture → ¬foldout → (s.vol h).leaves ≤ k → s.cycleStep = s.endRun .endOfVolume .none) ∧
      (¬capture → ¬foldout → k < (s.vol h).leaves → s.cycleStep =
        { (now fun r => { r with state := .turning, wanted := some .forward }) with
          links := { s.links with turner := { s.links.turner with
            notices := addNotice s.links.turner.notices TurnerNotice.turnWanted.place } } }) ∧
      (capture → s.run.stopRequested = true → s.cycleStep = s.endRun .stopped .none) ∧
      (capture → s.run.stopRequested = false → s.cradle.parityGood = true →
        let preparing := now fun r => { r with state := .preparing }
        (s.cradle.state ≠ .ready → s.cradle.state ≠ .opened → s.cycleStep = preparing) ∧
        (s.cradle.state = .opened → s.cradle.downSwitch = false →
          s.cycleStep = preparing.enter .lowering) ∧
        (s.cradle.state = .ready →
          let rs := (if (leaf .left).valid && ((face .left).skip || (face .left).isSettled 1) then []
              else [(Head.left, 1)]) ++
            (if (leaf .right).valid && ((face .right).skip || (face .right).isSettled 1) then []
              else [(Head.right, 1)])
          ∀ a t, State.attemptExposure { s with requests := s.requests + 1 } rs = (a, t) →
            (∀ slots, a = .started slots → s.cycleStep =
              { t with run := { t.run with slots := slots, state := .exposing } }) ∧
            (a = .refused .slotsFull → s.cycleStep = { t with run := { t.run with state := .slotWait } }) ∧
            (a = .refused .doseLimit → s.cycleStep = t.endRun .dose .none) ∧
            (∀ r, a = .refused r → r ≠ .slotsFull → r ≠ .doseLimit →
              s.cycleStep = t.endRun .fault (.refusal r)))))) ∧
  (∀ s : State, s.run.state = .preparing → s.cradle.parityGood = true →
    (s.cradle.settleTimer.isSome = true → s.cradle.upSwitch = false → s.cradle.downSwitch = true →
      exec .settleTimerExpiry s = .next { (s.enter .ready).cycleStep with skippedNow := [] }) ∧
    (s.cradle.state = .raising → s.cradle.upSwitch = false → s.cradle.downSwitch = false →
      s.cradle.grantPending = false → exec .upSwitchAsserted s = .next
        (let t := State.postTurner
           (State.enter { s with cradle := { s.cradle with upSwitch := true } } .opened) .cradleOpen
         { t.enter .lowering with skippedNow := [] }))) ∧
  (∀ (s : State) (reason : EndReason) (detail : EndDetail), s.TableClean → s.endRun reason detail =
    { s with
      run := { s.run with
        state := .idle, wanted := none, stopRequested := false, slots := ⟨none, none⟩
        lastEnd := some ⟨reason, detail, s.openingNow⟩ }
      links :=
        ⟨{ s.links.station with
           notices := addNotice s.links.station.notices StationNotice.runEnded.place },
         { s.links.turner with
           notices := removeNotice s.links.turner.notices TurnerNotice.turnWanted.place }⟩ }) ∧
  (∀ s : State, s.run.state = .exposing → s.cradle.parityGood = true → s.cradle.state = .ready →
    s.switchesAllowEnd →
    let t := (s.postStation .captureDone).afterExposure
    let ended (p : Head) (x : CaptureOutcome → Prop) : Prop :=
      ∃ i c, s.run.slots.get p = some i ∧ (s.head p).capture = some c ∧ x c.outcome
    let broken (p : Head) (cause : AbortCause) := ended p (· = .aborted cause)
    let whole (p : Head) := s.run.slots.get p = none ∨ ended p fun x => ∀ cause, x ≠ .aborted cause
    (∀ cause, broken .left cause → whole .right →
      s.exposureEnd = t.endRun .fault (.capture .left cause)) ∧
    (∀ cause, broken .right cause → whole .left →
      s.exposureEnd = t.endRun .fault (.capture .right cause)) ∧
    (∀ l r, broken .left l → broken .right r →
      let u : State := { t with draws := s.draws + 1 }
      s.exposureEnd = u.endRun .fault (.capture .left l) ∨
        s.exposureEnd = u.endRun .fault (.capture .right r)) ∧
    (whole .left → whole .right →
      s.exposureEnd = { t with run := { s.run with slots := ⟨none, none⟩ } }.cycleStep)) ∧
  (∀ (s : State) (h : Head), (s.head h).phase = .capturing → (∀ p, p ≠ h → (s.head p).phase = .idle) →
    s.run.state ≠ .slotWait →
    (∀ cause, s.headError h cause = (s.abortCapture h cause).exposureEnd) ∧
    (∀ c snap, (s.head h).capture = some c → (s.head h).snapshot = some snap → snap.correction.h ≤ c.lines →
      exec (.frameEnd h) s = .next { (s.completeFrame h c snap).exposureEnd with skippedNow := [] })) ∧
  (∀ s : State, s.run.state = .slotWait → exec .imagePortWordTaken s = .next
    (let t := s.takeWord
     { (if s.freeCount < t.freeCount then t.cycleStep else t) with skippedNow := [] }))

/-! ### Delivery and the image port (R41, R42, R43, R167, R169 to R176, R199) -/

/-- R169, R170, R172, R199, R41, R176: DELIVER's tests; a slot queued behind a delivery; a delivery started at once,
with its record, its image box and its five header words; CANCEL DELIVERY in each phase. The owner's leaf record of a
starting delivery is clean, and no word of its volume record waits to be corrected (log 6). Bit 15 of header word 2 and
bits 15 to 2 of trailer word 1, which R199 gives to no field, are 0 by the model's choice (log 39). -/
def Obligations.DeliverAndCancel : Prop :=
  (∀ (s : State) (n : Word), s.initRunning = false → s.TableClean →
    let refused (r : Reason) : State := s.answered .station 1 (.refused r)
    let d := s.delivery
    (8 ≤ n.toNat → exec (.deliver n) s = .next (refused .badParam)) ∧
    (∀ i : SlotNo, n.toNat = i.val →
      let x := s.slot i
      (x.state ≠ .kept → exec (.deliver n) s = .next
        { refused .nothingToDeliver with delivery := { d with emptyDeliver := true } }) ∧
      (x.state = .kept → x.queued = true → exec (.deliver n) s = .next (refused .busy)) ∧
      (x.state = .kept → x.queued = false → d.current.isSome = true → ∃ t : State,
        exec (.deliver n) s = .next t ∧
        t.slot i = { x with queued := true } ∧ (∀ j, j ≠ i → t.slot j = s.slot j) ∧
        t = { s.answered .station 1 (.accepted [BitVec.ofNat 16 (d.queue.length + 1)]) with
              slots := t.slots, delivery := { d with queue := d.queue ++ [i] } }) ∧
      (∀ o, x.state = .kept → x.queued = false → d.current = none → d.queue = [] → x.owner = some o →
        s.cleanLeaf o.handle o.leaf →
        let box : Box := match x.stats.crop with
          | some b => b
          | none => ⟨0, 0, x.w, x.h⟩
        let f := d.settings.format
        let bit (b : Bool) (p : Nat) : Nat := if b then 2 ^ p else 0
        let current := ((s.face o.handle o.side).panel o.panel).generation
        ∃ t : State, exec (.deliver n) s = .next t ∧
          t.slot i = { x with state := .delivering, queued := false } ∧
          (∀ j, j ≠ i → t.slot j = s.slot j) ∧
          t = { s.answered .station 1 (.accepted [0]) with
            slots := t.slots
            delivery := { d with
              current := some
                { phase := .header, slot := i, owner := o, generation := x.generation, format := f, box := box
                  linesSent := 0, wordsSent := 0, wordInLine := 0, crc := 0xFFFFFFFF, damaged := false
                  cancelled := false, trailer := []
                  toTake := [(s.vol o.handle).serial + o.leaf * 2 ^ 16 + o.face.place * 2 ^ 28 + o.panel * 2 ^ 29,
                    x.generation + f.place * 2 ^ 8 + bit x.stats.blank 10 + bit x.stats.degraded 11 +
                      bit x.stats.motion 12 + bit x.stats.overlong 13 + bit (decide (x.generation < current)) 14 +
                      x.stats.meanGray * 2 ^ 16,
                    box.left + box.top * 2 ^ 16, box.width + box.height * 2 ^ 16,
                    x.stats.clipCount].map (BitVec.ofNat 32) } } }))) ∧
  (∀ s : State, s.initRunning = false →
    (s.delivery.current = none → exec .cancelDelivery s = .next
      (s.answered .station 0 (.refused .nothingToDeliver))) ∧
    (∀ d, s.delivery.current = some d →
      (d.phase = .trailer ∨ (d.phase = .header ∧ d.cancelled = true) → exec .cancelDelivery s = .next
        (s.answered .station 0 (.refused .nothingToDeliver))) ∧
      (d.phase = .pixels ∨ (d.phase = .header ∧ d.cancelled = false) →
        let crc := d.crc ^^^ 0xFFFFFFFF
        let trailer : List PortWord := [BitVec.ofNat 32 (1 + d.linesSent * 2 ^ 16), BitVec.ofNat 32 d.wordsSent, crc]
        ∃ t : State, exec .cancelDelivery s = .next t ∧
          t.slot d.slot = { s.slot d.slot with state := .kept, queued := false } ∧
          (∀ j, j ≠ d.slot → t.slot j = s.slot j) ∧
          t = { s.answered .station 0 (.accepted [BitVec.ofNat 16 d.slot.val]) with
            slots := t.slots
            delivery := { s.delivery with
              current := some (if d.phase = .pixels then
                { d with phase := .trailer, cancelled := true, toTake := trailer, trailer := trailer }
                else { d with cancelled := true, trailer := trailer })
              lastTrailer := some ⟨d.slot, d.owner, d.generation, d.format, .cancelled, d.linesSent, d.wordsSent,
                crc⟩ } })))

/-- R173, R174, R25: the words per line, the values of a pixel, the packing of a word, and the CRC with its check
value; the byte order of a sample is log 18's. R178, R184: of the capture memory words that hold the samples read,
each with a single error is written back corrected and counted once, and one that is uncorrectable is sent as it
reads, marks the delivery damaged and, the first time, reports DATA_DAMAGE with the slot. A word has one check
status. -/
def Obligations.PixelWordsAndTheirCrc : Prop :=
  (∀ w : Nat, Format.w16.wordsPerLine w = (3 * w + 1) / 2 ∧ Format.w8.wordsPerLine w = (3 * w + 3) / 4 ∧
    Format.g16.wordsPerLine w = (w + 1) / 2 ∧ Format.g8.wordsPerLine w = (w + 3) / 4) ∧
  (∀ (s : State) (d : Delivery), s.delivery.current = some d → (s.memoryErrors.map (·.1)).Nodup →
    let sample (x c : Nat) : Nat :=
      let a := d.slot.val * 536870912 + (d.box.top + d.linesSent) * 36864 + 6 * (d.box.left + x) + 2 * c
      (readByte s.memory a).toNat + 256 * (readByte s.memory (a + 1)).toNat
    let gray (x : Nat) : Nat :=
      (19595 * sample x 0 + 38470 * sample x 1 + 7471 * sample x 2 + 32768) / 65536
    let three := 3 * d.box.width
    let value (i : Nat) : Nat := match d.format with
      | .w16 => if i < three then sample (i / 3) (i % 3) else 0
      | .w8 => if i < three then sample (i / 3) (i % 3) / 256 else 0
      | .g16 => if i < d.box.width then gray i else 0
      | .g8 => if i < d.box.width then gray i / 256 else 0
    let k := d.wordInLine
    let word : Nat := match d.format with
      | .w16 | .g16 => value (2 * k) + value (2 * k + 1) * 65536
      | .w8 | .g8 => value (4 * k) + value (4 * k + 1) * 256 + value (4 * k + 2) * 65536 +
          value (4 * k + 3) * 16777216
    let places (n limit : Nat) := ((List.range n).map (n * k + ·)).filter (· < limit)
    let at_ (x c : Nat) : Nat :=
      d.slot.val * 536870912 + (d.box.top + d.linesSent) * 36864 + 6 * (d.box.left + x) + 2 * c
    let reads : List Nat := match d.format with
      | .w16 => (places 2 three).map fun i => at_ (i / 3) (i % 3)
      | .w8 => (places 4 three).map fun i => at_ (i / 3) (i % 3)
      | .g16 => (places 2 d.box.width).flatMap fun x => [at_ x 0, at_ x 1, at_ x 2]
      | .g8 => (places 4 d.box.width).flatMap fun x => [at_ x 0, at_ x 1, at_ x 2]
    let met (x : WordErr) (e : Nat × WordErr) : Bool := e.2 == x && reads.any fun a => a / 8 == e.1
    let corrected := s.memoryErrors.countP (met .single)
    let hit := s.memoryErrors.any (met .uncorrectable)
    let newly := hit = true ∧ d.damaged = false
    let recovered := if corrected = 0 then s.faults else s.faults.raise .recoveredCapture corrected
    s.offerPixel = { s with
      memoryErrors := s.memoryErrors.filter fun e => !met .single e
      faults := if newly then
          { recovered.raise .dataDamage 1 with
            record := some ⟨.dataDamage, none, none, none, none, none, some d.slot⟩ }
        else recovered
      links := if newly then { s.links with station := { s.links.station with
          notices := addNotice s.links.station.notices StationNotice.fault.place } }
        else s.links
      delivery := { s.delivery with
        current := some { d with toTake := [BitVec.ofNat 32 word], damaged := d.damaged || hit } } }) ∧
  (∀ r : PortWord, crcShift r = if r.getLsbD 0 then (r >>> 1) ^^^ 0xEDB88320 else r >>> 1) ∧
  (∀ (r : PortWord) (b : Byte), crcByte r b =
    (let x := r ^^^ b.setWidth 32
     crcShift (crcShift (crcShift (crcShift (crcShift (crcShift (crcShift (crcShift x))))))))) ∧
  (∀ r w : PortWord, crcWord r w = crcByte (crcByte (crcByte (crcByte r (w.extractLsb' 0 8))
    (w.extractLsb' 8 8)) (w.extractLsb' 16 8)) (w.extractLsb' 24 8)) ∧
  crcFinal ([0x31, 0x32, 0x33, 0x34, 0x35, 0x36, 0x37, 0x38, 0x39].foldl crcByte 0xFFFFFFFF) = 0xCBF43926 ∧
  crcFinal 0xFFFFFFFF = 0

/-- R171, R170, R173 to R176, R42, R9, R184: each take of a word: nothing with no word offered; through the header into
the pixels, or into the trailer of a cancelled delivery; the counts and the CRC of a pixel word, with the next word
offered; the end of a whole image, its slot freed, its panel DELIVERED, and a DRAINING volume CLOSED with its last slot;
and the end of the trailer with DELIVERY_DONE and the start of the delivery that waits first. The next word is read from
memory when it is offered (log 17). No word of the volume records waits to be corrected (log 6).
R180: under an invalid leaf record the panel's update is counted skipped, stale or not (log 30), and the slot freed.
R43, R80, R184: the end of a DAMAGED delivery of a standing capture: the settled part goes, no counter but the
list's overflow moves, the side is flagged for rescan unless it is skipped or flagged already, and the slot is
freed. A side flagged in the ACTIVE volume joins the list or its overflow with RESCAN_ADDED, one of a DRAINING volume
is flagged alone; that volume is CLOSED with its last slot (R9); nothing else changes. Bits 15 to 2 of trailer word 1
and bit 15 of header word 2, which R199 gives to no field, are 0 by the model's choice (log 39). -/
def Obligations.ImagePortTakesWords : Prop :=
  (∀ s : State, s.run.state ≠ .slotWait → s.TableClean →
     let fin (t : State) : State := { t with skippedNow := [] }
     let now (x : Option Delivery) : State := { s with delivery := { s.delivery with current := x } }
     let done_ (links : PerLink Link) : PerLink Link := { links with station := { links.station with
       notices := addNotice links.station.notices StationNotice.deliveryDone.place } }
     (s.delivery.current = none → exec .imagePortWordTaken s = .next (fin s)) ∧
     (∀ d, s.delivery.current = some d → d.toTake = [] → exec .imagePortWordTaken s = .next (fin s)) ∧
     (∀ d w rest, s.delivery.current = some d → d.toTake = w :: rest →
       (d.phase ≠ .pixels → rest ≠ [] → exec .imagePortWordTaken s = .next
         (fin (now (some { d with toTake := rest })))) ∧
       (d.phase = .header → rest = [] → d.cancelled = true → exec .imagePortWordTaken s = .next
         (fin (now (some { d with phase := .trailer, toTake := d.trailer })))) ∧
       (d.phase = .header → rest = [] → d.cancelled = false → exec .imagePortWordTaken s = .next
         (fin (now (some { d with phase := .pixels, toTake := [] })).offerPixel)) ∧
       (d.phase = .trailer → rest = [] → s.delivery.queue = [] → exec .imagePortWordTaken s = .next
         (fin { now none with links := done_ s.links })) ∧
       (d.phase = .trailer → rest = [] → ∀ j q o, s.delivery.queue = j :: q → (s.slot j).owner = some o →
         s.cleanLeaf o.handle o.leaf →
         let x := s.slot j
         let superseded := decide (x.generation < ((s.face o.handle o.side).panel o.panel).generation)
         exec .imagePortWordTaken s = .next (fin
           { s with
             links := done_ s.links
             slots := s.slots.set j.val { x with state := .delivering, queued := false } j.isLt
             delivery := { s.delivery with
               queue := q
               current := some (x.deliveryStart j o (s.vol o.handle).serial s.delivery.settings.format
                 superseded) } })) ∧
       (d.phase = .pixels →
         let last := d.format.wordsPerLine d.box.width ≤ d.wordInLine + 1
         let taken : Delivery :=
           { d with
             crc := crcWord d.crc w
             wordsSent := d.wordsSent + 1
             wordInLine := if last then 0 else d.wordInLine + 1
             linesSent := if last then d.linesSent + 1 else d.linesSent }
         let i := d.slot
         let x := s.slot i
         let crc := crcFinal taken.crc
         let trailer (status : DeliveryStatus) : List PortWord :=
           [BitVec.ofNat 32 (status.place + taken.linesSent * 2 ^ 16), BitVec.ofNat 32 taken.wordsSent, crc]
         let sent (status : DeliveryStatus) : TrailerRecord :=
           ⟨i, d.owner, d.generation, d.format, status, taken.linesSent, taken.wordsSent, crc⟩
         (¬(last ∧ d.box.height ≤ d.linesSent + 1) → exec .imagePortWordTaken s = .next
           (fin (now (some taken)).offerPixel)) ∧
         (last → d.box.height ≤ d.linesSent + 1 → d.damaged = true → exec .imagePortWordTaken s = .next
           (let t := State.settleDamaged
              { s with delivery := { s.delivery with
                  current := some { taken with trailer := trailer .damaged }
                  lastTrailer := some (sent .damaged) } } i d.owner
            fin { t with delivery := { t.delivery with
              current := some { taken with
                phase := .trailer, toTake := trailer .damaged, trailer := trailer .damaged } } })) ∧
         (last → d.box.height ≤ d.linesSent + 1 → d.damaged = false → ∀ o, d.owner = o → x.owner = some o →
           let e := (s.face o.handle o.side).panel o.panel
           let v := s.vol o.handle
           let closes := v.state = .draining ∧ ∀ j, j ≠ i → (s.slot j).ownedBy o.handle = false
           let invalid := (s.leaf o.handle o.leaf).valid = false
           let clean := s.cleanLeaf o.handle o.leaf
           let stands := (s.leaf o.handle o.leaf).valid = true ∧ x.generation = e.generation
           (invalid → s.skippedNow = []) → clean ∨ invalid → o.leaf ≤ 2047 → s.Canonical →
           ∃ t : State, exec .imagePortWordTaken s = .next t ∧
             t.slot i = Slot.cleared ∧ (∀ j, j ≠ i → t.slot j = s.slot j) ∧
             (¬stands → t.leaves = s.leaves) ∧
             (∀ st, stands → e.settled = .kept st →
               (t.face o.handle o.side).panel o.panel = { e with settled := .delivered st }) ∧
             (stands → e.settled.isKept = true →
               (∀ p, p ≠ o.panel → (t.face o.handle o.side).panel? p = (s.face o.handle o.side).panel? p) ∧
               { t.face o.handle o.side with panels := [] } = { s.face o.handle o.side with panels := [] } ∧
               FaceAlone s t o.handle o.side) ∧
             t = { s with
               links := { s.links with station := { s.links.station with
                 notices := if closes then addNotice s.links.station.notices StationNotice.volumeDrained.place
                   else s.links.station.notices } }
               vols := s.vols.set o.handle { v with
                 state := if closes then .closed else v.state
                 counters := { v.counters with
                   delivered := if stands then v.counters.delivered + 1 else v.counters.delivered } }
               leaves := t.leaves, slots := t.slots, skippedNow := []
               faults := if invalid then { s.faults with skipped := min (s.faults.skipped + 1) 65535 }
                 else s.faults
               delivery := { s.delivery with
                 queue := s.delivery.queue.filter fun j => !(j == i)
                 current := some { taken with
                   phase := .trailer, toTake := trailer .complete, trailer := trailer .complete }
                 lastTrailer := some (sent .complete) } })))) ∧
  (∀ (s : State) (i : SlotNo) (o : Owner), s.TableClean →
     (s.slot i).owner = some o → (s.vol o.handle).state = .active →
     let face := s.face o.handle o.side
     let e := face.panel o.panel
     let t := s.settleDamaged i o
     let clean := s.cleanLeaf o.handle o.leaf
     t.slot i = Slot.cleared ∧ (∀ j, j ≠ i → t.slot j = s.slot j) ∧
     ((s.leaf o.handle o.leaf).valid = false → s.skippedNow = [] →
       t.leaves = s.leaves ∧ t.rescan = s.rescan ∧ t.vols = s.vols ∧
       t.faults = { s.faults with skipped := min (s.faults.skipped + 1) 65535 }) ∧
     (clean → (s.slot i).generation ≠ e.generation →
       t.leaves = s.leaves ∧ t.rescan = s.rescan ∧ t.vols = s.vols ∧ t.faults = s.faults) ∧
     (clean → (s.slot i).generation = e.generation →
       (t.face o.handle o.side).panel o.panel = { e with number := o.panel, settled := .none } ∧
       (t.face o.handle o.side).rescan = (face.rescan || !face.skip) ∧
       (t.face o.handle o.side).blank = face.blank ∧
       t.rescan = (if face.skip = false ∧ face.rescan = false ∧ s.rescan.length < 64 then
         s.rescan ++ [o.side] else s.rescan) ∧
       t.vols = s.vols.set o.handle { s.vol o.handle with
         counters := { (s.vol o.handle).counters with rescanOverflow :=
           if face.skip = false ∧ face.rescan = false ∧ 64 ≤ s.rescan.length then
             (s.vol o.handle).counters.rescanOverflow + 1
           else (s.vol o.handle).counters.rescanOverflow } } ∧
       t.faults = s.faults) ∧
     t.memory = s.memory ∧ t.cradle = s.cradle ∧ t.heads = s.heads) ∧
  (∀ (s : State) (i : SlotNo) (o : Owner), s.Canonical → s.TableClean → s.skippedNow = [] →
     (s.slot i).owner = some o → o.leaf ≤ 2047 →
     ((s.leaf o.handle o.leaf).valid = true → (s.leaf o.handle o.leaf).errors = []) →
     let v := s.vol o.handle
     let face := s.face o.handle o.side
     let e := face.panel o.panel
     let t := s.settleDamaged i o
     let invalid := (s.leaf o.handle o.leaf).valid = false
     let stands := (s.leaf o.handle o.leaf).valid = true ∧ (s.slot i).generation = e.generation
     let flags := stands ∧ face.skip = false ∧ face.rescan = false
     let joins := flags ∧ v.state = .active
     let closes := v.state = .draining ∧ ∀ j, j ≠ i → (s.slot j).ownedBy o.handle = false
     let noted := s.links.station.notices
     let noted := if joins then addNotice noted StationNotice.rescanAdded.place else noted
     let noted := if closes then addNotice noted StationNotice.volumeDrained.place else noted
     SlotsFreed s t (fun j => j == i) ∧
     (¬stands → t.leaves = s.leaves) ∧
     (stands → FaceAlone s t o.handle o.side ∧
       (t.face o.handle o.side).panel o.panel = { e with number := o.panel, settled := .none } ∧
       (∀ p, p ≠ o.panel → (t.face o.handle o.side).panel? p = face.panel? p) ∧
       t.face o.handle o.side = { face with
         panels := (t.face o.handle o.side).panels, rescan := face.rescan || !face.skip }) ∧
     t = { s with
       links := { s.links with station := { s.links.station with notices := noted } }
       vols := s.vols.set o.handle { v with
         state := if closes then .closed else v.state
         counters := { v.counters with rescanOverflow :=
           if joins ∧ 64 ≤ s.rescan.length then v.counters.rescanOverflow + 1 else v.counters.rescanOverflow } }
       leaves := t.leaves, slots := t.slots, delivery := t.delivery
       rescan := if joins ∧ s.rescan.length < 64 then s.rescan ++ [o.side] else s.rescan
       faults := if invalid then { s.faults with skipped := min (s.faults.skipped + 1) 65535 } else s.faults
       skippedNow := t.skippedNow })

/-! ### What every step keeps -/

/-- Capture memory, the leaf records and the gain table keep their canonical form from every state that has it
(the form is the model's: log 1, log 3). -/
def Obligations.CanonicalFormIsKept : Prop :=
  ∀ s t : State, s.Canonical → step s = .next t → t.Canonical

/-- R1, R2, R3, R70, R79, R95: at most one volume is ACTIVE, every opening pointer lies in its volume, no volume's
dose exceeds its volume ceiling, the rescan list fits its places, and no word of the volume records or of the list
waits to be corrected (R178; log 4, log 6); every step keeps this from every state that has it. -/
def Obligations.AccountStaysInRange : Prop :=
  ∀ s t : State, s.AccountInRange → step s = .next t → t.AccountInRange

/-- R49, R87, R88, R105, R124, R130, R140, R99: every setting stays within its limits, bank levels and weights,
metering target, threshold and clip limit among them, and D_L and D_R between D_min and D_max, whatever a master
writes and whatever the part itself writes; every step keeps this from every state that has it. -/
def Obligations.SettingsStayInRange : Prop :=
  ∀ s t : State, s.SettingsInRange → step s = .next t → t.SettingsInRange

/-- R47, R48, R49, R53, R55, R56, R86: the interlock is kept by every step from every state that has it: outside READY
no bank is LIT and no capture is in flight, timers run in their states alone, a pending raise waits for a capture, and
the turn's phase and the cradle's state agree. -/
def Obligations.InterlockIsKept : Prop :=
  ∀ s t : State, s.Interlocked → step s = .next t → t.Interlocked
end

