-- ==== Sys2Proof/Laws/Sparse.lean ====
section
/-! SUPPORT. The sparse memories: what a read gives after a write, and that every operation keeps the
canonical form; capture memory's bytes are one of them. -/
namespace Sys2Proof.Laws
open Sys2Proof.Machine

variable {α : Type} [DecidableEq α]

/-- Every key of a sparse memory is above a bound. -/
def Above (b : Nat) (m : List (Nat × α)) : Prop := ∀ e ∈ m, b < e.1

theorem wf_cons_iff {d : α} {k : Nat} {v : α} {m : List (Nat × α)} :
    Sparse.wf d ((k, v) :: m) = true ↔ v ≠ d ∧ Above k m ∧ Sparse.wf d m = true := by
  induction m generalizing k v with
  | nil => simp [Sparse.wf, Above]
  | cons e m ih =>
    obtain ⟨k', v'⟩ := e
    simp only [Sparse.wf, Bool.and_eq_true, decide_eq_true_eq, Above, List.mem_cons,
      forall_eq_or_imp]
    constructor
    · rintro ⟨⟨hk, hv⟩, hw⟩
      exact ⟨hv, ⟨hk, fun e he => Nat.lt_trans hk ((ih.1 hw).2.1 e he)⟩, hw⟩
    · rintro ⟨hv, ⟨hk, -⟩, hw⟩
      exact ⟨⟨hk, hv⟩, hw⟩

theorem wf_nil {d : α} : Sparse.wf d [] = true := rfl

omit [DecidableEq α] in
theorem get_of_above {d : α} {m : List (Nat × α)} {x : Nat} (h : Above x m) :
    Sparse.get d m x = d := by
  induction m with
  | nil => rfl
  | cons e m ih =>
    obtain ⟨k, v⟩ := e
    have hk : x < k := h (k, v) List.mem_cons_self
    have : k ≠ x := by omega
    simp only [Sparse.get, this, if_false]
    exact ih fun e he => h e (List.mem_cons_of_mem _ he)

theorem above_set {d : α} {b : Nat} {m : List (Nat × α)} {x : Nat} {v : α} (hx : b < x)
    (h : Above b m) : Above b (Sparse.set d m x v) := by
  induction m with
  | nil =>
    unfold Sparse.set
    split
    · intro e he; simp at he
    · intro e he; simp at he; subst he; exact hx
  | cons e m ih =>
    obtain ⟨k, w⟩ := e
    have hk : b < k := h (k, w) List.mem_cons_self
    have hm : Above b m := fun e he => h e (List.mem_cons_of_mem _ he)
    have hset := ih hm
    unfold Sparse.set
    intro e he
    split at he
    · split at he
      · exact h e he
      · rcases List.mem_cons.1 he with rfl | he
        · exact hx
        · exact h e he
    · split at he
      · split at he
        · exact hm e he
        · rcases List.mem_cons.1 he with rfl | he
          · exact hx
          · exact hm e he
      · rcases List.mem_cons.1 he with rfl | he
        · exact hk
        · exact hset e he

/-- A write keeps the canonical form. -/
theorem wf_set {d : α} {m : List (Nat × α)} (x : Nat) (v : α) (h : Sparse.wf d m = true) :
    Sparse.wf d (Sparse.set d m x v) = true := by
  induction m with
  | nil =>
    unfold Sparse.set
    split
    · rfl
    · rename_i hv; simp [Sparse.wf, hv]
  | cons e m ih =>
    obtain ⟨k, w⟩ := e
    obtain ⟨hw, hab, hm⟩ := wf_cons_iff.1 h
    unfold Sparse.set
    split
    · rename_i hxk
      split
      · exact h
      · rename_i hv
        refine wf_cons_iff.2 ⟨hv, ?_, h⟩
        intro e he
        rcases List.mem_cons.1 he with rfl | he
        · exact hxk
        · exact Nat.lt_trans hxk (hab e he)
    · split
      · rename_i hxk
        subst hxk
        split
        · exact hm
        · rename_i hv; exact wf_cons_iff.2 ⟨hv, hab, hm⟩
      · rename_i h1 h2
        exact wf_cons_iff.2 ⟨hw, above_set (by omega) hab, ih hm⟩

/-- Reading after a write: the written value at its key, the old value elsewhere. -/
theorem get_set {d : α} {m : List (Nat × α)} (x : Nat) (v : α) (y : Nat)
    (h : Sparse.wf d m = true) :
    Sparse.get d (Sparse.set d m x v) y = if x = y then v else Sparse.get d m y := by
  induction m with
  | nil =>
    unfold Sparse.set
    split
    · rename_i hv; simp [Sparse.get, hv]
    · simp [Sparse.get]
  | cons e m ih =>
    obtain ⟨k, w⟩ := e
    obtain ⟨hw, hab, hm⟩ := wf_cons_iff.1 h
    have ih := ih hm
    unfold Sparse.set
    split
    · rename_i hxk
      by_cases hxy : x = y
      · subst hxy
        have habove : Above x ((k, w) :: m) := by
          intro e he
          rcases List.mem_cons.1 he with rfl | he
          · exact hxk
          · exact Nat.lt_trans hxk (hab e he)
        split
        · rename_i hv; simp [hv, get_of_above habove]
        · simp [Sparse.get]
      · split <;> simp [Sparse.get, hxy]
    · split
      · rename_i hxk
        subst hxk
        split
        · rename_i hv
          by_cases hxy : x = y
          · subst hxy; simp [hv, get_of_above hab]
          · simp [Sparse.get, hxy]
        · by_cases hxy : x = y <;> simp [Sparse.get, hxy]
      · rename_i h1 h2
        simp only [Sparse.get, ih]
        by_cases hky : k = y
        · have : x ≠ y := by omega
          simp [hky, this]
        · simp [hky]

/-- Erasing keys keeps the canonical form. -/
theorem wf_erase {d : α} {m : List (Nat × α)} (p : Nat → Bool) (h : Sparse.wf d m = true) :
    Sparse.wf d (Sparse.erase m p) = true := by
  induction m with
  | nil => rfl
  | cons e m ih =>
    obtain ⟨k, w⟩ := e
    obtain ⟨hw, hab, hm⟩ := wf_cons_iff.1 h
    unfold Sparse.erase at ih ⊢
    by_cases hp : p k
    · simpa [List.filter_cons, hp] using ih hm
    · simp only [List.filter_cons, hp]
      exact wf_cons_iff.2 ⟨hw, fun e he => hab e (List.mem_filter.1 he).1, ih hm⟩

omit [DecidableEq α] in
/-- Reading after an erasure. -/
theorem get_erase {d : α} {m : List (Nat × α)} (p : Nat → Bool) (y : Nat) :
    Sparse.get d (Sparse.erase m p) y = if p y then d else Sparse.get d m y := by
  induction m with
  | nil => simp [Sparse.erase, Sparse.get]
  | cons e m ih =>
    obtain ⟨k, w⟩ := e
    unfold Sparse.erase at ih ⊢
    by_cases hp : p k
    · by_cases hky : k = y
      · subst hky; simp [hp, ih]
      · simp [hp, ih, Sparse.get, hky]
    · by_cases hky : k = y
      · subst hky; simp [hp, Sparse.get]
      · simp [hp, ih, Sparse.get, hky]

/-- Reading a byte after writing one. -/
theorem readByte_writeByte {m : List Host.Cell} (a : Nat) (b : Byte) (x : Nat)
    (h : Memory.wf m = true) :
    readByte (writeByte m a b) x = if a = x then b else readByte m x :=
  get_set a b x h

theorem wf_writeByte {m : List Host.Cell} (a : Nat) (b : Byte) (h : Memory.wf m = true) :
    Memory.wf (writeByte m a b) = true := wf_set a b h

/-- Writing bytes keeps the canonical form of capture memory. -/
theorem wf_writeBytes (bs : List Byte) {m : List Host.Cell} (a : Nat) (h : Memory.wf m = true) :
    Memory.wf (writeBytes m a bs) = true := by
  induction bs generalizing m a with
  | nil => exact h
  | cons b bs ih => exact ih (a + 1) (wf_writeByte a b h)

/-- Reading a byte outside the written ones. -/
theorem readByte_writeBytes_outside (bs : List Byte) {m : List Host.Cell} (a x : Nat)
    (h : Memory.wf m = true) (hx : x < a ∨ a + bs.length ≤ x) :
    readByte (writeBytes m a bs) x = readByte m x := by
  induction bs generalizing m a with
  | nil => rfl
  | cons b bs ih =>
    have hlen : (b :: bs).length = bs.length + 1 := rfl
    have hne : a ≠ x := by omega
    rw [show writeBytes m a (b :: bs) = writeBytes (writeByte m a b) (a + 1) bs from rfl,
      ih (a + 1) (wf_writeByte a b h) (by omega), readByte_writeByte a b x h, if_neg hne]

/-- Reading a byte just written. -/
theorem readByte_writeBytes_inside (bs : List Byte) {m : List Host.Cell} (a i : Nat)
    (h : Memory.wf m = true) (hi : i < bs.length) :
    readByte (writeBytes m a bs) (a + i) = bs[i] := by
  induction bs generalizing m a i with
  | nil => simp at hi
  | cons b bs ih =>
    rw [show writeBytes m a (b :: bs) = writeBytes (writeByte m a b) (a + 1) bs from rfl]
    cases i with
    | zero =>
      show readByte (writeBytes (writeByte m a b) (a + 1) bs) a = b
      rw [readByte_writeBytes_outside bs (a + 1) a (wf_writeByte a b h)
        (Or.inl (Nat.lt_succ_self a)), readByte_writeByte a b a h, if_pos rfl]
    | succ i =>
      have := ih (a := a + 1) (i := i) (wf_writeByte a b h) (by simpa using hi)
      rw [show a + (i + 1) = a + 1 + i by omega, this]
      rfl

end Sys2Proof.Laws
end

