-- ==== Sys2Proof/Laws/State.lean ====
section
/-! SUPPORT. One lemma for each small update: what it writes, and that every other field of the state is
as it was. Each is a conjunction of equations true by definition, which simp takes one by one. -/
namespace Sys2Proof.Laws
open Sys2Proof.Machine

/-! ### One of a thing per head, handle, link, bank, channel -/

@[simp] theorem PerHead_get_set_same {α : Type} (p : PerHead α) (i : Head) (a : α) :
    (p.set i a).get i = a := by cases i <;> rfl

theorem PerHead_get_set_ne {α : Type} (p : PerHead α) {i j : Head} (a : α) (h : i ≠ j) :
    (p.set i a).get j = p.get j := by cases i <;> cases j <;> first | rfl | exact absurd rfl h

@[simp] theorem PerHead_set_get {α : Type} (p : PerHead α) (i : Head) : p.set i (p.get i) = p := by
  cases i <;> rfl

@[simp] theorem PerHead_set_set {α : Type} (p : PerHead α) (i : Head) (a b : α) :
    (p.set i a).set i b = p.set i b := by cases i <;> rfl

@[simp] theorem PerHandle_get_set_same {α : Type} (p : PerHandle α) (i : Handle) (a : α) :
    (p.set i a).get i = a := by cases i <;> rfl

theorem PerHandle_get_set_ne {α : Type} (p : PerHandle α) {i j : Handle} (a : α) (h : i ≠ j) :
    (p.set i a).get j = p.get j := by cases i <;> cases j <;> first | rfl | exact absurd rfl h

@[simp] theorem PerHandle_set_get {α : Type} (p : PerHandle α) (i : Handle) : p.set i (p.get i) = p := by
  cases i <;> rfl

@[simp] theorem PerHandle_set_set {α : Type} (p : PerHandle α) (i : Handle) (a b : α) :
    (p.set i a).set i b = p.set i b := by cases i <;> rfl

@[simp] theorem PerLink_get_set_same {α : Type} (p : PerLink α) (i : MasterLink) (a : α) :
    (p.set i a).get i = a := by cases i <;> rfl

theorem PerLink_get_set_ne {α : Type} (p : PerLink α) {i j : MasterLink} (a : α) (h : i ≠ j) :
    (p.set i a).get j = p.get j := by cases i <;> cases j <;> first | rfl | exact absurd rfl h

@[simp] theorem PerLink_set_get {α : Type} (p : PerLink α) (i : MasterLink) : p.set i (p.get i) = p := by
  cases i <;> rfl

@[simp] theorem PerLink_set_set {α : Type} (p : PerLink α) (i : MasterLink) (a b : α) :
    (p.set i a).set i b = p.set i b := by cases i <;> rfl

@[simp] theorem PerBank_get_set_same {α : Type} (p : PerBank α) (i : Bank) (a : α) :
    (p.set i a).get i = a := by cases i <;> rfl

theorem PerBank_get_set_ne {α : Type} (p : PerBank α) {i j : Bank} (a : α) (h : i ≠ j) :
    (p.set i a).get j = p.get j := by cases i <;> cases j <;> first | rfl | exact absurd rfl h

@[simp] theorem PerBank_set_get {α : Type} (p : PerBank α) (i : Bank) : p.set i (p.get i) = p := by
  cases i <;> rfl

@[simp] theorem PerBank_set_set {α : Type} (p : PerBank α) (i : Bank) (a b : α) :
    (p.set i a).set i b = p.set i b := by cases i <;> rfl

@[simp] theorem PerChannel_get_set_same {α : Type} (p : PerChannel α) (i : Channel) (a : α) :
    (p.set i a).get i = a := by cases i <;> rfl

theorem PerChannel_get_set_ne {α : Type} (p : PerChannel α) {i j : Channel} (a : α) (h : i ≠ j) :
    (p.set i a).get j = p.get j := by cases i <;> cases j <;> first | rfl | exact absurd rfl h

@[simp] theorem PerChannel_set_get {α : Type} (p : PerChannel α) (i : Channel) : p.set i (p.get i) = p := by
  cases i <;> rfl

@[simp] theorem PerChannel_set_set {α : Type} (p : PerChannel α) (i : Channel) (a b : α) :
    (p.set i a).set i b = p.set i b := by cases i <;> rfl

/-! ### The fields of the state after one update -/

@[simp] theorem fields_setLink (s : State) (l : MasterLink) (x : Link) :
    (s.setLink l x).pending = s.pending ∧ (s.setLink l x).links = s.links.set l x ∧
    (s.setLink l x).initRunning = s.initRunning ∧ (s.setLink l x).serial = s.serial ∧
    (s.setLink l x).vols = s.vols ∧ (s.setLink l x).leaves = s.leaves ∧
    (s.setLink l x).rescan = s.rescan ∧
    (s.setLink l x).rescanErrors = s.rescanErrors ∧ (s.setLink l x).slots = s.slots ∧
    (s.setLink l x).memory = s.memory ∧ (s.setLink l x).memoryErrors = s.memoryErrors ∧
    (s.setLink l x).full = s.full ∧ (s.setLink l x).requests = s.requests ∧
    (s.setLink l x).cradle = s.cradle ∧ (s.setLink l x).turn = s.turn ∧
    (s.setLink l x).timers = s.timers ∧ (s.setLink l x).light = s.light ∧
    (s.setLink l x).heads = s.heads ∧ (s.setLink l x).overlap = s.overlap ∧
    (s.setLink l x).gain = s.gain ∧ (s.setLink l x).keep = s.keep ∧ (s.setLink l x).run = s.run ∧
    (s.setLink l x).delivery = s.delivery ∧ (s.setLink l x).faults = s.faults ∧
    (s.setLink l x).skippedNow = s.skippedNow ∧ (s.setLink l x).draws = s.draws :=
  ⟨rfl, rfl, rfl, rfl, rfl, rfl, rfl, rfl, rfl, rfl, rfl, rfl, rfl, rfl, rfl, rfl, rfl, rfl,
    rfl, rfl, rfl, rfl, rfl, rfl, rfl, rfl⟩

@[simp] theorem fields_modLink (s : State) (l : MasterLink) (f : Link → Link) :
    (s.modLink l f).pending = s.pending ∧
    (s.modLink l f).links = s.links.set l (f (s.links.get l)) ∧
    (s.modLink l f).initRunning = s.initRunning ∧ (s.modLink l f).serial = s.serial ∧
    (s.modLink l f).vols = s.vols ∧ (s.modLink l f).leaves = s.leaves ∧
    (s.modLink l f).rescan = s.rescan ∧
    (s.modLink l f).rescanErrors = s.rescanErrors ∧ (s.modLink l f).slots = s.slots ∧
    (s.modLink l f).memory = s.memory ∧ (s.modLink l f).memoryErrors = s.memoryErrors ∧
    (s.modLink l f).full = s.full ∧ (s.modLink l f).requests = s.requests ∧
    (s.modLink l f).cradle = s.cradle ∧ (s.modLink l f).turn = s.turn ∧
    (s.modLink l f).timers = s.timers ∧ (s.modLink l f).light = s.light ∧
    (s.modLink l f).heads = s.heads ∧ (s.modLink l f).overlap = s.overlap ∧
    (s.modLink l f).gain = s.gain ∧ (s.modLink l f).keep = s.keep ∧ (s.modLink l f).run = s.run ∧
    (s.modLink l f).delivery = s.delivery ∧ (s.modLink l f).faults = s.faults ∧
    (s.modLink l f).skippedNow = s.skippedNow ∧ (s.modLink l f).draws = s.draws :=
  ⟨rfl, rfl, rfl, rfl, rfl, rfl, rfl, rfl, rfl, rfl, rfl, rfl, rfl, rfl, rfl, rfl, rfl, rfl,
    rfl, rfl, rfl, rfl, rfl, rfl, rfl, rfl⟩

@[simp] theorem fields_postStation (s : State) (n : StationNotice) :
    (s.postStation n).pending = s.pending ∧
    (s.postStation n).links = ⟨{ s.links.station with notices := addNotice s.links.station.notices n.place }, s.links.turner⟩ ∧
    (s.postStation n).initRunning = s.initRunning ∧ (s.postStation n).serial = s.serial ∧
    (s.postStation n).vols = s.vols ∧ (s.postStation n).leaves = s.leaves ∧
    (s.postStation n).rescan = s.rescan ∧
    (s.postStation n).rescanErrors = s.rescanErrors ∧ (s.postStation n).slots = s.slots ∧
    (s.postStation n).memory = s.memory ∧ (s.postStation n).memoryErrors = s.memoryErrors ∧
    (s.postStation n).full = s.full ∧ (s.postStation n).requests = s.requests ∧
    (s.postStation n).cradle = s.cradle ∧ (s.postStation n).turn = s.turn ∧
    (s.postStation n).timers = s.timers ∧ (s.postStation n).light = s.light ∧
    (s.postStation n).heads = s.heads ∧ (s.postStation n).overlap = s.overlap ∧
    (s.postStation n).gain = s.gain ∧ (s.postStation n).keep = s.keep ∧
    (s.postStation n).run = s.run ∧ (s.postStation n).delivery = s.delivery ∧
    (s.postStation n).faults = s.faults ∧ (s.postStation n).skippedNow = s.skippedNow ∧
    (s.postStation n).draws = s.draws :=
  ⟨rfl, rfl, rfl, rfl, rfl, rfl, rfl, rfl, rfl, rfl, rfl, rfl, rfl, rfl, rfl, rfl, rfl, rfl,
    rfl, rfl, rfl, rfl, rfl, rfl, rfl, rfl⟩

@[simp] theorem fields_postTurner (s : State) (n : TurnerNotice) :
    (s.postTurner n).pending = s.pending ∧
    (s.postTurner n).links = ⟨s.links.station, { s.links.turner with notices := addNotice s.links.turner.notices n.place }⟩ ∧
    (s.postTurner n).initRunning = s.initRunning ∧ (s.postTurner n).serial = s.serial ∧
    (s.postTurner n).vols = s.vols ∧ (s.postTurner n).leaves = s.leaves ∧
    (s.postTurner n).rescan = s.rescan ∧
    (s.postTurner n).rescanErrors = s.rescanErrors ∧ (s.postTurner n).slots = s.slots ∧
    (s.postTurner n).memory = s.memory ∧ (s.postTurner n).memoryErrors = s.memoryErrors ∧
    (s.postTurner n).full = s.full ∧ (s.postTurner n).requests = s.requests ∧
    (s.postTurner n).cradle = s.cradle ∧ (s.postTurner n).turn = s.turn ∧
    (s.postTurner n).timers = s.timers ∧ (s.postTurner n).light = s.light ∧
    (s.postTurner n).heads = s.heads ∧ (s.postTurner n).overlap = s.overlap ∧
    (s.postTurner n).gain = s.gain ∧ (s.postTurner n).keep = s.keep ∧
    (s.postTurner n).run = s.run ∧ (s.postTurner n).delivery = s.delivery ∧
    (s.postTurner n).faults = s.faults ∧ (s.postTurner n).skippedNow = s.skippedNow ∧
    (s.postTurner n).draws = s.draws :=
  ⟨rfl, rfl, rfl, rfl, rfl, rfl, rfl, rfl, rfl, rfl, rfl, rfl, rfl, rfl, rfl, rfl, rfl, rfl,
    rfl, rfl, rfl, rfl, rfl, rfl, rfl, rfl⟩

@[simp] theorem fields_unpostTurner (s : State) (n : TurnerNotice) :
    (s.unpostTurner n).pending = s.pending ∧
    (s.unpostTurner n).links = ⟨s.links.station, { s.links.turner with notices := removeNotice s.links.turner.notices n.place }⟩ ∧
    (s.unpostTurner n).initRunning = s.initRunning ∧ (s.unpostTurner n).serial = s.serial ∧
    (s.unpostTurner n).vols = s.vols ∧ (s.unpostTurner n).leaves = s.leaves ∧
    (s.unpostTurner n).rescan = s.rescan ∧
    (s.unpostTurner n).rescanErrors = s.rescanErrors ∧ (s.unpostTurner n).slots = s.slots ∧
    (s.unpostTurner n).memory = s.memory ∧ (s.unpostTurner n).memoryErrors = s.memoryErrors ∧
    (s.unpostTurner n).full = s.full ∧ (s.unpostTurner n).requests = s.requests ∧
    (s.unpostTurner n).cradle = s.cradle ∧ (s.unpostTurner n).turn = s.turn ∧
    (s.unpostTurner n).timers = s.timers ∧ (s.unpostTurner n).light = s.light ∧
    (s.unpostTurner n).heads = s.heads ∧ (s.unpostTurner n).overlap = s.overlap ∧
    (s.unpostTurner n).gain = s.gain ∧ (s.unpostTurner n).keep = s.keep ∧
    (s.unpostTurner n).run = s.run ∧ (s.unpostTurner n).delivery = s.delivery ∧
    (s.unpostTurner n).faults = s.faults ∧ (s.unpostTurner n).skippedNow = s.skippedNow ∧
    (s.unpostTurner n).draws = s.draws :=
  ⟨rfl, rfl, rfl, rfl, rfl, rfl, rfl, rfl, rfl, rfl, rfl, rfl, rfl, rfl, rfl, rfl, rfl, rfl,
    rfl, rfl, rfl, rfl, rfl, rfl, rfl, rfl⟩

@[simp] theorem fields_recovered (s : State) (c : FaultClass) (k : Nat) :
    (s.recovered c k).pending = s.pending ∧ (s.recovered c k).links = s.links ∧
    (s.recovered c k).initRunning = s.initRunning ∧ (s.recovered c k).serial = s.serial ∧
    (s.recovered c k).vols = s.vols ∧ (s.recovered c k).leaves = s.leaves ∧
    (s.recovered c k).rescan = s.rescan ∧
    (s.recovered c k).rescanErrors = s.rescanErrors ∧ (s.recovered c k).slots = s.slots ∧
    (s.recovered c k).memory = s.memory ∧ (s.recovered c k).memoryErrors = s.memoryErrors ∧
    (s.recovered c k).full = s.full ∧ (s.recovered c k).requests = s.requests ∧
    (s.recovered c k).cradle = s.cradle ∧ (s.recovered c k).turn = s.turn ∧
    (s.recovered c k).timers = s.timers ∧ (s.recovered c k).light = s.light ∧
    (s.recovered c k).heads = s.heads ∧ (s.recovered c k).overlap = s.overlap ∧
    (s.recovered c k).gain = s.gain ∧ (s.recovered c k).keep = s.keep ∧
    (s.recovered c k).run = s.run ∧ (s.recovered c k).delivery = s.delivery ∧
    (s.recovered c k).faults = s.faults.raise c k ∧ (s.recovered c k).skippedNow = s.skippedNow ∧
    (s.recovered c k).draws = s.draws :=
  ⟨rfl, rfl, rfl, rfl, rfl, rfl, rfl, rfl, rfl, rfl, rfl, rfl, rfl, rfl, rfl, rfl, rfl, rfl,
    rfl, rfl, rfl, rfl, rfl, rfl, rfl, rfl⟩

@[simp] theorem fields_report (s : State) (r : FaultRecord) :
    (s.report r).pending = s.pending ∧ (s.report r).initRunning = s.initRunning ∧
    (s.report r).serial = s.serial ∧ (s.report r).vols = s.vols ∧
    (s.report r).leaves = s.leaves ∧ (s.report r).rescan = s.rescan ∧
    (s.report r).rescanErrors = s.rescanErrors ∧
    (s.report r).slots = s.slots ∧ (s.report r).memory = s.memory ∧
    (s.report r).memoryErrors = s.memoryErrors ∧ (s.report r).full = s.full ∧
    (s.report r).requests = s.requests ∧ (s.report r).cradle = s.cradle ∧
    (s.report r).turn = s.turn ∧ (s.report r).timers = s.timers ∧ (s.report r).light = s.light ∧
    (s.report r).heads = s.heads ∧ (s.report r).overlap = s.overlap ∧
    (s.report r).gain = s.gain ∧ (s.report r).keep = s.keep ∧ (s.report r).run = s.run ∧
    (s.report r).delivery = s.delivery ∧
    (s.report r).faults = { s.faults.raise r.cls 1 with record := some r } ∧
    (s.report r).skippedNow = s.skippedNow ∧ (s.report r).draws = s.draws :=
  ⟨rfl, rfl, rfl, rfl, rfl, rfl, rfl, rfl, rfl, rfl, rfl, rfl, rfl, rfl, rfl, rfl, rfl, rfl,
    rfl, rfl, rfl, rfl, rfl, rfl, rfl⟩

@[simp] theorem fields_setLeaf (s : State) (h : Handle) (n : Nat) (r : LeafRecord) :
    (s.setLeaf h n r).pending = s.pending ∧ (s.setLeaf h n r).links = s.links ∧
    (s.setLeaf h n r).initRunning = s.initRunning ∧ (s.setLeaf h n r).serial = s.serial ∧
    (s.setLeaf h n r).vols = s.vols ∧
    (s.setLeaf h n r).leaves = Sparse.set (LeafRecord.fresh .leaf) s.leaves (leafKey h n) r ∧
    (s.setLeaf h n r).rescan = s.rescan ∧
    (s.setLeaf h n r).rescanErrors = s.rescanErrors ∧ (s.setLeaf h n r).slots = s.slots ∧
    (s.setLeaf h n r).memory = s.memory ∧ (s.setLeaf h n r).memoryErrors = s.memoryErrors ∧
    (s.setLeaf h n r).full = s.full ∧ (s.setLeaf h n r).requests = s.requests ∧
    (s.setLeaf h n r).cradle = s.cradle ∧ (s.setLeaf h n r).turn = s.turn ∧
    (s.setLeaf h n r).timers = s.timers ∧ (s.setLeaf h n r).light = s.light ∧
    (s.setLeaf h n r).heads = s.heads ∧ (s.setLeaf h n r).overlap = s.overlap ∧
    (s.setLeaf h n r).gain = s.gain ∧ (s.setLeaf h n r).keep = s.keep ∧
    (s.setLeaf h n r).run = s.run ∧ (s.setLeaf h n r).delivery = s.delivery ∧
    (s.setLeaf h n r).faults = s.faults ∧ (s.setLeaf h n r).skippedNow = s.skippedNow ∧
    (s.setLeaf h n r).draws = s.draws :=
  ⟨rfl, rfl, rfl, rfl, rfl, rfl, rfl, rfl, rfl, rfl, rfl, rfl, rfl, rfl, rfl, rfl, rfl, rfl,
    rfl, rfl, rfl, rfl, rfl, rfl, rfl, rfl⟩

@[simp] theorem fields_setFace (s : State) (h : Handle) (d : Side) (x : FaceRecord) :
    (s.setFace h d x).pending = s.pending ∧ (s.setFace h d x).links = s.links ∧
    (s.setFace h d x).initRunning = s.initRunning ∧ (s.setFace h d x).serial = s.serial ∧
    (s.setFace h d x).vols = s.vols ∧
    (s.setFace h d x).leaves = Sparse.set (LeafRecord.fresh .leaf) s.leaves (leafKey h d.leaf)
        ((s.leaf h d.leaf).setFace d.face x) ∧
    (s.setFace h d x).rescan = s.rescan ∧
    (s.setFace h d x).rescanErrors = s.rescanErrors ∧ (s.setFace h d x).slots = s.slots ∧
    (s.setFace h d x).memory = s.memory ∧ (s.setFace h d x).memoryErrors = s.memoryErrors ∧
    (s.setFace h d x).full = s.full ∧ (s.setFace h d x).requests = s.requests ∧
    (s.setFace h d x).cradle = s.cradle ∧ (s.setFace h d x).turn = s.turn ∧
    (s.setFace h d x).timers = s.timers ∧ (s.setFace h d x).light = s.light ∧
    (s.setFace h d x).heads = s.heads ∧ (s.setFace h d x).overlap = s.overlap ∧
    (s.setFace h d x).gain = s.gain ∧ (s.setFace h d x).keep = s.keep ∧
    (s.setFace h d x).run = s.run ∧ (s.setFace h d x).delivery = s.delivery ∧
    (s.setFace h d x).faults = s.faults ∧ (s.setFace h d x).skippedNow = s.skippedNow ∧
    (s.setFace h d x).draws = s.draws :=
  ⟨rfl, rfl, rfl, rfl, rfl, rfl, rfl, rfl, rfl, rfl, rfl, rfl, rfl, rfl, rfl, rfl, rfl, rfl,
    rfl, rfl, rfl, rfl, rfl, rfl, rfl, rfl⟩

@[simp] theorem fields_setSlot (s : State) (i : SlotNo) (x : Slot) :
    (s.setSlot i x).pending = s.pending ∧ (s.setSlot i x).links = s.links ∧
    (s.setSlot i x).initRunning = s.initRunning ∧ (s.setSlot i x).serial = s.serial ∧
    (s.setSlot i x).vols = s.vols ∧ (s.setSlot i x).leaves = s.leaves ∧
    (s.setSlot i x).rescan = s.rescan ∧
    (s.setSlot i x).rescanErrors = s.rescanErrors ∧ (s.setSlot i x).slots = s.slots.set i.val x i.isLt ∧
    (s.setSlot i x).memory = s.memory ∧ (s.setSlot i x).memoryErrors = s.memoryErrors ∧
    (s.setSlot i x).full = s.full ∧ (s.setSlot i x).requests = s.requests ∧
    (s.setSlot i x).cradle = s.cradle ∧ (s.setSlot i x).turn = s.turn ∧
    (s.setSlot i x).timers = s.timers ∧ (s.setSlot i x).light = s.light ∧
    (s.setSlot i x).heads = s.heads ∧ (s.setSlot i x).overlap = s.overlap ∧
    (s.setSlot i x).gain = s.gain ∧ (s.setSlot i x).keep = s.keep ∧ (s.setSlot i x).run = s.run ∧
    (s.setSlot i x).delivery = s.delivery ∧ (s.setSlot i x).faults = s.faults ∧
    (s.setSlot i x).skippedNow = s.skippedNow ∧ (s.setSlot i x).draws = s.draws :=
  ⟨rfl, rfl, rfl, rfl, rfl, rfl, rfl, rfl, rfl, rfl, rfl, rfl, rfl, rfl, rfl, rfl, rfl, rfl,
    rfl, rfl, rfl, rfl, rfl, rfl, rfl, rfl⟩

@[simp] theorem fields_modHead (s : State) (h : Head) (f : HeadUnit → HeadUnit) :
    (s.modHead h f).pending = s.pending ∧ (s.modHead h f).links = s.links ∧
    (s.modHead h f).initRunning = s.initRunning ∧ (s.modHead h f).serial = s.serial ∧
    (s.modHead h f).vols = s.vols ∧ (s.modHead h f).leaves = s.leaves ∧
    (s.modHead h f).rescan = s.rescan ∧
    (s.modHead h f).rescanErrors = s.rescanErrors ∧ (s.modHead h f).slots = s.slots ∧
    (s.modHead h f).memory = s.memory ∧ (s.modHead h f).memoryErrors = s.memoryErrors ∧
    (s.modHead h f).full = s.full ∧ (s.modHead h f).requests = s.requests ∧
    (s.modHead h f).cradle = s.cradle ∧ (s.modHead h f).turn = s.turn ∧
    (s.modHead h f).timers = s.timers ∧ (s.modHead h f).light = s.light ∧
    (s.modHead h f).heads = s.heads.set h (f (s.heads.get h)) ∧
    (s.modHead h f).overlap = s.overlap ∧ (s.modHead h f).gain = s.gain ∧
    (s.modHead h f).keep = s.keep ∧ (s.modHead h f).run = s.run ∧
    (s.modHead h f).delivery = s.delivery ∧ (s.modHead h f).faults = s.faults ∧
    (s.modHead h f).skippedNow = s.skippedNow ∧ (s.modHead h f).draws = s.draws :=
  ⟨rfl, rfl, rfl, rfl, rfl, rfl, rfl, rfl, rfl, rfl, rfl, rfl, rfl, rfl, rfl, rfl, rfl, rfl,
    rfl, rfl, rfl, rfl, rfl, rfl, rfl, rfl⟩

@[simp] theorem fields_setPort (s : State) (h : Head) (p : PortState) :
    (s.setPort h p).pending = s.pending ∧ (s.setPort h p).links = s.links ∧
    (s.setPort h p).initRunning = s.initRunning ∧ (s.setPort h p).serial = s.serial ∧
    (s.setPort h p).vols = s.vols ∧ (s.setPort h p).leaves = s.leaves ∧
    (s.setPort h p).rescan = s.rescan ∧
    (s.setPort h p).rescanErrors = s.rescanErrors ∧ (s.setPort h p).slots = s.slots ∧
    (s.setPort h p).memory = s.memory ∧ (s.setPort h p).memoryErrors = s.memoryErrors ∧
    (s.setPort h p).full = s.full ∧ (s.setPort h p).requests = s.requests ∧
    (s.setPort h p).cradle = s.cradle ∧ (s.setPort h p).turn = s.turn ∧
    (s.setPort h p).timers = s.timers ∧ (s.setPort h p).light = s.light ∧
    (s.setPort h p).heads = s.heads.set h { s.heads.get h with port := p } ∧
    (s.setPort h p).overlap = s.overlap ∧ (s.setPort h p).gain = s.gain ∧
    (s.setPort h p).keep = s.keep ∧ (s.setPort h p).run = s.run ∧
    (s.setPort h p).delivery = s.delivery ∧ (s.setPort h p).faults = s.faults ∧
    (s.setPort h p).skippedNow = s.skippedNow ∧ (s.setPort h p).draws = s.draws :=
  ⟨rfl, rfl, rfl, rfl, rfl, rfl, rfl, rfl, rfl, rfl, rfl, rfl, rfl, rfl, rfl, rfl, rfl, rfl,
    rfl, rfl, rfl, rfl, rfl, rfl, rfl, rfl⟩

@[simp] theorem fields_trigger (s : State) (h : Head) (k : CaptureKind) (i : Option SlotNo) (d : Option SidePanel) (t : Nat) :
    (s.trigger h k i d t).pending = s.pending ∧ (s.trigger h k i d t).links = s.links ∧
    (s.trigger h k i d t).initRunning = s.initRunning ∧ (s.trigger h k i d t).serial = s.serial ∧
    (s.trigger h k i d t).vols = s.vols ∧ (s.trigger h k i d t).leaves = s.leaves ∧
    (s.trigger h k i d t).rescan = s.rescan ∧
    (s.trigger h k i d t).rescanErrors = s.rescanErrors ∧ (s.trigger h k i d t).slots = s.slots ∧
    (s.trigger h k i d t).memory = s.memory ∧
    (s.trigger h k i d t).memoryErrors = s.memoryErrors ∧ (s.trigger h k i d t).full = s.full ∧
    (s.trigger h k i d t).requests = s.requests ∧ (s.trigger h k i d t).cradle = s.cradle ∧
    (s.trigger h k i d t).turn = s.turn ∧ (s.trigger h k i d t).timers = s.timers ∧
    (s.trigger h k i d t).light = s.light ∧
    (s.trigger h k i d t).heads = s.heads.set h ((s.heads.get h).start k i d (s.snapshot h t) (s.timers.frame.get h)) ∧
    (s.trigger h k i d t).overlap = s.overlap ∧ (s.trigger h k i d t).gain = s.gain ∧
    (s.trigger h k i d t).keep = s.keep ∧ (s.trigger h k i d t).run = s.run ∧
    (s.trigger h k i d t).delivery = s.delivery ∧ (s.trigger h k i d t).faults = s.faults ∧
    (s.trigger h k i d t).skippedNow = s.skippedNow ∧ (s.trigger h k i d t).draws = s.draws :=
  ⟨rfl, rfl, rfl, rfl, rfl, rfl, rfl, rfl, rfl, rfl, rfl, rfl, rfl, rfl, rfl, rfl, rfl, rfl,
    rfl, rfl, rfl, rfl, rfl, rfl, rfl, rfl⟩

@[simp] theorem fields_drawn (s : State) :
    (s.drawn).pending = s.pending ∧ (s.drawn).links = s.links ∧
    (s.drawn).initRunning = s.initRunning ∧ (s.drawn).serial = s.serial ∧
    (s.drawn).vols = s.vols ∧ (s.drawn).leaves = s.leaves ∧ (s.drawn).rescan = s.rescan ∧
    (s.drawn).rescanErrors = s.rescanErrors ∧
    (s.drawn).slots = s.slots ∧ (s.drawn).memory = s.memory ∧
    (s.drawn).memoryErrors = s.memoryErrors ∧ (s.drawn).full = s.full ∧
    (s.drawn).requests = s.requests ∧ (s.drawn).cradle = s.cradle ∧ (s.drawn).turn = s.turn ∧
    (s.drawn).timers = s.timers ∧ (s.drawn).light = s.light ∧ (s.drawn).heads = s.heads ∧
    (s.drawn).overlap = s.overlap ∧ (s.drawn).gain = s.gain ∧ (s.drawn).keep = s.keep ∧
    (s.drawn).run = s.run ∧ (s.drawn).delivery = s.delivery ∧ (s.drawn).faults = s.faults ∧
    (s.drawn).skippedNow = s.skippedNow ∧ (s.drawn).draws = s.draws + 1 :=
  ⟨rfl, rfl, rfl, rfl, rfl, rfl, rfl, rfl, rfl, rfl, rfl, rfl, rfl, rfl, rfl, rfl, rfl, rfl,
    rfl, rfl, rfl, rfl, rfl, rfl, rfl, rfl⟩

@[simp] theorem fields_countRequest (s : State) :
    (s.countRequest).pending = s.pending ∧ (s.countRequest).links = s.links ∧
    (s.countRequest).initRunning = s.initRunning ∧ (s.countRequest).serial = s.serial ∧
    (s.countRequest).vols = s.vols ∧ (s.countRequest).leaves = s.leaves ∧
    (s.countRequest).rescan = s.rescan ∧
    (s.countRequest).rescanErrors = s.rescanErrors ∧ (s.countRequest).slots = s.slots ∧
    (s.countRequest).memory = s.memory ∧ (s.countRequest).memoryErrors = s.memoryErrors ∧
    (s.countRequest).full = s.full ∧ (s.countRequest).requests = s.requests + 1 ∧
    (s.countRequest).cradle = s.cradle ∧ (s.countRequest).turn = s.turn ∧
    (s.countRequest).timers = s.timers ∧ (s.countRequest).light = s.light ∧
    (s.countRequest).heads = s.heads ∧ (s.countRequest).overlap = s.overlap ∧
    (s.countRequest).gain = s.gain ∧ (s.countRequest).keep = s.keep ∧
    (s.countRequest).run = s.run ∧ (s.countRequest).delivery = s.delivery ∧
    (s.countRequest).faults = s.faults ∧ (s.countRequest).skippedNow = s.skippedNow ∧
    (s.countRequest).draws = s.draws :=
  ⟨rfl, rfl, rfl, rfl, rfl, rfl, rfl, rfl, rfl, rfl, rfl, rfl, rfl, rfl, rfl, rfl, rfl, rfl,
    rfl, rfl, rfl, rfl, rfl, rfl, rfl, rfl⟩

@[simp] theorem fields_modRun (s : State) (f : RunRecord → RunRecord) :
    (s.modRun f).pending = s.pending ∧ (s.modRun f).links = s.links ∧
    (s.modRun f).initRunning = s.initRunning ∧ (s.modRun f).serial = s.serial ∧
    (s.modRun f).vols = s.vols ∧ (s.modRun f).leaves = s.leaves ∧
    (s.modRun f).rescan = s.rescan ∧
    (s.modRun f).rescanErrors = s.rescanErrors ∧ (s.modRun f).slots = s.slots ∧
    (s.modRun f).memory = s.memory ∧ (s.modRun f).memoryErrors = s.memoryErrors ∧
    (s.modRun f).full = s.full ∧ (s.modRun f).requests = s.requests ∧
    (s.modRun f).cradle = s.cradle ∧ (s.modRun f).turn = s.turn ∧
    (s.modRun f).timers = s.timers ∧ (s.modRun f).light = s.light ∧
    (s.modRun f).heads = s.heads ∧ (s.modRun f).overlap = s.overlap ∧
    (s.modRun f).gain = s.gain ∧ (s.modRun f).keep = s.keep ∧ (s.modRun f).run = f s.run ∧
    (s.modRun f).delivery = s.delivery ∧ (s.modRun f).faults = s.faults ∧
    (s.modRun f).skippedNow = s.skippedNow ∧ (s.modRun f).draws = s.draws :=
  ⟨rfl, rfl, rfl, rfl, rfl, rfl, rfl, rfl, rfl, rfl, rfl, rfl, rfl, rfl, rfl, rfl, rfl, rfl,
    rfl, rfl, rfl, rfl, rfl, rfl, rfl, rfl⟩

@[simp] theorem fields_modCradle (s : State) (f : Cradle → Cradle) :
    (s.modCradle f).pending = s.pending ∧ (s.modCradle f).links = s.links ∧
    (s.modCradle f).initRunning = s.initRunning ∧ (s.modCradle f).serial = s.serial ∧
    (s.modCradle f).vols = s.vols ∧ (s.modCradle f).leaves = s.leaves ∧
    (s.modCradle f).rescan = s.rescan ∧
    (s.modCradle f).rescanErrors = s.rescanErrors ∧ (s.modCradle f).slots = s.slots ∧
    (s.modCradle f).memory = s.memory ∧ (s.modCradle f).memoryErrors = s.memoryErrors ∧
    (s.modCradle f).full = s.full ∧ (s.modCradle f).requests = s.requests ∧
    (s.modCradle f).cradle = f s.cradle ∧ (s.modCradle f).turn = s.turn ∧
    (s.modCradle f).timers = s.timers ∧ (s.modCradle f).light = s.light ∧
    (s.modCradle f).heads = s.heads ∧ (s.modCradle f).overlap = s.overlap ∧
    (s.modCradle f).gain = s.gain ∧ (s.modCradle f).keep = s.keep ∧ (s.modCradle f).run = s.run ∧
    (s.modCradle f).delivery = s.delivery ∧ (s.modCradle f).faults = s.faults ∧
    (s.modCradle f).skippedNow = s.skippedNow ∧ (s.modCradle f).draws = s.draws :=
  ⟨rfl, rfl, rfl, rfl, rfl, rfl, rfl, rfl, rfl, rfl, rfl, rfl, rfl, rfl, rfl, rfl, rfl, rfl,
    rfl, rfl, rfl, rfl, rfl, rfl, rfl, rfl⟩

@[simp] theorem fields_setGain (s : State) (k : Nat) (e : GainEntry) :
    (s.setGain k e).pending = s.pending ∧ (s.setGain k e).links = s.links ∧
    (s.setGain k e).initRunning = s.initRunning ∧ (s.setGain k e).serial = s.serial ∧
    (s.setGain k e).vols = s.vols ∧ (s.setGain k e).leaves = s.leaves ∧
    (s.setGain k e).rescan = s.rescan ∧
    (s.setGain k e).rescanErrors = s.rescanErrors ∧ (s.setGain k e).slots = s.slots ∧
    (s.setGain k e).memory = s.memory ∧ (s.setGain k e).memoryErrors = s.memoryErrors ∧
    (s.setGain k e).full = s.full ∧ (s.setGain k e).requests = s.requests ∧
    (s.setGain k e).cradle = s.cradle ∧ (s.setGain k e).turn = s.turn ∧
    (s.setGain k e).timers = s.timers ∧ (s.setGain k e).light = s.light ∧
    (s.setGain k e).heads = s.heads ∧ (s.setGain k e).overlap = s.overlap ∧
    (s.setGain k e).gain = Sparse.set GainEntry.unity s.gain k e ∧
    (s.setGain k e).keep = s.keep ∧ (s.setGain k e).run = s.run ∧
    (s.setGain k e).delivery = s.delivery ∧ (s.setGain k e).faults = s.faults ∧
    (s.setGain k e).skippedNow = s.skippedNow ∧ (s.setGain k e).draws = s.draws :=
  ⟨rfl, rfl, rfl, rfl, rfl, rfl, rfl, rfl, rfl, rfl, rfl, rfl, rfl, rfl, rfl, rfl, rfl, rfl,
    rfl, rfl, rfl, rfl, rfl, rfl, rfl, rfl⟩

@[simp] theorem fields_modDelivery (s : State) (f : Delivery → Delivery) :
    (s.modDelivery f).pending = s.pending ∧ (s.modDelivery f).links = s.links ∧
    (s.modDelivery f).initRunning = s.initRunning ∧ (s.modDelivery f).serial = s.serial ∧
    (s.modDelivery f).vols = s.vols ∧ (s.modDelivery f).leaves = s.leaves ∧
    (s.modDelivery f).rescan = s.rescan ∧
    (s.modDelivery f).rescanErrors = s.rescanErrors ∧ (s.modDelivery f).slots = s.slots ∧
    (s.modDelivery f).memory = s.memory ∧ (s.modDelivery f).memoryErrors = s.memoryErrors ∧
    (s.modDelivery f).full = s.full ∧ (s.modDelivery f).requests = s.requests ∧
    (s.modDelivery f).cradle = s.cradle ∧ (s.modDelivery f).turn = s.turn ∧
    (s.modDelivery f).timers = s.timers ∧ (s.modDelivery f).light = s.light ∧
    (s.modDelivery f).heads = s.heads ∧ (s.modDelivery f).overlap = s.overlap ∧
    (s.modDelivery f).gain = s.gain ∧ (s.modDelivery f).keep = s.keep ∧
    (s.modDelivery f).run = s.run ∧
    (s.modDelivery f).delivery = { s.delivery with current := s.delivery.current.map f } ∧
    (s.modDelivery f).faults = s.faults ∧ (s.modDelivery f).skippedNow = s.skippedNow ∧
    (s.modDelivery f).draws = s.draws :=
  ⟨rfl, rfl, rfl, rfl, rfl, rfl, rfl, rfl, rfl, rfl, rfl, rfl, rfl, rfl, rfl, rfl, rfl, rfl,
    rfl, rfl, rfl, rfl, rfl, rfl, rfl, rfl⟩

@[simp] theorem fields_withQueue (s : State) (q : List Instr) :
    (s.withQueue q).pending = q ∧ (s.withQueue q).links = s.links ∧
    (s.withQueue q).initRunning = s.initRunning ∧ (s.withQueue q).serial = s.serial ∧
    (s.withQueue q).vols = s.vols ∧ (s.withQueue q).leaves = s.leaves ∧
    (s.withQueue q).rescan = s.rescan ∧
    (s.withQueue q).rescanErrors = s.rescanErrors ∧ (s.withQueue q).slots = s.slots ∧
    (s.withQueue q).memory = s.memory ∧ (s.withQueue q).memoryErrors = s.memoryErrors ∧
    (s.withQueue q).full = s.full ∧ (s.withQueue q).requests = s.requests ∧
    (s.withQueue q).cradle = s.cradle ∧ (s.withQueue q).turn = s.turn ∧
    (s.withQueue q).timers = s.timers ∧ (s.withQueue q).light = s.light ∧
    (s.withQueue q).heads = s.heads ∧ (s.withQueue q).overlap = s.overlap ∧
    (s.withQueue q).gain = s.gain ∧ (s.withQueue q).keep = s.keep ∧ (s.withQueue q).run = s.run ∧
    (s.withQueue q).delivery = s.delivery ∧ (s.withQueue q).faults = s.faults ∧
    (s.withQueue q).skippedNow = s.skippedNow ∧ (s.withQueue q).draws = s.draws :=
  ⟨rfl, rfl, rfl, rfl, rfl, rfl, rfl, rfl, rfl, rfl, rfl, rfl, rfl, rfl, rfl, rfl, rfl, rfl,
    rfl, rfl, rfl, rfl, rfl, rfl, rfl, rfl⟩

@[simp] theorem fields_enter (s : State) (st : CradleState) :
    (s.enter st).pending = s.pending ∧ (s.enter st).links = s.links ∧
    (s.enter st).initRunning = s.initRunning ∧ (s.enter st).serial = s.serial ∧
    (s.enter st).vols = s.vols ∧ (s.enter st).leaves = s.leaves ∧
    (s.enter st).rescan = s.rescan ∧
    (s.enter st).rescanErrors = s.rescanErrors ∧ (s.enter st).slots = s.slots ∧
    (s.enter st).memory = s.memory ∧ (s.enter st).memoryErrors = s.memoryErrors ∧
    (s.enter st).full = s.full ∧ (s.enter st).requests = s.requests ∧
    (s.enter st).turn = s.turn ∧ (s.enter st).timers = s.timers ∧ (s.enter st).heads = s.heads ∧
    (s.enter st).overlap = s.overlap ∧ (s.enter st).gain = s.gain ∧ (s.enter st).keep = s.keep ∧
    (s.enter st).run = s.run ∧ (s.enter st).delivery = s.delivery ∧
    (s.enter st).faults = s.faults ∧ (s.enter st).skippedNow = s.skippedNow ∧
    (s.enter st).draws = s.draws :=
  ⟨rfl, rfl, rfl, rfl, rfl, rfl, rfl, rfl, rfl, rfl, rfl, rfl, rfl, rfl, rfl, rfl, rfl, rfl,
    rfl, rfl, rfl, rfl, rfl, rfl⟩

@[simp] theorem fields_fire (s : State) (k : CaptureKind) (l : PerHead (Option LightLatch)) (c : Option (Nat × PerHead (Option Side))) :
    (s.fire k l c).pending = s.pending ∧ (s.fire k l c).links = s.links ∧
    (s.fire k l c).initRunning = s.initRunning ∧ (s.fire k l c).serial = s.serial ∧
    (s.fire k l c).vols = s.vols ∧ (s.fire k l c).leaves = s.leaves ∧
    (s.fire k l c).rescan = s.rescan ∧
    (s.fire k l c).rescanErrors = s.rescanErrors ∧ (s.fire k l c).slots = s.slots ∧
    (s.fire k l c).memory = s.memory ∧ (s.fire k l c).memoryErrors = s.memoryErrors ∧
    (s.fire k l c).full = s.full ∧ (s.fire k l c).requests = s.requests ∧
    (s.fire k l c).cradle = s.cradle ∧ (s.fire k l c).turn = s.turn ∧
    (s.fire k l c).timers = s.timers ∧ (s.fire k l c).heads = s.heads ∧
    (s.fire k l c).overlap = s.overlap ∧ (s.fire k l c).gain = s.gain ∧
    (s.fire k l c).keep = s.keep ∧ (s.fire k l c).run = s.run ∧
    (s.fire k l c).delivery = s.delivery ∧ (s.fire k l c).faults = s.faults ∧
    (s.fire k l c).skippedNow = s.skippedNow ∧ (s.fire k l c).draws = s.draws :=
  ⟨rfl, rfl, rfl, rfl, rfl, rfl, rfl, rfl, rfl, rfl, rfl, rfl, rfl, rfl, rfl, rfl, rfl, rfl,
    rfl, rfl, rfl, rfl, rfl, rfl, rfl⟩

@[simp] theorem fields_writeLine (s : State) (i : SlotNo) (l : Nat) (v : List Word) :
    (s.writeLine i l v).pending = s.pending ∧ (s.writeLine i l v).links = s.links ∧
    (s.writeLine i l v).initRunning = s.initRunning ∧ (s.writeLine i l v).serial = s.serial ∧
    (s.writeLine i l v).vols = s.vols ∧ (s.writeLine i l v).leaves = s.leaves ∧
    (s.writeLine i l v).rescan = s.rescan ∧
    (s.writeLine i l v).rescanErrors = s.rescanErrors ∧ (s.writeLine i l v).slots = s.slots ∧
    (s.writeLine i l v).memory = writeBytes s.memory (sampleAddress i l 0 0) (v.flatMap sampleBytes) ∧
    (s.writeLine i l v).full = s.full ∧ (s.writeLine i l v).requests = s.requests ∧
    (s.writeLine i l v).cradle = s.cradle ∧ (s.writeLine i l v).turn = s.turn ∧
    (s.writeLine i l v).timers = s.timers ∧ (s.writeLine i l v).light = s.light ∧
    (s.writeLine i l v).heads = s.heads ∧ (s.writeLine i l v).overlap = s.overlap ∧
    (s.writeLine i l v).gain = s.gain ∧ (s.writeLine i l v).keep = s.keep ∧
    (s.writeLine i l v).run = s.run ∧ (s.writeLine i l v).delivery = s.delivery ∧
    (s.writeLine i l v).faults = s.faults ∧ (s.writeLine i l v).skippedNow = s.skippedNow ∧
    (s.writeLine i l v).draws = s.draws :=
  ⟨rfl, rfl, rfl, rfl, rfl, rfl, rfl, rfl, rfl, rfl, rfl, rfl, rfl, rfl, rfl, rfl, rfl, rfl,
    rfl, rfl, rfl, rfl, rfl, rfl, rfl⟩

/-! ### Reads of the volume records and the rescan list (R178, log 6) -/

/-- What a corrected record holds is what it held. -/
@[simp] theorem fields_corrected (v : Volume) :
    v.corrected.state = v.state ∧ v.corrected.serial = v.serial ∧
    v.corrected.shelfMark = v.shelfMark ∧ v.corrected.partSequence = v.partSequence ∧
    v.corrected.leaves = v.leaves ∧ v.corrected.opening = v.opening ∧
    v.corrected.uncertain = v.uncertain ∧ v.corrected.discarded = v.discarded ∧
    v.corrected.dose = v.dose ∧ v.corrected.volumeCeiling = v.volumeCeiling ∧
    v.corrected.sideCeiling = v.sideCeiling ∧
    v.corrected.highestSideDose = v.highestSideDose ∧ v.corrected.counters = v.counters ∧
    v.corrected.errors = ⟨0, v.errors.uncorrectable⟩ :=
  ⟨rfl, rfl, rfl, rfl, rfl, rfl, rfl, rfl, rfl, rfl, rfl, rfl, rfl, rfl⟩

/-- A record without a single error is corrected already. -/
theorem corrected_of_clean {v : Volume} (h : v.errors.single = 0) : v.corrected = v := by
  cases v with
  | mk _ _ _ _ _ _ _ _ _ _ _ _ _ e => cases e; simp only at h; subst h; rfl

theorem vols_of_clean {s : State} {h : Handle} (c : (s.vol h).errors.single = 0) :
    s.vols = s.vols.set h (s.vols.get h).corrected := by
  exact ((congrArg _ (corrected_of_clean c)).trans (PerHandle_set_get _ _)).symm

theorem errors_of_clean {e : WordErrors} (h : e.single = 0) : e = ⟨0, e.uncorrectable⟩ := by
  cases e; simp only at h; subst h; rfl

/-- A read of a record without a single error is a read alone. -/
theorem readVolume_of_clean {s : State} {h : Handle} (c : (s.vol h).errors.single = 0) :
    s.readVolume h = s := if_pos c

/-- A read of a rescan list without a single error is a read alone. -/
theorem readRescan_of_clean {s : State} (c : s.rescanErrors.single = 0) : s.readRescan = s := if_pos c

theorem vol_clean {s : State} (c : s.TableClean) (h : Handle) : (s.vol h).errors.single = 0 := by
  cases h
  · exact c.zero
  · exact c.one

theorem readActive_of_clean {s : State} (c : s.TableClean) : s.readActive = s := by
  unfold State.readActive
  split
  · rfl
  · exact readVolume_of_clean (vol_clean c _)

/-- A partial write of a record without a single error. -/
theorem modVol_of_clean {s : State} {h : Handle} (c : (s.vol h).errors.single = 0)
    (f : Volume → Volume) : s.modVol h f = { s with vols := s.vols.set h (f (s.vol h)) } := by
  unfold State.modVol
  rw [readVolume_of_clean c]
  rfl

@[simp] theorem fields_readVolume (s : State) (h : Handle) :
    (s.readVolume h).pending = s.pending ∧ (s.readVolume h).links = s.links ∧
    (s.readVolume h).initRunning = s.initRunning ∧ (s.readVolume h).serial = s.serial ∧
    (s.readVolume h).vols = s.vols.set h (s.vols.get h).corrected ∧
    (s.readVolume h).leaves = s.leaves ∧ (s.readVolume h).rescan = s.rescan ∧
    (s.readVolume h).rescanErrors = s.rescanErrors ∧ (s.readVolume h).slots = s.slots ∧
    (s.readVolume h).memory = s.memory ∧ (s.readVolume h).memoryErrors = s.memoryErrors ∧
    (s.readVolume h).full = s.full ∧ (s.readVolume h).requests = s.requests ∧
    (s.readVolume h).cradle = s.cradle ∧ (s.readVolume h).turn = s.turn ∧
    (s.readVolume h).timers = s.timers ∧ (s.readVolume h).light = s.light ∧
    (s.readVolume h).heads = s.heads ∧ (s.readVolume h).overlap = s.overlap ∧
    (s.readVolume h).gain = s.gain ∧ (s.readVolume h).keep = s.keep ∧ (s.readVolume h).run = s.run ∧
    (s.readVolume h).delivery = s.delivery ∧ (s.readVolume h).skippedNow = s.skippedNow ∧
    (s.readVolume h).draws = s.draws := by
  unfold State.readVolume
  split
  · rename_i c
    exact ⟨rfl, rfl, rfl, rfl, vols_of_clean c, rfl, rfl, rfl, rfl, rfl, rfl, rfl, rfl, rfl, rfl, rfl, rfl, rfl, rfl, rfl, rfl, rfl, rfl, rfl, rfl⟩
  · exact ⟨rfl, rfl, rfl, rfl, rfl, rfl, rfl, rfl, rfl, rfl, rfl, rfl, rfl, rfl, rfl, rfl, rfl, rfl, rfl, rfl, rfl, rfl, rfl, rfl, rfl⟩

@[simp] theorem fields_putVol (s : State) (h : Handle) (v : Volume) :
    (s.putVol h v).pending = s.pending ∧ (s.putVol h v).links = s.links ∧
    (s.putVol h v).initRunning = s.initRunning ∧ (s.putVol h v).serial = s.serial ∧
    (s.putVol h v).vols = s.vols.set h { v with errors := WordErrors.clean } ∧
    (s.putVol h v).leaves = s.leaves ∧ (s.putVol h v).rescan = s.rescan ∧
    (s.putVol h v).rescanErrors = s.rescanErrors ∧ (s.putVol h v).slots = s.slots ∧
    (s.putVol h v).memory = s.memory ∧ (s.putVol h v).memoryErrors = s.memoryErrors ∧
    (s.putVol h v).full = s.full ∧ (s.putVol h v).requests = s.requests ∧
    (s.putVol h v).cradle = s.cradle ∧ (s.putVol h v).turn = s.turn ∧
    (s.putVol h v).timers = s.timers ∧ (s.putVol h v).light = s.light ∧
    (s.putVol h v).heads = s.heads ∧ (s.putVol h v).overlap = s.overlap ∧
    (s.putVol h v).gain = s.gain ∧ (s.putVol h v).keep = s.keep ∧ (s.putVol h v).run = s.run ∧
    (s.putVol h v).delivery = s.delivery ∧ (s.putVol h v).faults = s.faults ∧
    (s.putVol h v).skippedNow = s.skippedNow ∧ (s.putVol h v).draws = s.draws :=
  ⟨rfl, rfl, rfl, rfl, rfl, rfl, rfl, rfl, rfl, rfl, rfl, rfl, rfl, rfl, rfl, rfl, rfl, rfl, rfl, rfl, rfl, rfl, rfl, rfl, rfl, rfl⟩

@[simp] theorem fields_modVol (s : State) (h : Handle) (f : Volume → Volume) :
    (s.modVol h f).pending = s.pending ∧ (s.modVol h f).links = s.links ∧
    (s.modVol h f).initRunning = s.initRunning ∧ (s.modVol h f).serial = s.serial ∧
    (s.modVol h f).vols = s.vols.set h (f (s.vols.get h).corrected) ∧
    (s.modVol h f).leaves = s.leaves ∧ (s.modVol h f).rescan = s.rescan ∧
    (s.modVol h f).rescanErrors = s.rescanErrors ∧ (s.modVol h f).slots = s.slots ∧
    (s.modVol h f).memory = s.memory ∧ (s.modVol h f).memoryErrors = s.memoryErrors ∧
    (s.modVol h f).full = s.full ∧ (s.modVol h f).requests = s.requests ∧
    (s.modVol h f).cradle = s.cradle ∧ (s.modVol h f).turn = s.turn ∧
    (s.modVol h f).timers = s.timers ∧ (s.modVol h f).light = s.light ∧
    (s.modVol h f).heads = s.heads ∧ (s.modVol h f).overlap = s.overlap ∧
    (s.modVol h f).gain = s.gain ∧ (s.modVol h f).keep = s.keep ∧ (s.modVol h f).run = s.run ∧
    (s.modVol h f).delivery = s.delivery ∧ (s.modVol h f).skippedNow = s.skippedNow ∧
    (s.modVol h f).draws = s.draws := by
  have k := fields_readVolume s h
  simp only [State.modVol, k, PerHandle_get_set_same, PerHandle_set_set, and_self]

@[simp] theorem fields_count (s : State) (h : Handle) (f : VolumeCounters → VolumeCounters) :
    (s.count h f).pending = s.pending ∧ (s.count h f).links = s.links ∧
    (s.count h f).initRunning = s.initRunning ∧ (s.count h f).serial = s.serial ∧
    (s.count h f).vols = s.vols.set h
      { (s.vols.get h).corrected with counters := f (s.vols.get h).counters } ∧
    (s.count h f).leaves = s.leaves ∧ (s.count h f).rescan = s.rescan ∧
    (s.count h f).rescanErrors = s.rescanErrors ∧ (s.count h f).slots = s.slots ∧
    (s.count h f).memory = s.memory ∧ (s.count h f).memoryErrors = s.memoryErrors ∧
    (s.count h f).full = s.full ∧ (s.count h f).requests = s.requests ∧
    (s.count h f).cradle = s.cradle ∧ (s.count h f).turn = s.turn ∧
    (s.count h f).timers = s.timers ∧ (s.count h f).light = s.light ∧
    (s.count h f).heads = s.heads ∧ (s.count h f).overlap = s.overlap ∧
    (s.count h f).gain = s.gain ∧ (s.count h f).keep = s.keep ∧ (s.count h f).run = s.run ∧
    (s.count h f).delivery = s.delivery ∧ (s.count h f).skippedNow = s.skippedNow ∧
    (s.count h f).draws = s.draws :=
  fields_modVol s h fun v => { v with counters := f v.counters }

@[simp] theorem fields_readRescan (s : State) :
    (s.readRescan).pending = s.pending ∧ (s.readRescan).links = s.links ∧
    (s.readRescan).initRunning = s.initRunning ∧ (s.readRescan).serial = s.serial ∧
    (s.readRescan).vols = s.vols ∧ (s.readRescan).leaves = s.leaves ∧
    (s.readRescan).rescan = s.rescan ∧
    (s.readRescan).rescanErrors = ⟨0, s.rescanErrors.uncorrectable⟩ ∧
    (s.readRescan).slots = s.slots ∧ (s.readRescan).memory = s.memory ∧
    (s.readRescan).memoryErrors = s.memoryErrors ∧ (s.readRescan).full = s.full ∧
    (s.readRescan).requests = s.requests ∧ (s.readRescan).cradle = s.cradle ∧
    (s.readRescan).turn = s.turn ∧ (s.readRescan).timers = s.timers ∧
    (s.readRescan).light = s.light ∧ (s.readRescan).heads = s.heads ∧
    (s.readRescan).overlap = s.overlap ∧ (s.readRescan).gain = s.gain ∧
    (s.readRescan).keep = s.keep ∧ (s.readRescan).run = s.run ∧
    (s.readRescan).delivery = s.delivery ∧ (s.readRescan).skippedNow = s.skippedNow ∧
    (s.readRescan).draws = s.draws := by
  unfold State.readRescan
  split
  · rename_i c
    exact ⟨rfl, rfl, rfl, rfl, rfl, rfl, rfl, errors_of_clean c, rfl, rfl, rfl, rfl, rfl, rfl, rfl, rfl, rfl, rfl, rfl, rfl, rfl, rfl, rfl, rfl, rfl⟩
  · exact ⟨rfl, rfl, rfl, rfl, rfl, rfl, rfl, rfl, rfl, rfl, rfl, rfl, rfl, rfl, rfl, rfl, rfl, rfl, rfl, rfl, rfl, rfl, rfl, rfl, rfl⟩

@[simp] theorem fields_emptyRescan (s : State) :
    (s.emptyRescan).pending = s.pending ∧ (s.emptyRescan).links = s.links ∧
    (s.emptyRescan).initRunning = s.initRunning ∧ (s.emptyRescan).serial = s.serial ∧
    (s.emptyRescan).vols = s.vols ∧ (s.emptyRescan).leaves = s.leaves ∧
    (s.emptyRescan).rescan = [] ∧ (s.emptyRescan).rescanErrors = WordErrors.clean ∧
    (s.emptyRescan).slots = s.slots ∧ (s.emptyRescan).memory = s.memory ∧
    (s.emptyRescan).memoryErrors = s.memoryErrors ∧ (s.emptyRescan).full = s.full ∧
    (s.emptyRescan).requests = s.requests ∧ (s.emptyRescan).cradle = s.cradle ∧
    (s.emptyRescan).turn = s.turn ∧ (s.emptyRescan).timers = s.timers ∧
    (s.emptyRescan).light = s.light ∧ (s.emptyRescan).heads = s.heads ∧
    (s.emptyRescan).overlap = s.overlap ∧ (s.emptyRescan).gain = s.gain ∧
    (s.emptyRescan).keep = s.keep ∧ (s.emptyRescan).run = s.run ∧
    (s.emptyRescan).delivery = s.delivery ∧ (s.emptyRescan).faults = s.faults ∧
    (s.emptyRescan).skippedNow = s.skippedNow ∧ (s.emptyRescan).draws = s.draws :=
  ⟨rfl, rfl, rfl, rfl, rfl, rfl, rfl, rfl, rfl, rfl, rfl, rfl, rfl, rfl, rfl, rfl, rfl, rfl, rfl, rfl, rfl, rfl, rfl, rfl, rfl, rfl⟩

@[simp] theorem fields_readActive (s : State) :
    (s.readActive).pending = s.pending ∧ (s.readActive).links = s.links ∧
    (s.readActive).initRunning = s.initRunning ∧ (s.readActive).serial = s.serial ∧
    (s.readActive).leaves = s.leaves ∧ (s.readActive).rescan = s.rescan ∧
    (s.readActive).rescanErrors = s.rescanErrors ∧ (s.readActive).slots = s.slots ∧
    (s.readActive).memory = s.memory ∧ (s.readActive).memoryErrors = s.memoryErrors ∧
    (s.readActive).full = s.full ∧ (s.readActive).requests = s.requests ∧
    (s.readActive).cradle = s.cradle ∧ (s.readActive).turn = s.turn ∧
    (s.readActive).timers = s.timers ∧ (s.readActive).light = s.light ∧
    (s.readActive).heads = s.heads ∧ (s.readActive).overlap = s.overlap ∧
    (s.readActive).gain = s.gain ∧ (s.readActive).keep = s.keep ∧ (s.readActive).run = s.run ∧
    (s.readActive).delivery = s.delivery ∧ (s.readActive).skippedNow = s.skippedNow ∧
    (s.readActive).draws = s.draws := by
  unfold State.readActive
  split
  · exact ⟨rfl, rfl, rfl, rfl, rfl, rfl, rfl, rfl, rfl, rfl, rfl, rfl, rfl, rfl, rfl, rfl, rfl, rfl, rfl, rfl, rfl, rfl, rfl, rfl⟩
  · have k := fields_readVolume s
    simp only [k, and_self]

@[simp] theorem fields_endRun (s : State) (e : EndReason) (d : EndDetail) :
    (s.endRun e d).pending = s.pending ∧ (s.endRun e d).initRunning = s.initRunning ∧
    (s.endRun e d).serial = s.serial ∧ (s.endRun e d).vols = s.readActive.vols ∧
    (s.endRun e d).leaves = s.leaves ∧ (s.endRun e d).rescan = s.rescan ∧
    (s.endRun e d).rescanErrors = s.rescanErrors ∧ (s.endRun e d).slots = s.slots ∧
    (s.endRun e d).memory = s.memory ∧ (s.endRun e d).memoryErrors = s.memoryErrors ∧
    (s.endRun e d).full = s.full ∧ (s.endRun e d).requests = s.requests ∧
    (s.endRun e d).cradle = s.cradle ∧ (s.endRun e d).turn = s.turn ∧
    (s.endRun e d).timers = s.timers ∧ (s.endRun e d).light = s.light ∧
    (s.endRun e d).heads = s.heads ∧ (s.endRun e d).overlap = s.overlap ∧
    (s.endRun e d).gain = s.gain ∧ (s.endRun e d).keep = s.keep ∧
    (s.endRun e d).delivery = s.delivery ∧ (s.endRun e d).faults = s.readActive.faults ∧
    (s.endRun e d).skippedNow = s.skippedNow ∧ (s.endRun e d).draws = s.draws := by
  have k := fields_readActive s
  simp only [State.endRun, fields_postStation, fields_unpostTurner, k, and_self]

end Sys2Proof.Laws
end

