-- ==== Sys2Proof/Laws/Quiet.lean ====
section
/-! SUPPORT. What the shared operations of the account, the slots, the delivery engine and the keep leave
alone: the queue, the cradle, the turn, the strobes and the head states; and that they keep the canonical
form and the ranges. One lemma for each operation, cited instead of its definition. -/
namespace Sys2Proof.Laws
open Sys2Proof.Machine

/-- A state that keeps the queue, the canonical form and the ranges of another. -/
structure Kept (s t : State) : Prop where
  pending : t.pending = s.pending
  canonical : s.Canonical → t.Canonical
  account : s.AccountInRange → t.AccountInRange
  settings : s.SettingsInRange → t.SettingsInRange

/-- A state that keeps the interlock's pieces of another as well, the captures in flight apart. -/
structure Calm (s t : State) : Prop extends Kept s t where
  init : t.initRunning = s.initRunning
  cradle : t.cradle = s.cradle
  turn : t.turn = s.turn
  timers : t.timers = s.timers
  strobes : t.light.strobes = s.light.strobes

/-- A state that keeps the captures in flight too. -/
structure Quiet (s t : State) : Prop extends Calm s t where
  phases : ∀ h, (t.head h).phase = (s.head h).phase

theorem Kept.refl (s : State) : Kept s s := ⟨rfl, id, id, id⟩

theorem Kept.trans {s t u : State} (a : Kept s t) (b : Kept t u) : Kept s u :=
  ⟨b.pending.trans a.pending, fun h => b.canonical (a.canonical h), fun h => b.account (a.account h),
    fun h => b.settings (a.settings h)⟩

theorem Calm.refl (s : State) : Calm s s := ⟨Kept.refl s, rfl, rfl, rfl, rfl, rfl⟩

theorem Calm.trans {s t u : State} (a : Calm s t) (b : Calm t u) : Calm s u :=
  ⟨a.toKept.trans b.toKept, b.init.trans a.init, b.cradle.trans a.cradle, b.turn.trans a.turn,
    b.timers.trans a.timers, b.strobes.trans a.strobes⟩

theorem Quiet.refl (s : State) : Quiet s s := ⟨Calm.refl s, fun _ => rfl⟩

theorem Quiet.trans {s t u : State} (a : Quiet s t) (b : Quiet t u) : Quiet s u :=
  ⟨a.toCalm.trans b.toCalm, fun h => (b.phases h).trans (a.phases h)⟩

/-- Both branches of a choice are quiet. -/
theorem Quiet.ite {c : Prop} [Decidable c] {s t u : State} (a : Quiet s t) (b : Quiet s u) :
    Quiet s (if c then t else u) := by
  split
  · exact a
  · exact b

theorem Quiet.inFlight {s t : State} (a : Quiet s t) : t.inFlight = s.inFlight := by
  have l := a.phases .left
  have r := a.phases .right
  simp only [State.head, PerHead.get] at l r
  simp only [State.inFlight, l, r]

/-! ### Updates of one field -/

/-- The fields that `Quiet` speaks of. -/
def State.watched (s : State) :=
  (s.pending, s.initRunning, s.serial, s.vols, s.leaves, s.rescan, s.rescanErrors, s.memory, s.gain, s.cradle,
    s.turn, s.timers, s.light, s.heads)

/-- An update of the other fields. -/
theorem quiet_of_watched {s t : State} (h : State.watched t = State.watched s) : Quiet s t := by
  simp only [State.watched, Prod.mk.injEq] at h
  obtain ⟨h1, h2, h3, h4, h5, h6, h6', h7, h8, h9, h10, h11, h12, h13⟩ := h
  refine ⟨⟨⟨h1, fun c => ⟨?_, ?_, ?_⟩, fun a => ⟨?_, ?_, ?_, ?_, ?_, ?_⟩,
    fun r => ⟨?_, ?_, ?_, ?_⟩⟩, h2,
    h9, h10, h11, ?_⟩, fun h => ?_⟩
  · rw [h7]; exact c.memory
  · rw [h5]; exact c.leaves
  · rw [h8]; exact c.gain
  · rw [h4]; exact a.oneActive
  · rw [h3]; exact a.serial
  · rw [h4]; exact a.zero
  · rw [h4]; exact a.one
  · rw [h6]; exact a.rescan
  · rw [h6']; exact a.corrected
  · rw [h11]; exact r.timers
  · rw [h12]; exact r.light
  · rw [h13]; exact r.left
  · rw [h13]; exact r.right
  · rw [h12]
  · simp only [State.head, h13]

/-- A change of volume records that makes none ACTIVE and keeps their ranges. -/
theorem quiet_vols {s : State} {v : PerHandle Volume}
    (hz : s.vols.zero.InRange → v.zero.InRange) (ho : s.vols.one.InRange → v.one.InRange)
    (az : v.zero.state = .active → s.vols.zero.state = .active)
    (ao : v.one.state = .active → s.vols.one.state = .active) : Quiet s { s with vols := v } :=
  ⟨⟨⟨rfl, fun c => ⟨c.memory, c.leaves, c.gain⟩,
    fun a => ⟨fun h => a.oneActive ⟨az h.1, ao h.2⟩, a.serial, hz a.zero, ho a.one, a.rescan, a.corrected⟩,
    fun r => ⟨r.timers, r.light, r.left, r.right⟩⟩, rfl, rfl, rfl, rfl, rfl⟩, fun _ => rfl⟩

/-- A read of a volume record corrects its single errors and counts them (R178). -/
theorem quiet_readVolume (s : State) (h : Handle) : Quiet s (s.readVolume h) := by
  unfold State.readVolume
  split
  · exact Quiet.refl s
  · refine Quiet.trans (t := { s with vols := s.vols.set h (s.vol h).corrected }) ?_
      (quiet_of_watched rfl)
    cases h
    · exact quiet_vols (fun r => ⟨r.leaves, r.opening, r.dose, rfl⟩) id id id
    · exact quiet_vols id (fun r => ⟨r.leaves, r.opening, r.dose, rfl⟩) id id

/-- A change of one volume record that makes it ACTIVE only if it was and keeps its ranges. -/
theorem quiet_setVol {s : State} {h : Handle} {v : Volume} (hr : (s.vol h).InRange → v.InRange)
    (ha : v.state = .active → (s.vol h).state = .active) :
    Quiet s { s with vols := s.vols.set h v } := by
  cases h
  · exact quiet_vols hr id ha id
  · exact quiet_vols id hr id ha

/-- A partial write of a volume record, which reads it first. -/
theorem quiet_modVol {s : State} {h : Handle} {f : Volume → Volume}
    (hr : (s.vol h).corrected.InRange → (f (s.vol h).corrected).InRange)
    (ha : (f (s.vol h).corrected).state = .active → (s.vol h).state = .active) :
    Quiet s (s.modVol h f) := by
  have e : (s.readVolume h).vols.get h = (s.vol h).corrected := by
    rw [(fields_readVolume s h).2.2.2.2.1, PerHandle_get_set_same]
    rfl
  refine (quiet_readVolume s h).trans (quiet_setVol (s := s.readVolume h) ?_ ?_)
  · rw [State.vol, e]
    exact hr
  · intro a
    rw [e] at a
    have : ((s.readVolume h).vol h).state = (s.vol h).corrected.state := congrArg Volume.state e
    rw [this]
    exact ha a

theorem quiet_count (s : State) (h : Handle) (f : VolumeCounters → VolumeCounters) :
    Quiet s (s.count h f) := quiet_modVol (fun r => ⟨r.leaves, r.opening, r.dose, r.corrected⟩) id

theorem quiet_leaves {s : State} {m : List (Nat × LeafRecord)}
    (h : Sparse.wf (LeafRecord.fresh .leaf) s.leaves = true →
      Sparse.wf (LeafRecord.fresh .leaf) m = true) : Quiet s { s with leaves := m } :=
  ⟨⟨⟨rfl, fun c => ⟨c.memory, h c.leaves, c.gain⟩,
    fun a => ⟨a.oneActive, a.serial, a.zero, a.one, a.rescan, a.corrected⟩,
    fun r => ⟨r.timers, r.light, r.left, r.right⟩⟩, rfl, rfl, rfl, rfl, rfl⟩, fun _ => rfl⟩

theorem quiet_setLeaf (s : State) (h : Handle) (n : Nat) (r : LeafRecord) : Quiet s (s.setLeaf h n r) :=
  quiet_leaves (wf_set _ _)

theorem quiet_setFace (s : State) (h : Handle) (d : Side) (x : FaceRecord) :
    Quiet s (s.setFace h d x) := quiet_setLeaf _ _ _ _

theorem quiet_gain {s : State} {m : List (Nat × GainEntry)}
    (h : Sparse.wf GainEntry.unity s.gain = true → Sparse.wf GainEntry.unity m = true) :
    Quiet s { s with gain := m } :=
  ⟨⟨⟨rfl, fun c => ⟨c.memory, c.leaves, h c.gain⟩,
    fun a => ⟨a.oneActive, a.serial, a.zero, a.one, a.rescan, a.corrected⟩,
    fun r => ⟨r.timers, r.light, r.left, r.right⟩⟩, rfl, rfl, rfl, rfl, rfl⟩, fun _ => rfl⟩

theorem quiet_setGain (s : State) (k : Nat) (e : GainEntry) : Quiet s (s.setGain k e) :=
  quiet_gain (wf_set _ _)

theorem quiet_memory {s : State} {m : List Host.Cell}
    (h : Memory.wf s.memory = true → Memory.wf m = true) : Quiet s { s with memory := m } :=
  ⟨⟨⟨rfl, fun c => ⟨h c.memory, c.leaves, c.gain⟩,
    fun a => ⟨a.oneActive, a.serial, a.zero, a.one, a.rescan, a.corrected⟩,
    fun r => ⟨r.timers, r.light, r.left, r.right⟩⟩, rfl, rfl, rfl, rfl, rfl⟩, fun _ => rfl⟩

theorem quiet_rescan {s : State} {l : List Side}
    (h : s.rescan.length ≤ Config.rescanPlaces → l.length ≤ Config.rescanPlaces) :
    Quiet s { s with rescan := l } :=
  ⟨⟨⟨rfl, fun c => ⟨c.memory, c.leaves, c.gain⟩,
    fun a => ⟨a.oneActive, a.serial, a.zero, a.one, h a.rescan, a.corrected⟩,
    fun r => ⟨r.timers, r.light, r.left, r.right⟩⟩, rfl, rfl, rfl, rfl, rfl⟩, fun _ => rfl⟩

/-- A change of the lighting unit that fires nothing and keeps the limits. -/
theorem quiet_light {s : State} {l : Lighting} (hs : l.strobes = s.light.strobes)
    (hr : s.light.settings.InRange → l.settings.InRange) : Quiet s { s with light := l } :=
  ⟨⟨⟨rfl, fun c => ⟨c.memory, c.leaves, c.gain⟩,
    fun a => ⟨a.oneActive, a.serial, a.zero, a.one, a.rescan, a.corrected⟩,
    fun r => ⟨r.timers, hr r.light, r.left, r.right⟩⟩, rfl, rfl, rfl, rfl, hs⟩, fun _ => rfl⟩

/-- A change of one head that keeps its state and the limits of its settings. -/
theorem quiet_modHead {s : State} {h : Head} {f : HeadUnit → HeadUnit}
    (hp : (f (s.head h)).phase = (s.head h).phase)
    (hr : (s.head h).InRange → (f (s.head h)).InRange) : Quiet s (s.modHead h f) := by
  refine ⟨⟨⟨rfl, fun c => ⟨c.memory, c.leaves, c.gain⟩,
    fun a => ⟨a.oneActive, a.serial, a.zero, a.one, a.rescan, a.corrected⟩, fun r => ⟨r.timers, r.light, ?_, ?_⟩⟩,
    rfl, rfl, rfl, rfl, rfl⟩, fun k => ?_⟩
  · cases h
    · exact hr r.left
    · exact r.left
  · cases h
    · exact r.right
    · exact hr r.right
  · cases h <;> cases k <;> first | exact hp | rfl

/-- A change of one head that keeps its state and its settings. -/
theorem quiet_modHead_same {s : State} {h : Head} {f : HeadUnit → HeadUnit}
    (hp : ∀ u, (f u).phase = u.phase) (hc : ∀ u, (f u).correction = u.correction)
    (hm : ∀ u, (f u).measurement = u.measurement) : Quiet s (s.modHead h f) :=
  quiet_modHead (hp _) fun r => ⟨by rw [hc]; exact r.correction, by rw [hm]; exact r.measurement⟩

theorem quiet_postStation (s : State) (n : StationNotice) : Quiet s (s.postStation n) :=
  quiet_of_watched rfl

theorem quiet_postTurner (s : State) (n : TurnerNotice) : Quiet s (s.postTurner n) :=
  quiet_of_watched rfl

theorem quiet_setLink (s : State) (l : MasterLink) (x : Link) : Quiet s (s.setLink l x) :=
  quiet_of_watched rfl

theorem quiet_modLink (s : State) (l : MasterLink) (f : Link → Link) : Quiet s (s.modLink l f) :=
  quiet_of_watched rfl

theorem quiet_report (s : State) (r : FaultRecord) : Quiet s (s.report r) := quiet_of_watched rfl

theorem quiet_recovered (s : State) (c : FaultClass) (k : Nat) : Quiet s (s.recovered c k) :=
  quiet_of_watched rfl

theorem quiet_setSlot (s : State) (i : SlotNo) (x : Slot) : Quiet s (s.setSlot i x) :=
  quiet_of_watched rfl

theorem quiet_modRun (s : State) (f : RunRecord → RunRecord) : Quiet s (s.modRun f) :=
  quiet_of_watched rfl

theorem quiet_modDelivery (s : State) (f : Delivery → Delivery) : Quiet s (s.modDelivery f) :=
  quiet_of_watched rfl

theorem quiet_drawn (s : State) : Quiet s s.drawn := quiet_of_watched rfl

theorem quiet_countRequest (s : State) : Quiet s s.countRequest := quiet_of_watched rfl

/-- A fold of quiet operations is quiet. -/
theorem quiet_foldl {α : Type} {f : State → α → State} (h : ∀ s a, Quiet s (f s a)) (l : List α)
    (s : State) : Quiet s (l.foldl f s) := by
  induction l generalizing s with
  | nil => exact Quiet.refl s
  | cons a l ih => exact (h s a).trans (ih _)

/-! ### Leaf records and the rescan list -/

theorem quiet_skipUpdate (s : State) (h : Handle) (n : Nat) : Quiet s (s.skipUpdate h n) := by
  unfold State.skipUpdate
  split
  · exact Quiet.refl s
  · exact quiet_of_watched rfl

theorem quiet_damageLeaf (s : State) (h : Handle) (n : Nat) : Quiet s (s.damageLeaf h n) :=
  ((quiet_setLeaf _ _ _ _).trans (quiet_count _ _ _)).trans (quiet_report _ _)

theorem quiet_readLeaf (s : State) (h : Handle) (n : Nat) (ws : List LeafWord) :
    Quiet s (s.readLeaf h n ws).2 := by
  unfold State.readLeaf
  dsimp only
  split
  · exact Quiet.refl s
  · split
    · exact quiet_damageLeaf s h n
    · split
      · exact (quiet_setLeaf _ _ _ _).trans (quiet_recovered _ _ _)
      · exact Quiet.refl s

/-- The state left by a read, whatever the read tells. -/
theorem quiet_of_readLeaf {s t : State} {h : Handle} {n : Nat} {ws : List LeafWord} {b : Bool}
    (e : s.readLeaf h n ws = (b, t)) : Quiet s t := by
  have := quiet_readLeaf s h n ws
  rwa [e] at this

theorem quiet_updateFace (s : State) (h : Handle) (d : Side) (ws : List LeafWord)
    (f : FaceRecord → FaceRecord) : Quiet s (s.updateFace h d ws f).2 := by
  unfold State.updateFace
  split
  · rename_i e; exact (quiet_of_readLeaf e).trans (quiet_setFace _ _ _ _)
  · rename_i e; exact (quiet_of_readLeaf e).trans (quiet_skipUpdate _ _ _)

theorem quiet_of_updateFace {s t : State} {h : Handle} {d : Side} {ws : List LeafWord}
    {f : FaceRecord → FaceRecord} {b : Bool} (e : s.updateFace h d ws f = (b, t)) : Quiet s t := by
  have := quiet_updateFace s h d ws f
  rwa [e] at this

theorem quiet_readRescan (s : State) : Quiet s s.readRescan := by
  unfold State.readRescan
  split
  · exact Quiet.refl s
  · exact ⟨⟨⟨rfl, fun c => ⟨c.memory, c.leaves, c.gain⟩,
      fun a => ⟨a.oneActive, a.serial, a.zero, a.one, a.rescan, rfl⟩,
      fun r => ⟨r.timers, r.light, r.left, r.right⟩⟩, rfl, rfl, rfl, rfl, rfl⟩, fun _ => rfl⟩

theorem quiet_emptyRescan (s : State) : Quiet s s.emptyRescan :=
  ⟨⟨⟨rfl, fun c => ⟨c.memory, c.leaves, c.gain⟩,
    fun a => ⟨a.oneActive, a.serial, a.zero, a.one, Nat.zero_le _, rfl⟩,
    fun r => ⟨r.timers, r.light, r.left, r.right⟩⟩, rfl, rfl, rfl, rfl, rfl⟩, fun _ => rfl⟩

theorem quiet_readActive (s : State) : Quiet s s.readActive := by
  unfold State.readActive
  split
  · exact Quiet.refl s
  · exact quiet_readVolume _ _

theorem quiet_joinRescan (s : State) (h : Handle) (d : Side) : Quiet s (s.joinRescan h d) := by
  unfold State.joinRescan
  dsimp only
  refine (quiet_readVolume s h).trans ?_
  split
  · refine (quiet_readRescan _).trans (Quiet.trans ?_ (quiet_postStation _ _))
    split
    · rename_i hl
      refine quiet_rescan fun _ => ?_
      rw [List.length_append, List.length_singleton]
      omega
    · exact quiet_count _ _ _
  · exact Quiet.refl _

theorem quiet_leaveRescan (s : State) (h : Handle) (d : Side) : Quiet s (s.leaveRescan h d) := by
  unfold State.leaveRescan
  dsimp only
  refine (quiet_readVolume s h).trans ?_
  split
  · refine (quiet_readRescan _).trans ?_
    split
    · exact quiet_rescan fun hl => Nat.le_trans (List.length_filter_le _ _) hl
    · exact quiet_count _ _ _
  · exact Quiet.refl _

theorem quiet_setRescan (s : State) (h : Handle) (d : Side) : Quiet s (s.setRescan h d) :=
  (quiet_setFace _ _ _ _).trans (quiet_joinRescan _ _ _)

theorem quiet_clearRescan (s : State) (h : Handle) (d : Side) : Quiet s (s.clearRescan h d) := by
  unfold State.clearRescan
  split
  · exact (quiet_setFace _ _ _ _).trans (quiet_leaveRescan _ _ _)
  · exact Quiet.refl s

/-! ### Slots -/

theorem quiet_clearSlot (s : State) (i : SlotNo) : Quiet s (s.clearSlot i) := quiet_of_watched rfl

theorem quiet_drainIfLast (s : State) (h : Handle) : Quiet s (s.drainIfLast h) := by
  unfold State.drainIfLast
  dsimp only
  refine (quiet_readVolume s h).trans ?_
  split
  · exact (quiet_modVol (fun r => ⟨r.leaves, r.opening, r.dose, r.corrected⟩)
      (fun h => by cases h)).trans (quiet_postStation _ _)
  · exact Quiet.refl _

theorem quiet_freeSlot (s : State) (i : SlotNo) : Quiet s (s.freeSlot i) := by
  unfold State.freeSlot
  split
  · exact quiet_clearSlot _ _
  · exact (quiet_clearSlot _ _).trans (quiet_drainIfLast _ _)

theorem quiet_removePending (s : State) (o : Owner) : Quiet s (s.removePending o) :=
  quiet_updateFace _ _ _ _ _

theorem quiet_discardSlot (s : State) (i : SlotNo) : Quiet s (s.discardSlot i) := by
  unfold State.discardSlot
  split
  · exact quiet_freeSlot _ _
  · exact ((quiet_count _ _ _).trans (quiet_removePending _ _)).trans (quiet_freeSlot _ _)

theorem quiet_holdSlot (s : State) (i : SlotNo) : Quiet s (s.holdSlot i) :=
  (quiet_setSlot _ _ _).trans (quiet_postStation _ _)

/-! ### The end of a run (R164) -/

theorem quiet_endRun (s : State) (e : EndReason) (d : EndDetail) : Quiet s (s.endRun e d) :=
  (quiet_readActive s).trans (quiet_of_watched rfl)

theorem quiet_haltRun (s : State) : Quiet s s.haltRun := by
  unfold State.haltRun
  split
  · exact Quiet.refl s
  · exact quiet_endRun _ _ _

theorem quiet_setUncertain (s : State) : Quiet s s.setUncertain := by
  unfold State.setUncertain
  split
  · exact quiet_modVol (fun r => ⟨r.leaves, r.opening, r.dose, r.corrected⟩) id
  · exact Quiet.refl s

/-! ### Delivery -/

theorem quiet_markDamaged (s : State) : Quiet s s.markDamaged := by
  unfold State.markDamaged
  split
  · exact Quiet.refl s
  · split
    · exact Quiet.refl s
    · exact (quiet_modDelivery _ _).trans (quiet_report _ _)

theorem quiet_readSample (s : State) (a : Nat) : Quiet s (s.readSample a).2 := by
  unfold State.readSample
  dsimp only
  split
  · exact Quiet.refl s
  · exact quiet_of_watched rfl
  · exact quiet_markDamaged s

theorem quiet_readValue (s : State) (d : Delivery) (l i : Nat) : Quiet s (s.readValue d l i).2 := by
  unfold State.readValue
  dsimp only
  split
  · exact quiet_readSample _ _
  · exact quiet_readSample _ _
  · exact ((quiet_readSample _ _).trans (quiet_readSample _ _)).trans (quiet_readSample _ _)
  · exact ((quiet_readSample _ _).trans (quiet_readSample _ _)).trans (quiet_readSample _ _)

theorem quiet_readValues (s : State) (d : Delivery) (l : Nat) (is : List Nat) :
    Quiet s (s.readValues d l is).2 := by
  induction is generalizing s with
  | nil => exact Quiet.refl s
  | cons i is ih => exact (quiet_readValue s d l i).trans (ih _)

theorem quiet_offerPixel (s : State) : Quiet s s.offerPixel := by
  unfold State.offerPixel
  split
  · exact Quiet.refl s
  · exact (quiet_readValues _ _ _ _).trans (quiet_modDelivery _ _)

theorem quiet_startDelivery (s : State) : Quiet s s.startDelivery := by
  unfold State.startDelivery
  split
  · dsimp only
    split
    · exact Quiet.refl s
    · exact ((quiet_readVolume _ _).trans (quiet_readLeaf _ _ _ _)).trans (quiet_of_watched rfl)
  · exact Quiet.refl s

theorem quiet_enqueue (s : State) (i : SlotNo) : Quiet s (s.enqueue i) := by
  unfold State.enqueue
  refine Quiet.trans ?_ (quiet_startDelivery _)
  exact quiet_of_watched rfl

theorem quiet_fixTrailer (s : State) (d : Delivery) (st : DeliveryStatus) :
    Quiet s (s.fixTrailer d st) := quiet_of_watched rfl

theorem quiet_settleComplete (s : State) (i : SlotNo) (o : Owner) :
    Quiet s (s.settleComplete i o) := by
  unfold State.settleComplete
  dsimp only
  refine Quiet.trans ?_ (quiet_freeSlot _ _)
  split
  · rename_i e; exact (quiet_of_readLeaf e).trans (quiet_skipUpdate _ _ _)
  · rename_i e
    refine (quiet_of_readLeaf e).trans ?_
    split
    · exact (quiet_setFace _ _ _ _).trans (quiet_count _ _ _)
    · exact Quiet.refl _

theorem quiet_settleDamaged (s : State) (i : SlotNo) (o : Owner) :
    Quiet s (s.settleDamaged i o) := by
  unfold State.settleDamaged
  dsimp only
  refine Quiet.trans ?_ (quiet_freeSlot _ _)
  split
  · rename_i e; exact (quiet_of_readLeaf e).trans (quiet_skipUpdate _ _ _)
  · rename_i e
    refine (quiet_of_readLeaf e).trans ?_
    split
    · split
      · exact (quiet_setFace _ _ _ _).trans (quiet_setRescan _ _ _)
      · exact quiet_setFace _ _ _ _
    · exact Quiet.refl _

theorem quiet_endDelivery (s : State) (d : Delivery) : Quiet s (s.endDelivery d) := by
  unfold State.endDelivery
  dsimp only
  refine Quiet.trans ?_ (quiet_modDelivery _ _)
  split
  · exact (quiet_fixTrailer _ _ _).trans (quiet_settleDamaged _ _ _)
  · exact (quiet_fixTrailer _ _ _).trans (quiet_settleComplete _ _ _)

theorem quiet_takePixel (s : State) (d : Delivery) (w : PortWord) : Quiet s (s.takePixel d w) := by
  unfold State.takePixel
  exact Quiet.ite ((quiet_modDelivery _ _).trans (quiet_endDelivery _ _))
    ((quiet_modDelivery _ _).trans (quiet_offerPixel _))

theorem quiet_takeWord (s : State) : Quiet s s.takeWord := by
  unfold State.takeWord
  split
  · exact Quiet.refl s
  · split
    · exact Quiet.refl s
    · split
      · split
        · split
          · exact quiet_modDelivery _ _
          · exact (quiet_modDelivery _ _).trans (quiet_offerPixel _)
        · exact quiet_modDelivery _ _
      · exact quiet_takePixel _ _ _
      · split
        · refine Quiet.trans ?_ (quiet_startDelivery _)
          exact quiet_of_watched rfl
        · exact quiet_modDelivery _ _

theorem quiet_cancelDelivery (s : State) (d : Delivery) : Quiet s (s.cancelDelivery d) :=
  ((quiet_fixTrailer _ _ _).trans (quiet_setSlot _ _ _)).trans (quiet_modDelivery _ _)

/-! ### The keep -/

theorem quiet_setBlank (s : State) (h : Handle) (d : Side) (b : Bool) :
    Quiet s (s.setBlank h d b) := by
  unfold State.setBlank
  split
  · exact Quiet.refl s
  · exact (quiet_setFace _ _ _ _).trans (quiet_count _ _ _)

theorem clamp_within {x lo hi : Nat} (h : lo ≤ hi) : Within lo hi (clamp x lo hi) := by
  unfold clamp Within
  split
  · exact ⟨Nat.le_refl _, h⟩
  · split
    · exact ⟨h, Nat.le_refl _⟩
    · omega

theorem inRange_setBase {l : LightingSettings} (r : l.InRange) (p : Head) {n : Nat}
    (hn : Within l.dMin l.dMax n) : { l with base := l.base.set p n }.InRange := by
  cases p
  · exact ⟨r.banks, r.target, r.low, r.order, r.high, hn, r.right⟩
  · exact ⟨r.banks, r.target, r.low, r.order, r.high, r.left, hn⟩

theorem autoExpose_strobes (l : Lighting) (p : Head) (b m : Nat) (k : Bool) :
    (l.autoExpose p b m k).strobes = l.strobes := by
  unfold Lighting.autoExpose
  split
  · split <;> rfl
  · rfl

theorem autoExpose_inRange {l : Lighting} (r : l.settings.InRange) (p : Head) (b m : Nat) (k : Bool) :
    (l.autoExpose p b m k).settings.InRange := by
  unfold Lighting.autoExpose
  split
  · split
    · exact inRange_setBase r p (clamp_within r.order)
    · exact r
  · exact r

theorem quiet_adjustExposure (s : State) (x : Slot) : Quiet s (s.adjustExposure x) := by
  unfold State.adjustExposure
  split
  · exact Quiet.refl s
  · exact quiet_light (autoExpose_strobes _ _ _ _ _) fun r => autoExpose_inRange r _ _ _ _

theorem quiet_keepSlot (s : State) (i : SlotNo) (o : Owner) : Quiet s (s.keepSlot i o) := by
  unfold State.keepSlot
  refine Quiet.trans (Quiet.trans ?_ (quiet_adjustExposure _ _))
    (Quiet.ite (quiet_enqueue _ _) (Quiet.refl _))
  refine Quiet.trans ?_ (Quiet.ite (quiet_clearRescan _ _ _) (Quiet.refl _))
  refine Quiet.trans (Quiet.trans (Quiet.trans ?_ (quiet_setFace _ _ _ _)) (quiet_count _ _ _))
    (quiet_setBlank _ _ _ _)
  refine Quiet.trans ?_ (quiet_foldl (fun s i => quiet_freeSlot s i) _ _)
  exact (quiet_setSlot _ i _).trans (Quiet.ite (quiet_count _ _ _) (Quiet.refl _))

theorem quiet_actOnVerdict (s : State) (i : SlotNo) (o : Owner) (v : Verdict) :
    Quiet s (s.actOnVerdict i o v) := by
  unfold State.actOnVerdict
  split
  · split
    · rename_i e; exact (quiet_of_readLeaf e).trans (quiet_keepSlot _ _ _)
    · rename_i e
      exact ((quiet_of_readLeaf e).trans (quiet_skipUpdate _ _ _)).trans (quiet_holdSlot _ _)
  · exact (quiet_updateFace _ _ _ _ _).trans (quiet_holdSlot _ _)

end Sys2Proof.Laws
end

