-- ==== Sys2Proof/Laws/QuietBlocks.lean ====
section
/-! SUPPORT. What the blocks' operations outside the interlock leave alone: the tests and the dose of an
exposure, the samples and lines of a frame, the verdict, the calibration results, the turn's record, and
the account's commands. One lemma for each operation. -/
namespace Sys2Proof.Laws
open Sys2Proof.Machine

/-! ### The tests of an exposure, and its dose (R108, R109) -/

theorem quiet_viewSide (s : State) (h : Handle) (k : Nat) (r : Head × Nat) :
    Quiet s (s.viewSide h k r).2 := quiet_readLeaf _ _ _ _

theorem quiet_viewSides (s : State) (h : Handle) (k : Nat) (rs : List (Head × Nat)) :
    Quiet s (s.viewSides h k rs).2 := by
  induction rs generalizing s with
  | nil => exact Quiet.refl s
  | cons r rs ih => exact (quiet_viewSide s h k r).trans (ih _)

theorem quiet_readDoses (s : State) (h : Handle) (vs : List SideView) :
    Quiet s (s.readDoses h vs).2 := by
  induction vs generalizing s with
  | nil => exact Quiet.refl s
  | cons v vs ih => exact (quiet_readLeaf s _ _ _).trans (ih _)

theorem quiet_replaceHeld (s : State) (h : Handle) (v : SideView) : Quiet s (s.replaceHeld h v) :=
  quiet_foldl (fun s i => quiet_discardSlot s i) _ _

theorem quiet_allocate (s : State) (h : Handle) (v : SideView) : Quiet s (s.allocate h v).2 := by
  unfold State.allocate
  split
  · exact Quiet.refl s
  · exact (quiet_setSlot _ _ _).trans (quiet_updateFace _ _ _ _ _)

theorem quiet_allocateAll (s : State) (h : Handle) (vs : List SideView) :
    Quiet s (s.allocateAll h vs).2 := by
  induction vs generalizing s with
  | nil => exact Quiet.refl s
  | cons v vs ih => exact (quiet_allocate s h v).trans (ih _)

theorem quiet_modVolDose {s : State} {h : Handle} {f : Volume → Volume}
    (hl : ∀ v, (f v).leaves = v.leaves) (ho : ∀ v, (f v).opening = v.opening)
    (ha : ∀ v, (f v).state = v.state) (he : ∀ v, (f v).errors = v.errors)
    (hd : (s.vol h).dose ≤ (s.vol h).volumeCeiling →
      (f (s.vol h).corrected).dose ≤ (f (s.vol h).corrected).volumeCeiling) : Quiet s (s.modVol h f) :=
  quiet_modVol (fun r => ⟨by rw [hl]; exact r.leaves, by rw [hl, ho]; exact r.opening, hd r.dose,
      by rw [he]; exact r.corrected⟩)
    fun e => by rw [ha] at e; exact e

theorem quiet_chargeSide (s : State) (h : Handle) (d : Side) (n : Nat) :
    Quiet s (s.chargeSide h d n) := by
  unfold State.chargeSide
  split
  · rename_i e
    exact (quiet_of_updateFace e).trans 
      (quiet_modVolDose (fun _ => rfl) (fun _ => rfl) (fun _ => rfl) (fun _ => rfl) id)
  · rename_i e
    exact quiet_of_updateFace e

theorem quiet_chargeVolume {s : State} {h : Handle} {n : Nat}
    (hd : (s.vol h).dose + n ≤ (s.vol h).volumeCeiling) : Quiet s (s.chargeVolume h n) :=
  quiet_modVolDose (fun _ => rfl) (fun _ => rfl) (fun _ => rfl) (fun _ => rfl) fun _ => hd

/-! ### What an exposure's charge rests on (R92, R95) -/

/-- The doses and ceilings of the volumes, and the lighting settings. -/
def State.budget (s : State) : Nat × Nat × Nat × Nat × LightingSettings :=
  (s.vols.zero.dose, s.vols.zero.volumeCeiling, s.vols.one.dose, s.vols.one.volumeCeiling,
    s.light.settings)

theorem budget_modVol {s : State} {h : Handle} {f : Volume → Volume} (hd : ∀ v, (f v).dose = v.dose)
    (hc : ∀ v, (f v).volumeCeiling = v.volumeCeiling) :
    State.budget (s.modVol h f) = State.budget s := by
  cases h <;> simp [State.budget, PerHandle.set, PerHandle.get, hd, hc]

theorem budget_readVolume (s : State) (h : Handle) :
    State.budget (s.readVolume h) = State.budget s := by
  cases h <;> simp [State.budget, PerHandle.set, PerHandle.get]

theorem budget_vol {s t : State} (e : State.budget t = State.budget s) (h : Handle) :
    (t.vol h).dose = (s.vol h).dose ∧ (t.vol h).volumeCeiling = (s.vol h).volumeCeiling := by
  simp only [State.budget, Prod.mk.injEq] at e
  cases h
  · exact ⟨e.1, e.2.1⟩
  · exact ⟨e.2.2.1, e.2.2.2.1⟩

theorem budget_settings {s t : State} (e : State.budget t = State.budget s) :
    t.light.settings = s.light.settings := by
  simp only [State.budget, Prod.mk.injEq] at e
  exact e.2.2.2.2

/-- An update of neither. -/
theorem budget_same {s t : State} (hv : t.vols = s.vols) (hl : t.light = s.light) :
    State.budget t = State.budget s := by
  simp only [State.budget, hv, hl]

theorem budget_setFace (s : State) (h : Handle) (d : Side) (x : FaceRecord) :
    State.budget (s.setFace h d x) = State.budget s := rfl

theorem budget_postStation (s : State) (n : StationNotice) :
    State.budget (s.postStation n) = State.budget s := rfl

theorem budget_count (s : State) (h : Handle) (f : VolumeCounters → VolumeCounters) :
    State.budget (s.count h f) = State.budget s := budget_modVol (fun _ => rfl) fun _ => rfl

theorem budget_readLeaf (s : State) (h : Handle) (n : Nat) (ws : List LeafWord) :
    State.budget (s.readLeaf h n ws).2 = State.budget s := by
  unfold State.readLeaf
  dsimp only
  split
  · rfl
  · split
    · exact Eq.trans (b := State.budget ((s.setLeaf h n { s.leaf h n with valid := false }).count h
        fun c => { c with damagedLeaves := c.damagedLeaves + 1 })) (budget_same rfl rfl)
        ((budget_count _ _ _).trans (budget_same rfl rfl))
    · split
      · rfl
      · rfl

theorem budget_of_readLeaf {s t : State} {h : Handle} {n : Nat} {ws : List LeafWord} {b : Bool}
    (e : s.readLeaf h n ws = (b, t)) : State.budget t = State.budget s := by
  have := budget_readLeaf s h n ws
  rwa [e] at this

theorem budget_skipUpdate (s : State) (h : Handle) (n : Nat) :
    State.budget (s.skipUpdate h n) = State.budget s := by
  unfold State.skipUpdate
  split <;> rfl

theorem budget_updateFace (s : State) (h : Handle) (d : Side) (ws : List LeafWord)
    (f : FaceRecord → FaceRecord) : State.budget (s.updateFace h d ws f).2 = State.budget s := by
  unfold State.updateFace
  split
  · rename_i e; exact (budget_setFace _ _ _ _).trans (budget_of_readLeaf e)
  · rename_i e; exact (budget_skipUpdate _ _ _).trans (budget_of_readLeaf e)

theorem budget_of_updateFace {s t : State} {h : Handle} {d : Side} {ws : List LeafWord}
    {f : FaceRecord → FaceRecord} {b : Bool} (e : s.updateFace h d ws f = (b, t)) :
    State.budget t = State.budget s := by
  have := budget_updateFace s h d ws f
  rwa [e] at this

theorem budget_drainIfLast (s : State) (h : Handle) :
    State.budget (s.drainIfLast h) = State.budget s := by
  unfold State.drainIfLast
  dsimp only
  split
  · refine (budget_postStation _ _).trans ((budget_modVol ?_ ?_).trans (budget_readVolume _ _))
    · exact fun _ => rfl
    · exact fun _ => rfl
  · exact budget_readVolume _ _

theorem budget_freeSlot (s : State) (i : SlotNo) : State.budget (s.freeSlot i) = State.budget s := by
  unfold State.freeSlot
  split
  · rfl
  · exact (budget_drainIfLast _ _).trans (budget_same rfl rfl)

theorem budget_discardSlot (s : State) (i : SlotNo) :
    State.budget (s.discardSlot i) = State.budget s := by
  unfold State.discardSlot
  split
  · exact budget_freeSlot _ _
  · exact ((budget_freeSlot _ _).trans (budget_updateFace _ _ _ _ _)).trans (budget_count _ _ _)

theorem budget_foldl {α : Type} {f : State → α → State}
    (h : ∀ s a, State.budget (f s a) = State.budget s) (l : List α) (s : State) :
    State.budget (l.foldl f s) = State.budget s := by
  induction l generalizing s with
  | nil => rfl
  | cons a l ih => exact (ih _).trans (h s a)

theorem budget_allocate (s : State) (h : Handle) (v : SideView) :
    State.budget (s.allocate h v).2 = State.budget s := by
  unfold State.allocate
  split
  · rfl
  · exact budget_updateFace _ _ _ _ _

theorem budget_allocateAll (s : State) (h : Handle) (vs : List SideView) :
    State.budget (s.allocateAll h vs).2 = State.budget s := by
  induction vs generalizing s with
  | nil => rfl
  | cons v vs ih => exact (ih _).trans (budget_allocate s h v)

theorem budget_chargeSide (s : State) (h : Handle) (d : Side) (n : Nat) :
    State.budget (s.chargeSide h d n) = State.budget s := by
  unfold State.chargeSide
  split
  · rename_i e
    refine (budget_modVol ?_ ?_).trans (budget_of_updateFace e)
    · exact fun _ => rfl
    · exact fun _ => rfl
  · rename_i e
    exact budget_of_updateFace e

/-- The planned doses of the positions read are those the sides will be charged. -/
theorem planned_readDoses (s : State) (h : Handle) (vs : List SideView) :
    plannedDose (s.readDoses h vs).1.2 =
      (vs.map fun v => (s.light.settings.latch v.head).planned).sum := by
  induction vs generalizing s with
  | nil => rfl
  | cons v vs ih =>
    have e := budget_settings (budget_readLeaf s h v.side.leaf [.dose v.side.face])
    have i := ih (s.readLeaf h v.side.leaf [.dose v.side.face]).2
    simp only [e] at i
    simp only [State.readDoses, plannedDose, List.map_cons, List.sum_cons, e]
    simp only [plannedDose] at i
    rw [i]

theorem budget_readDoses (s : State) (h : Handle) (vs : List SideView) :
    State.budget (s.readDoses h vs).2 = State.budget s := by
  induction vs generalizing s with
  | nil => rfl
  | cons v vs ih => exact (ih _).trans (budget_readLeaf s h v.side.leaf [.dose v.side.face])

theorem quiet_chooseSide (s : State) (h : Handle) (k : Nat) (p : Head) :
    Quiet s (s.chooseSide h k p).2 := by
  unfold State.chooseSide
  dsimp only
  split <;> rename_i e <;> exact quiet_of_readLeaf e

theorem quiet_askTurn (s : State) (d : Direction) : Quiet s (s.askTurn d) := quiet_of_watched rfl

theorem quiet_passOn (s : State) (h : Handle) (k : Nat) : Quiet s (s.passOn h k) := by
  unfold State.passOn
  dsimp only
  split
  · exact quiet_endRun _ _ _
  · split
    · exact quiet_endRun _ _ _
    · split
      · exact quiet_endRun _ _ _
      · exact (quiet_modRun _ _).trans (quiet_askTurn _ _)

theorem quiet_seekOn (s : State) : Quiet s s.seekOn := by
  unfold State.seekOn
  split
  · exact Quiet.refl s
  · split
    · exact quiet_endRun _ _ _
    · split
      · exact quiet_endRun _ _ _
      · split
        · exact quiet_endRun _ _ _
        · exact quiet_askTurn _ _

theorem quiet_requestStop (s : State) : Quiet s s.requestStop := by
  unfold State.requestStop
  refine Quiet.ite (Quiet.refl s) ?_
  unfold State.firstStop
  split
  · exact Quiet.refl s
  · exact (quiet_modRun _ _).trans (quiet_endRun _ _ _)
  · exact (quiet_modRun _ _).trans (quiet_endRun _ _ _)
  · exact (quiet_modRun _ _).trans (quiet_endRun _ _ _)
  · exact quiet_modRun _ _
  · exact Quiet.ite (quiet_modRun _ _) ((quiet_modRun _ _).trans (quiet_endRun _ _ _))
  · exact Quiet.ite (quiet_modRun _ _) ((quiet_modRun _ _).trans (quiet_endRun _ _ _))

/-! ### Frames (R111, R117, R126, R150) -/

theorem quiet_readGain (s : State) (k : Nat) : Quiet s (s.readGain k).2 := by
  unfold State.readGain
  dsimp only
  split
  · exact Quiet.refl s
  · exact (quiet_setGain _ _ _).trans (quiet_recovered _ _ _)
  · exact Quiet.refl s

theorem quiet_of_readGain {s t : State} {k : Nat} {v : Option Nat} (e : s.readGain k = (v, t)) :
    Quiet s t := by
  have := quiet_readGain s k
  rwa [e] at this

theorem quiet_gainFor (s : State) (h : Head) (c : Channel) (x : Nat) :
    Quiet s (s.gainFor h c x).2 := by
  unfold State.gainFor
  split
  · rename_i e; exact quiet_of_readGain e
  · rename_i e
    refine (quiet_of_readGain e).trans ?_
    dsimp only
    refine Quiet.trans ?_ (quiet_report _ _)
    exact quiet_modHead_same (fun _ => rfl) (fun _ => rfl) fun _ => rfl

theorem clipIf_same (u : HeadUnit) (b : Bool) :
    (u.clipIf b).phase = u.phase ∧ (u.clipIf b).correction = u.correction ∧
      (u.clipIf b).measurement = u.measurement := by
  cases b <;> exact ⟨rfl, rfl, rfl⟩

theorem quiet_correctSample (s : State) (h : Head) (snap : Snapshot) (c : Channel) (x v : Nat) :
    Quiet s (s.correctSample h snap c x v) := by
  unfold State.correctSample
  refine (quiet_gainFor s h c x).trans ?_
  exact quiet_modHead_same (fun u => (clipIf_same u _).1) (fun u => (clipIf_same u _).2.1)
    fun u => (clipIf_same u _).2.2

theorem quiet_takeSample (s : State) (h : Head) (k : CaptureKind) (snap : Snapshot) (i v : Nat) :
    Quiet s (s.takeSample h k snap i v) := by
  unfold State.takeSample
  dsimp only
  split
  · exact quiet_modHead_same (fun _ => rfl) (fun _ => rfl) fun _ => rfl
  · split
    · exact quiet_correctSample _ _ _ _ _ _
    · exact quiet_modHead_same (fun _ => rfl) (fun _ => rfl) fun _ => rfl
    · exact quiet_modHead_same (fun u => (clipIf_same u _).1) (fun u => (clipIf_same u _).2.1)
        fun u => (clipIf_same u _).2.2

theorem quiet_setPort (s : State) (h : Head) (p : PortState) : Quiet s (s.setPort h p) :=
  quiet_modHead_same (fun _ => rfl) (fun _ => rfl) fun _ => rfl

theorem quiet_writeLine (s : State) (i : SlotNo) (l : Nat) (vs : List Word) :
    Quiet s (s.writeLine i l vs) :=
  Quiet.trans (quiet_memory (wf_writeBytes (vs.flatMap sampleBytes) (sampleAddress i l 0 0)))
    (quiet_of_watched rfl)

theorem quiet_storeLine (s : State) (i : SlotNo) (l : Nat) (vs : List Word) :
    Quiet s (s.storeLine i l vs) := (quiet_setSlot _ _ _).trans (quiet_writeLine _ _ _ _)

theorem quiet_completeLine (s : State) (h : Head) (c : CaptureRecord) (snap : Snapshot) :
    Quiet s (s.completeLine h c snap) := by
  unfold State.completeLine
  dsimp only
  split
  · refine Quiet.trans ?_ (quiet_storeLine _ _ _ _)
    exact quiet_modHead_same (fun _ => rfl) (fun _ => rfl) fun _ => rfl
  · exact quiet_modHead_same (fun _ => rfl) (fun _ => rfl) fun _ => rfl

theorem quiet_updateDark (s : State) (h : Head) (snap : Snapshot) : Quiet s (s.updateDark h snap) := by
  unfold State.updateDark
  dsimp only
  refine Quiet.trans ?_ (Quiet.ite (quiet_postStation _ _) (Quiet.refl _))
  exact quiet_modHead_same (fun _ => rfl) (fun _ => rfl) fun _ => rfl

theorem quiet_endCalibration (s : State) (h : Head) (c : CaptureRecord) :
    Quiet s (s.endCalibration h c) :=
  quiet_modHead_same (fun _ => rfl) (fun _ => rfl) fun _ => rfl

theorem quiet_darkResult (s : State) (h : Head) (snap : Snapshot) :
    Quiet s (s.modHead h (·.darkResult snap)) :=
  quiet_modHead rfl fun r => ⟨⟨r.correction.w, r.correction.multiple, r.correction.h,
    fun ch => by cases ch <;> exact Nat.min_le_left _ _, r.correction.offset, r.correction.window,
    r.correction.winHi⟩, r.measurement⟩

theorem quiet_writeFlat (s : State) (h : Head) (snap : Snapshot) (i : Nat) (sums : List Nat) :
    Quiet s (s.writeFlat h snap i sums) := by
  induction sums generalizing s i with
  | nil => exact Quiet.refl s
  | cons x xs ih => exact (quiet_setGain _ _ _).trans (ih _ _)

theorem quiet_flatResult (s : State) (h : Head) (snap : Snapshot) (c : CaptureRecord) :
    Quiet s (s.flatResult h snap c) := by
  refine (quiet_writeFlat s h snap 0 (s.head h).flatSums).trans ?_
  unfold State.flatResult
  exact quiet_modHead_same (fun _ => rfl) (fun _ => rfl) fun _ => rfl

theorem quiet_judge (s : State) (h : Head) (c : CaptureRecord) (snap : Snapshot) :
    Quiet s (s.judge h c snap) := by
  unfold State.judge
  dsimp only
  split
  · exact quiet_modHead_same (fun _ => rfl) (fun _ => rfl) fun _ => rfl
  · split
    · refine Quiet.trans ?_ (quiet_setSlot _ _ _)
      exact quiet_modHead_same (fun _ => rfl) (fun _ => rfl) fun _ => rfl
    · refine Quiet.trans (Quiet.trans ?_ (quiet_setSlot _ _ _)) (quiet_actOnVerdict _ _ _ _)
      exact quiet_modHead_same (fun _ => rfl) (fun _ => rfl) fun _ => rfl

/-! ### The record of a turn (R70 to R72) -/

theorem quiet_markMissed (s : State) (h : Handle) (d : Side) : Quiet s (s.markMissed h d) := by
  unfold State.markMissed
  split
  · rename_i e; exact (quiet_of_readLeaf e).trans (quiet_skipUpdate _ _ _)
  · rename_i e
    refine (quiet_of_readLeaf e).trans ?_
    dsimp only
    split
    · exact Quiet.refl _
    · refine Quiet.trans ((quiet_setFace _ _ _ _).trans (quiet_count _ _ _))
        (Quiet.ite (Quiet.refl _) (quiet_setRescan _ _ _))

theorem movedOpening_le {n k : Nat} (c : Nat) (d : Direction) (h : k ≤ n) :
    (movedOpening n k c d).1 ≤ n := by
  cases d <;> simp only [movedOpening] <;> split <;> simp only <;> omega

theorem quiet_recordTurn (s : State) (h : Handle) : Quiet s (s.recordTurn h).2 := by
  unfold State.recordTurn
  dsimp only
  refine Quiet.trans ?_ (Quiet.ite ((quiet_markMissed _ _ _).trans (quiet_markMissed _ _ _))
    (Quiet.refl _))
  refine Quiet.trans (t := s.modVol h _) (quiet_modVol (fun r => ⟨r.leaves, ?_, r.dose, r.corrected⟩) id)
    (Quiet.ite (Quiet.refl _) (quiet_postStation _ _))
  exact movedOpening_le _ _ r.opening

/-! ### The account (R7 to R11, R21, R181) -/

theorem quiet_freshLeaves (s : State) (h : Handle) (n : Nat) : Quiet s (s.freshLeaves h n) :=
  ((quiet_leaves (wf_erase fun k => decide (k / Config.leavesPerHandle = h.place))).trans
    (quiet_setLeaf _ _ _ _)).trans (quiet_setLeaf _ _ _ _)

theorem quiet_discardKept (s : State) (i : SlotNo) (o : Owner) : Quiet s (s.discardKept i o) := by
  unfold State.discardKept
  dsimp only
  refine Quiet.trans ?_ (quiet_freeSlot _ _)
  split
  · rename_i e
    exact (quiet_count _ _ _).trans ((quiet_of_readLeaf e).trans (quiet_skipUpdate _ _ _))
  · rename_i e
    exact (quiet_count _ _ _).trans ((quiet_of_readLeaf e).trans
      (Quiet.ite (quiet_setFace _ _ _ _) (Quiet.refl _)))

theorem quiet_discardOne (h : Handle) (s : State) (i : SlotNo) : Quiet s (s.discardOne h i) := by
  unfold State.discardOne
  split
  · exact Quiet.refl s
  · split
    · split
      · exact quiet_discardSlot _ _
      · exact quiet_discardKept _ _ _
      · exact Quiet.refl s
      · exact Quiet.refl s
      · exact Quiet.refl s
    · exact Quiet.refl s

theorem retiredState_ne (s : State) (h : Handle) : s.retiredState h ≠ .active := by
  unfold State.retiredState
  split <;> simp

theorem quiet_retire (s : State) (h : Handle) : Quiet s (s.retire h) := by
  unfold State.retire
  refine Quiet.trans (t := s.modVol h _)
    (quiet_modVol (fun r => ⟨r.leaves, r.opening, r.dose, r.corrected⟩) ?_)
    (Quiet.ite (quiet_emptyRescan _) (Quiet.refl _))
  intro e
  dsimp only at e
  split at e
  · cases e
  · exact absurd e (retiredState_ne _ _)

theorem quiet_summarise (h : Handle) (n : SideCounts × State) (leaf : Nat) :
    Quiet n.2 (State.summarise h n leaf).2 := by
  unfold State.summarise
  split <;> rename_i e <;> exact quiet_of_readLeaf e

/-- A fold that carries a figure beside the state. -/
theorem quiet_foldl_pair {α β : Type} {f : β × State → α → β × State}
    (h : ∀ n a, Quiet n.2 (f n a).2) (l : List α) (n : β × State) : Quiet n.2 (l.foldl f n).2 := by
  induction l generalizing n with
  | nil => exact Quiet.refl _
  | cons a l ih => exact (h n a).trans (ih _)

theorem quiet_flagParam (s : State) (w : Word) : Quiet s (s.flagParam w).2 := by
  unfold State.flagParam
  split
  · exact Quiet.refl s
  · split
    · exact Quiet.refl s
    · exact quiet_drawn s

theorem quiet_writeMarks (s : State) (h : Handle) (d : Side) (n : Nat) (b : Bool) :
    Quiet s (s.writeMarks h d n b) := by
  unfold State.writeMarks
  exact Quiet.trans (quiet_setFace _ _ _ _) (Quiet.ite (quiet_clearRescan _ _ _) (Quiet.refl _))

theorem quiet_addLeafDoses (h : Handle) (n : DoseFigures × State) (leaf : Nat) :
    Quiet n.2 (State.addLeafDoses h n leaf).2 := by
  unfold State.addLeafDoses
  dsimp only
  split <;> rename_i e <;> exact quiet_of_readLeaf e

theorem quiet_rewriteDoses (s : State) (h : Handle) (r : SuppliedLeaf) :
    Quiet s (s.rewriteDoses h r).2 :=
  quiet_foldl_pair (quiet_addLeafDoses h) _ (⟨0, 0⟩, s)

theorem quiet_rescanAccount (s : State) (h : Handle) (d : Side) (b : Bool) :
    Quiet s (s.rescanAccount h d b) :=
  Quiet.ite (quiet_joinRescan _ _ _) (Quiet.ite (quiet_leaveRescan _ _ _) (Quiet.refl _))

theorem quiet_rewriteLeaf {s : State} {h : Handle} {r : SuppliedLeaf} {d : DoseFigures}
    (hd : d.sum ≤ (s.vol h).volumeCeiling) : Quiet s (s.rewriteLeaf h r d) := by
  unfold State.rewriteLeaf
  dsimp only
  refine Quiet.trans ?_ (quiet_foldl (fun _ _ => quiet_rescanAccount _ _ _ _) _ _)
  refine (quiet_readLeaf s h r.leaf (s.leaf h r.leaf).rewriteWords).trans ?_
  refine Quiet.trans ?_ (quiet_modVolDose (fun _ => ?_) (fun _ => ?_) (fun _ => ?_) (fun _ => ?_)
    fun _ => ?_)
  · exact quiet_setLeaf _ _ _ _
  · rfl
  · rfl
  · rfl
  · rfl
  · refine Nat.le_trans hd (Nat.le_of_eq ?_)
    exact (budget_vol (budget_readLeaf s h r.leaf (s.leaf h r.leaf).rewriteWords) h).2.symm

/-! ### Gains (R134, R135) -/

theorem quiet_loadGains (s : State) (h : Head) (c : Channel) (x : Nat) (ws : List Word) :
    Quiet s (s.loadGains h c x ws) := by
  induction ws generalizing s x with
  | nil => exact Quiet.refl s
  | cons w ws ih => exact (quiet_setGain _ _ _).trans (ih _ _)

theorem quiet_readGains (s : State) (h : Head) (c : Channel) (xs : List Nat) :
    Quiet s (s.readGains h c xs).2 := by
  induction xs generalizing s with
  | nil => exact Quiet.refl s
  | cons x xs ih =>
    have : (s.readGains h c (x :: xs)).2 = ((s.readGain (gainKey h c x)).2.readGains h c xs).2 := by
      rw [State.readGains]
      dsimp only
      generalize (s.readGain (gainKey h c x)).1 = v
      cases v <;> rfl
    rw [this]
    exact (quiet_readGain _ _).trans (ih _)

end Sys2Proof.Laws
end

