-- ==== Sys2Proof/Laws/Interlock.lean ====
section
/-! SUPPORT. What the operations of the interlock keep: the queue, the canonical form and the ranges
(`Kept`), and the agreement of the cradle with its timers, the strobes, the captures and the turn
(`Loose`, `Guarded`). One lemma for each operation, from aborting a capture up to the run's cycle. -/
namespace Sys2Proof.Laws
open Sys2Proof.Machine

/-- The fields that `Kept` speaks of. -/
def State.keptFields (s : State) :=
  (s.pending, s.serial, s.vols, s.leaves, s.rescan, s.rescanErrors, s.memory, s.gain, s.timers,
    s.light.settings, s.heads.left.correction, s.heads.left.measurement, s.heads.right.correction,
    s.heads.right.measurement)

/-- An update of the other fields. -/
theorem kept_of_fields {s t : State} (h : State.keptFields t = State.keptFields s) : Kept s t := by
  simp only [State.keptFields, Prod.mk.injEq] at h
  obtain ⟨h1, h2, h3, h4, h5, h5', h6, h7, h8, h9, h10, h11, h12, h13⟩ := h
  refine ⟨h1, fun c => ⟨?_, ?_, ?_⟩, fun a => ⟨?_, ?_, ?_, ?_, ?_, ?_⟩,
    fun r => ⟨?_, ?_, ⟨?_, ?_⟩, ⟨?_, ?_⟩⟩⟩
  · rw [h6]; exact c.memory
  · rw [h4]; exact c.leaves
  · rw [h7]; exact c.gain
  · rw [h3]; exact a.oneActive
  · rw [h2]; exact a.serial
  · rw [h3]; exact a.zero
  · rw [h3]; exact a.one
  · rw [h5]; exact a.rescan
  · rw [h5']; exact a.corrected
  · rw [h8]; exact r.timers
  · rw [h9]; exact r.light
  · rw [h10]; exact r.left.correction
  · rw [h11]; exact r.left.measurement
  · rw [h12]; exact r.right.correction
  · rw [h13]; exact r.right.measurement

theorem kept_modHead {s : State} {h : Head} {f : HeadUnit → HeadUnit}
    (hc : ∀ u, (f u).correction = u.correction) (hm : ∀ u, (f u).measurement = u.measurement) :
    Kept s (s.modHead h f) := by
  apply kept_of_fields
  cases h <;> simp only [State.keptFields, State.modHead, PerHead.set, PerHead.get, hc, hm]

theorem Kept.ite {c : Prop} [Decidable c] {s t u : State} (a : Kept s t) (b : Kept s u) :
    Kept s (if c then t else u) := by
  split
  · exact a
  · exact b

theorem kept_modCradle (s : State) (f : Cradle → Cradle) : Kept s (s.modCradle f) :=
  kept_of_fields rfl

theorem kept_enter (s : State) (st : CradleState) : Kept s (s.enter st) := kept_of_fields rfl

/-! ### Aborting captures (R114) -/

theorem calm_modHead {s : State} {h : Head} {f : HeadUnit → HeadUnit}
    (hc : ∀ u, (f u).correction = u.correction) (hm : ∀ u, (f u).measurement = u.measurement) :
    Calm s (s.modHead h f) := ⟨kept_modHead hc hm, rfl, rfl, rfl, rfl, rfl⟩

theorem phase_modHead (s : State) (h k : Head) (f : HeadUnit → HeadUnit) :
    ((s.modHead h f).head k).phase = if k = h then (f (s.head h)).phase else (s.head k).phase := by
  cases h <;> cases k <;> rfl

/-- What the abort of a capture leaves alone, and the phases it leaves. -/
theorem abortCapture_spec (s : State) (h : Head) (c : AbortCause) :
    Calm s (s.abortCapture h c) ∧
      ∀ k, ((s.abortCapture h c).head k).phase = if k = h then .idle else (s.head k).phase := by
  unfold State.abortCapture
  split
  · rename_i e
    refine ⟨Calm.refl s, fun k => ?_⟩
    split
    · rename_i hk; rw [hk, e]
    · rfl
  · have a : Calm s (s.modHead h (·.aborted c)) := calm_modHead (fun _ => rfl) fun _ => rfl
    have p : ∀ k, ((s.modHead h (·.aborted c)).head k).phase =
        if k = h then .idle else (s.head k).phase := fun k => phase_modHead _ _ _ _
    dsimp only
    generalize (s.head h).capture.bind (·.slot) = i
    have q : Quiet (s.modHead h (·.aborted c)) (match i with
        | some i => (s.modHead h (·.aborted c)).discardSlot i
        | none => s.modHead h (·.aborted c)) := by
      cases i
      · exact Quiet.refl _
      · exact quiet_discardSlot _ _
    cases c.fault with
    | none => exact ⟨a.trans q.toCalm, fun k => (q.phases k).trans (p k)⟩
    | some x =>
      have q' := q.trans (quiet_report _ { FaultRecord.plain x with head := some h })
      exact ⟨a.trans q'.toCalm, fun k => (q'.phases k).trans (p k)⟩

theorem calm_abortCapture (s : State) (h : Head) (c : AbortCause) : Calm s (s.abortCapture h c) :=
  (abortCapture_spec s h c).1

theorem phase_abortCapture (s : State) (h k : Head) (c : AbortCause) :
    ((s.abortCapture h c).head k).phase = if k = h then .idle else (s.head k).phase :=
  (abortCapture_spec s h c).2 k

theorem inFlight_eq_false {s : State} :
    s.inFlight = false ↔ (s.head .left).phase = .idle ∧ (s.head .right).phase = .idle := by
  simp only [State.inFlight, State.head, PerHead.get]
  cases s.heads.left.phase <;> cases s.heads.right.phase <;> simp

theorem calm_abortAll (s : State) (c : AbortCause) : Calm s (s.abortAll c) := by
  unfold State.abortAll
  split
  · exact ((calm_abortCapture _ _ _).trans (calm_abortCapture _ _ _)).trans
      (quiet_postStation _ _).toCalm
  · exact Calm.refl s

theorem inFlight_abortAll (s : State) (c : AbortCause) : (s.abortAll c).inFlight = false := by
  unfold State.abortAll
  split
  · rw [(quiet_postStation _ _).inFlight, inFlight_eq_false]
    simp [phase_abortCapture]
  · rename_i h
    simpa using h

/-! ### The agreement of the interlock -/

/-- `State.Interlocked` while the end of an exposure may still have a raise to carry out. -/
structure Loose (s : State) : Prop where
  travel : s.cradle.travelTimer.isSome → s.cradle.state = .lowering ∨ s.cradle.state = .raising
  settle : s.cradle.settleTimer.isSome → s.cradle.state = .settling ∧ s.cradle.pressure = true
  grant : s.cradle.grantTimer.isSome → s.cradle.state = .turnGranted
  strobes : s.cradle.state ≠ .ready → s.light.dark
  captures : s.inFlight = true → s.cradle.state = .ready
  raisePending : s.cradle.raisePending = true → s.cradle.state = .ready
  pending : s.turn.phase = .pending ↔ s.cradle.grantPending = true
  grantPending : s.cradle.grantPending = true → s.cradle.state = .raising
  granted : s.turn.phase = .granted ↔ s.cradle.state = .turnGranted

theorem interlocked_iff {s : State} :
    s.Interlocked ↔ Loose s ∧ (s.cradle.raisePending = true → s.inFlight = true) :=
  ⟨fun h => ⟨⟨h.travel, h.settle, h.grant, h.strobes, h.captures, fun r => (h.raisePending r).1,
      h.pending, h.grantPending, h.granted⟩, fun r => (h.raisePending r).2⟩,
    fun ⟨h, r⟩ => ⟨h.travel, h.settle, h.grant, h.strobes, h.captures,
      fun x => ⟨h.raisePending x, r x⟩, h.pending, h.grantPending, h.granted⟩⟩

/-- What an operation comes to: the agreement holds, no raise has been made pending, and captures end
only where none is. -/
structure Landed (s t : State) : Prop where
  loose : Loose t
  raise : t.cradle.raisePending = true →
    s.cradle.raisePending = true ∧ (s.inFlight = true → t.inFlight = true)

/-- An operation that keeps everything. -/
structure Guarded (s t : State) : Prop extends Kept s t where
  landed : Loose s → Landed s t

theorem Landed.refl {s : State} (h : Loose s) : Landed s s := ⟨h, fun r => ⟨r, id⟩⟩

theorem Landed.trans {s t u : State} (a : Landed s t) (b : Landed t u) : Landed s u :=
  ⟨b.loose, fun r => ⟨(a.raise (b.raise r).1).1,
    fun f => (b.raise r).2 ((a.raise (b.raise r).1).2 f)⟩⟩

theorem Guarded.refl (s : State) : Guarded s s := ⟨Kept.refl s, Landed.refl⟩

theorem Guarded.trans {s t u : State} (a : Guarded s t) (b : Guarded t u) : Guarded s u :=
  ⟨a.toKept.trans b.toKept, fun h => (a.landed h).trans (b.landed (a.landed h).loose)⟩

theorem Guarded.ite {c : Prop} [Decidable c] {s t u : State} (a : Guarded s t) (b : Guarded s u) :
    Guarded s (if c then t else u) := by
  split
  · exact a
  · exact b

theorem Landed.interlocked {s t : State} (h : s.Interlocked) (a : Landed s t) : t.Interlocked :=
  interlocked_iff.2 ⟨a.loose, fun r => (a.raise r).2 ((h.raisePending (a.raise r).1).2)⟩

theorem Guarded.interlocked {s t : State} (a : Guarded s t) (h : s.Interlocked) : t.Interlocked :=
  (a.landed (interlocked_iff.1 h).1).interlocked h

theorem loose_of_quiet {s t : State} (a : Quiet s t) (h : Loose s) : Loose t := by
  have f := a.inFlight
  have c := a.cradle
  have l := a.strobes
  have u := a.turn
  exact ⟨c ▸ h.travel, c ▸ h.settle, c ▸ h.grant,
    by rw [c]; intro x; show _ = _; rw [l]; exact h.strobes x,
    by rw [f, c]; exact h.captures, c ▸ h.raisePending, by rw [c, u]; exact h.pending,
    c ▸ h.grantPending, by rw [c, u]; exact h.granted⟩

theorem Quiet.guarded {s t : State} (a : Quiet s t) : Guarded s t :=
  ⟨a.toKept, fun h => ⟨loose_of_quiet a h, by rw [a.cradle, a.inFlight]; exact fun r => ⟨r, id⟩⟩⟩

/-! ### Halting (R58) -/

theorem kept_cancelTurn (s : State) (c : HaltCause) : Kept s (s.cancelTurn c) := by
  unfold State.cancelTurn
  dsimp only
  split
  · have a : Kept s ({ s with turn := { s.turn with
        phase := if c = HaltCause.turner then .faulted else .cancelled } }.postTurner .grantCancelled) :=
      kept_of_fields rfl
    split
    · exact a.trans (quiet_setUncertain _).toKept
    · exact a
  · exact kept_of_fields rfl
  · exact Kept.refl s

/-- What ending a turn leaves alone, and the phase it leaves. -/
theorem cancelTurn_spec (s : State) (c : HaltCause) :
    (s.cancelTurn c).cradle = s.cradle ∧ (s.cancelTurn c).light = s.light ∧
      (s.cancelTurn c).heads = s.heads ∧ (s.cancelTurn c).turn.phase ≠ .granted ∧
      (s.cancelTurn c).turn.phase ≠ .pending := by
  have fate : ∀ x : TurnPhase, x = (if c = HaltCause.turner then TurnPhase.faulted else .cancelled) →
      x ≠ .granted ∧ x ≠ .pending := by
    intro x hx
    subst hx
    split <;> simp
  unfold State.cancelTurn
  dsimp only
  split
  · split
    · unfold State.setUncertain
      split
      · refine ⟨?_, ?_, ?_, fate _ ?_⟩ <;> simp
      · exact ⟨rfl, rfl, rfl, fate _ rfl⟩
    · exact ⟨rfl, rfl, rfl, fate _ rfl⟩
  · exact ⟨rfl, rfl, rfl, fate _ rfl⟩
  · rename_i h1 h2
    exact ⟨rfl, rfl, rfl, h1, h2⟩

theorem quiet_reportHalt (s : State) (c : HaltCause) : Quiet s (s.reportHalt c) := by
  unfold State.reportHalt
  split
  · exact quiet_report _ _
  · exact Quiet.refl s

/-- The cradle of a halt (R58). -/
def haltedCradle (s : State) (c : HaltCause) : Cradle :=
  { (s.enter .halted).cradle with raisePending := false, grantPending := false, haltCause := c }

/-- What a halt comes to: HALTED with its cause, every bank DARK, no capture in flight, no turn. -/
theorem halt_spec (s : State) (c : HaltCause) :
    Kept s (s.halt c) ∧ (s.halt c).cradle = haltedCradle s c ∧ (s.halt c).light.dark ∧
      (s.halt c).inFlight = false ∧ (s.halt c).turn.phase ≠ .granted ∧
      (s.halt c).turn.phase ≠ .pending := by
  unfold State.halt
  dsimp only
  have a : Kept s { s.enter .halted with cradle := haltedCradle s c } := kept_of_fields rfl
  have b := quiet_haltRun { s.enter .halted with cradle := haltedCradle s c }
  have d := b.toCalm.trans (calm_abortAll _ c.abort)
  have f := inFlight_abortAll (State.haltRun { s.enter .halted with cradle := haltedCradle s c }) c.abort
  generalize hu : State.abortAll (State.haltRun { s.enter .halted with cradle := haltedCradle s c })
    c.abort = u at d f
  have k := kept_cancelTurn u c
  have e := cancelTurn_spec u c
  have q := ((quiet_postStation (u.cancelTurn c) .cradleHalted).trans (quiet_postTurner _ .cradleHalted)).trans
    (quiet_reportHalt _ c)
  have hu' : (State.abortAll (State.haltRun { s.enter .halted with cradle := { (s.enter .halted).cradle with
      raisePending := false, grantPending := false, haltCause := c } }) c.abort) = u := hu
  rw [hu']
  refine ⟨((a.trans d.toKept).trans k).trans q.toKept, ?_, ?_, ?_, ?_, ?_⟩
  · rw [q.cradle, e.1, d.cradle]
  · show _ = _
    rw [q.strobes, e.2.1, d.strobes]
    rfl
  · rw [q.inFlight]
    rw [inFlight_eq_false] at f ⊢
    simpa only [State.head, e.2.2.1] using f
  · rw [q.turn]; exact e.2.2.2.1
  · rw [q.turn]; exact e.2.2.2.2

theorem landed_halt (s t : State) (c : HaltCause) : Landed t (s.halt c) := by
  obtain ⟨-, hc, hl, hf, hg, hp⟩ := halt_spec s c
  refine ⟨⟨?_, ?_, ?_, fun _ => hl, ?_, ?_, ?_, ?_, ?_⟩, ?_⟩ <;>
    simp [hc, haltedCradle, State.enter, hf, hg, hp]

theorem kept_halt (s : State) (c : HaltCause) : Kept s (s.halt c) := (halt_spec s c).1

theorem guarded_halt (s : State) (c : HaltCause) : Guarded s (s.halt c) :=
  ⟨kept_halt s c, fun _ => landed_halt s s c⟩

theorem guarded_trip (s : State) : Guarded s s.trip := guarded_halt s _

/-! ### Entering a cradle state (R47) -/

/-- What makes a cradle state enterable: the turn and the captures agree with it. -/
structure EnterOk (s : State) (st : CradleState) : Prop where
  captures : st ≠ .ready → s.inFlight = false
  raisePending : s.cradle.raisePending = true → st = .ready
  pending : s.turn.phase = .pending ↔ s.cradle.grantPending = true
  grantPending : s.cradle.grantPending = true → st = .raising
  granted : s.turn.phase = .granted ↔ st = .turnGranted

theorem kept_enterChecked (s : State) (st : CradleState) : Kept s (s.enterChecked st) :=
  Kept.ite (kept_enter s st) ((kept_enter s st).trans (kept_halt _ _))

theorem loose_enter {s : State} {st : CradleState} (h : EnterOk s st) : Loose (s.enter st) := by
  refine ⟨?_, ?_, ?_, ?_, ?_, h.raisePending, h.pending, h.grantPending, h.granted⟩
  · show Option.isSome (if _ then _ else _) → _
    split
    · rename_i e; exact fun _ => e
    · exact fun x => by cases x
  · exact fun x => by cases x
  · show Option.isSome (if _ then _ else _) → _
    split
    · rename_i e; exact fun _ => e
    · exact fun x => by cases x
  · intro x
    show (if _ then _ else _) = _
    exact if_neg x
  · intro f
    show st = .ready
    apply Classical.byContradiction
    intro hne
    have : s.inFlight = true := f
    rw [h.captures hne] at this
    cases this

theorem landed_enterChecked {s : State} {st : CradleState} (h : EnterOk s st) :
    Landed s (s.enterChecked st) := by
  unfold State.enterChecked
  dsimp only
  split
  · exact ⟨loose_enter h, fun r => ⟨r, id⟩⟩
  · exact landed_halt _ _ _

/-- From a state with no turn in hand and no capture in flight. -/
theorem enterOk_of_loose {s : State} {st : CradleState} (h : Loose s) (h1 : s.cradle.state ≠ .raising)
    (h2 : s.cradle.state ≠ .turnGranted) (h3 : st ≠ .turnGranted)
    (h4 : st ≠ .ready → s.cradle.state ≠ .ready) : EnterOk s st := by
  have gp : s.cradle.grantPending = false := by
    cases e : s.cradle.grantPending
    · rfl
    · exact absurd (h.grantPending e) h1
  refine ⟨fun x => ?_, fun r => ?_, h.pending, by simp [gp], ?_⟩
  · cases e : s.inFlight
    · rfl
    · exact absurd (h.captures e) (h4 x)
  · apply Classical.byContradiction
    exact fun x => h4 x (h.raisePending r)
  · exact ⟨fun x => absurd (h.granted.1 x) h2, fun x => absurd x h3⟩

theorem kept_checkSwitches (s : State) : Kept s s.checkSwitches :=
  Kept.ite (Kept.refl s) (kept_halt _ _)

theorem guarded_checkSwitches (s : State) : Guarded s s.checkSwitches :=
  Guarded.ite (Guarded.refl s) (guarded_trip s)

/-! ### Exposures (R94, R109, R129) -/

/-- An operation of a READY cradle: strobes may fire and captures may start. -/
structure Lit (s t : State) : Prop extends Kept s t where
  cradle : t.cradle = s.cradle
  turn : t.turn = s.turn
  flight : s.inFlight = true → t.inFlight = true

theorem Lit.trans {s t u : State} (a : Lit s t) (b : Lit t u) : Lit s u :=
  ⟨a.toKept.trans b.toKept, b.cradle.trans a.cradle, b.turn.trans a.turn, fun f => b.flight (a.flight f)⟩

theorem Quiet.lit {s t : State} (a : Quiet s t) : Lit s t :=
  ⟨a.toKept, a.cradle, a.turn, by rw [a.inFlight]; exact id⟩

theorem Lit.refl (s : State) : Lit s s := (Quiet.refl s).lit

theorem lit_foldl {α : Type} {f : State → α → State} (h : ∀ s a, Lit s (f s a)) (l : List α)
    (s : State) : Lit s (l.foldl f s) := by
  induction l generalizing s with
  | nil => exact Lit.refl s
  | cons a l ih => exact (h s a).trans (ih _)

theorem Lit.guarded {s t : State} (a : Lit s t) (hr : s.cradle.state = .ready) : Guarded s t := by
  refine ⟨a.toKept, fun h => ⟨⟨?_, ?_, ?_, ?_, ?_, ?_, ?_, ?_, ?_⟩, ?_⟩⟩
  · rw [a.cradle]; exact h.travel
  · rw [a.cradle]; exact h.settle
  · rw [a.cradle]; exact h.grant
  · rw [a.cradle]; exact fun x => absurd hr x
  · rw [a.cradle]; exact fun _ => hr
  · rw [a.cradle]; exact fun _ => hr
  · rw [a.cradle, a.turn]; exact h.pending
  · rw [a.cradle]; exact h.grantPending
  · rw [a.cradle, a.turn]; exact h.granted
  · rw [a.cradle]; exact fun r => ⟨r, a.flight⟩

theorem lit_fire (s : State) (k : CaptureKind) (l : PerHead (Option LightLatch))
    (c : Option (Nat × PerHead (Option Side))) : Lit s (s.fire k l c) :=
  ⟨kept_of_fields rfl, rfl, rfl, id⟩

theorem lit_trigger (s : State) (h : Head) (k : CaptureKind) (i : Option SlotNo)
    (d : Option SidePanel) (t : Nat) : Lit s (s.trigger h k i d t) := by
  refine ⟨kept_modHead (fun _ => rfl) fun _ => rfl, rfl, rfl, fun _ => ?_⟩
  unfold State.trigger
  cases h <;> simp [State.inFlight, State.modHead, PerHead.set, HeadUnit.start]

/-- The planned dose of the sides of an exposure fits under the volume's ceiling. -/
def Affordable (s : State) (h : Handle) (vs : List SideView) : Prop :=
  (s.vol h).dose + (vs.map fun v => (s.light.settings.latch v.head).planned).sum ≤
    (s.vol h).volumeCeiling

theorem affordable_of_budget {s t : State} (e : State.budget t = State.budget s) {h : Handle}
    {vs : List SideView} (a : Affordable s h vs) : Affordable t h vs := by
  unfold Affordable
  rw [(budget_vol e h).1, (budget_vol e h).2, budget_settings e]
  exact a

theorem lit_fireAndCharge {s : State} {h : Handle} {vs : List SideView} (a : Affordable s h vs) :
    Lit s (s.fireAndCharge h vs) := by
  unfold State.fireAndCharge
  dsimp only
  refine ((lit_fire _ _ _ _).trans (lit_foldl (fun t (v : SideView) =>
    (quiet_chargeSide t h v.side (s.light.settings.latch v.head).planned).lit) _ _)).trans
    (quiet_chargeVolume ?_).lit
  have e := budget_foldl (f := fun t (v : SideView) =>
    t.chargeSide h v.side (s.light.settings.latch v.head).planned)
    (fun t v => budget_chargeSide t h v.side _) vs
    (s.fire .normal ⟨(viewAt vs .left).map fun v => s.light.settings.latch v.head,
        (viewAt vs .right).map fun v => s.light.settings.latch v.head⟩
      (some ((s.vol h).serial, ⟨(viewAt vs .left).map (·.side), (viewAt vs .right).map (·.side)⟩)))
  have b := budget_vol e h
  rw [b.1, b.2]
  exact a

theorem lit_startExposure {s : State} {h : Handle} {vs : List SideView} (a : Affordable s h vs) :
    Lit s (s.startExposure h vs).2 := by
  unfold State.startExposure
  dsimp only
  refine Lit.trans ?_ (lit_foldl (fun t v => lit_trigger _ _ _ _ _ _) _ _)
  refine Lit.trans ?_ (lit_fireAndCharge (affordable_of_budget ?_ a))
  · refine Lit.trans ?_ (quiet_count _ _ _).lit
    exact (lit_foldl (fun t v => (quiet_replaceHeld t h v).lit) _ _).trans
      (quiet_allocateAll _ _ _).lit
  · exact ((budget_count _ _ _).trans (budget_allocateAll _ _ _)).trans
      (budget_foldl (fun t v => budget_foldl (fun t i => budget_discardSlot t i) _ _) _ _)

theorem lit_attemptRemaining (s : State) (h : Handle) (vs : List SideView) :
    Lit s (s.attemptRemaining h vs).2 := by
  unfold State.attemptRemaining
  split
  · exact Quiet.lit (t := { s with full := true }) (quiet_of_watched rfl)
  · have q := quiet_readDoses s h vs
    split <;> rename_i e <;> rw [e] at q
    · exact q.lit
    · dsimp only
      split
      · refine (q.trans ?_).lit
        exact quiet_light rfl id
      · rename_i hd
        refine q.lit.trans (lit_startExposure ?_)
        have p := planned_readDoses s h vs
        have b := budget_readDoses s h vs
        rw [e] at p b
        simp only [doseRefused, Bool.or_eq_true, decide_eq_true_eq, not_or, Nat.not_lt] at hd
        unfold Affordable
        rw [budget_settings b, ← p]
        exact hd.2

theorem lit_attemptSides (s : State) (h : Handle) (rs : List (Head × Nat)) :
    Lit s (s.attemptSides h rs).2 := by
  unfold State.attemptSides
  split
  · exact Lit.refl s
  · have q := quiet_viewSides s h (s.vol h).opening rs
    dsimp only
    split
    · exact q.lit
    · split
      · exact q.lit
      · split
        · exact q.lit
        · split
          · exact q.lit
          · exact q.lit.trans (lit_attemptRemaining _ _ _)

theorem guarded_attemptExposure (s : State) (rs : List (Head × Nat)) :
    Guarded s (s.attemptExposure rs).2 := by
  unfold State.attemptExposure
  split
  · exact Guarded.refl s
  · rename_i h _
    refine (quiet_readVolume s h).guarded.trans ?_
    dsimp only
    generalize s.readVolume h = s
    split
    · exact guarded_trip s
    · split
      · exact Guarded.refl s
      · rename_i hr
        have hr : s.cradle.state = .ready := Classical.not_not.1 hr
        split
        · exact Quiet.guarded (t := { s with overlap := true }) (quiet_of_watched rfl)
        · split
          · exact Guarded.refl s
          · exact (lit_attemptSides _ _ _).guarded hr

/-! ### The run's cycle (R157, R158, R160) -/

theorem guarded_lowerRequest (s : State) : Guarded s s.lowerRequest := by
  unfold State.lowerRequest
  split
  · rename_i e
    exact ⟨kept_enterChecked _ _, fun h => landed_enterChecked (enterOk_of_loose h (by simp [e])
      (by simp [e]) (by simp) (by simp [e]))⟩
  · exact Guarded.refl s

theorem guarded_prepare (s : State) : Guarded s s.prepare :=
  (quiet_modRun _ _).guarded.trans (guarded_lowerRequest _)

theorem guarded_runAttempt (s : State) (rs : List (Head × Nat)) : Guarded s (s.runAttempt rs) := by
  unfold State.runAttempt
  have g := (quiet_countRequest s).guarded.trans (guarded_attemptExposure s.countRequest rs)
  split <;> rename_i e <;> rw [e] at g
  · exact g.trans (quiet_modRun _ _).guarded
  · exact g.trans (quiet_modRun _ _).guarded
  · exact g.trans (quiet_endRun _ _ _).guarded
  · exact g.trans (quiet_endRun _ _ _).guarded

theorem guarded_captureChosen (s : State) (rs : List (Head × Nat)) :
    Guarded s (s.captureChosen rs) :=
  Guarded.ite (quiet_endRun _ _ _).guarded (Guarded.ite (guarded_trip s)
    (Guarded.ite (guarded_prepare s) (guarded_runAttempt s rs)))

theorem guarded_cycleStep (s : State) : Guarded s s.cycleStep := by
  unfold State.cycleStep
  cases s.active with
  | none => exact Guarded.refl s
  | some h =>
    refine (quiet_readVolume s h).guarded.trans ?_
    dsimp only
    generalize s.readVolume h = s
    split
    · exact Guarded.ite (quiet_endRun _ _ _).guarded (quiet_modRun _ _).guarded
    · have q := (quiet_chooseSide s h (s.vol h).opening .left).trans
        (quiet_chooseSide _ h (s.vol h).opening .right)
      exact q.guarded.trans (Guarded.ite (quiet_passOn _ _ _).guarded (guarded_captureChosen _ _))

theorem guarded_reportFreed (s t : State) : Guarded s (s.reportFreed t) :=
  Guarded.ite (guarded_cycleStep s) (Guarded.refl s)

theorem guarded_decided (s : State) : Guarded s s.decided := by
  unfold State.decided
  split
  · split
    · exact Guarded.refl s
    · exact (quiet_readVolume s _).guarded.trans (Guarded.ite (Guarded.refl _) (guarded_cycleStep _))
  · exact Guarded.refl s

theorem guarded_runExposureEnded (s : State) : Guarded s s.runExposureEnded := by
  unfold State.runExposureEnded
  split
  · split
    · exact Guarded.ite ((quiet_drawn s).trans (quiet_endRun _ _ _)).guarded
        ((quiet_drawn s).trans (quiet_endRun _ _ _)).guarded
    · exact (quiet_endRun _ _ _).guarded
    · exact (quiet_endRun _ _ _).guarded
    · exact (quiet_modRun _ _).guarded.trans (guarded_cycleStep _)
  · exact Guarded.refl s

theorem guarded_runOn (s : State) : Guarded s s.runOn :=
  Guarded.ite (quiet_endRun _ _ _).guarded
    (Guarded.ite (quiet_endRun _ _ _).guarded (guarded_cycleStep s))

theorem guarded_turnEnded (s : State) (b : Bool) : Guarded s (s.turnEnded b) := by
  unfold State.turnEnded
  split
  · refine (quiet_modRun s fun r => { r with wanted := none }).guarded.trans ?_
    dsimp only
    split
    · exact (quiet_endRun _ _ _).guarded
    · split
      · exact ((quiet_modRun _ _).trans (quiet_seekOn _)).guarded
      · exact (quiet_modRun _ _).guarded.trans (guarded_runOn _)
  · exact Guarded.refl s

/-! ### READY, SETTLING and OPEN (R51, R52, R55) -/

theorem guarded_afterReady (s : State) : Guarded s
    (if s.cradle.state = .ready ∧ s.run.state = .preparing then s.cycleStep else s) :=
  Guarded.ite (guarded_cycleStep s) (Guarded.refl s)

theorem kept_reachReady (s : State) : Kept s s.reachReady :=
  (kept_enterChecked s .ready).trans (guarded_afterReady _).toKept

theorem landed_reachReady {s : State} (h : EnterOk s .ready) : Landed s s.reachReady :=
  (landed_enterChecked h).trans ((guarded_afterReady _).landed (landed_enterChecked h).loose)

theorem kept_startSettle (s : State) : Kept s s.startSettle :=
  Kept.ite (kept_reachReady s) (kept_modCradle s _)

theorem landed_startSettle {s : State} (h : Loose s) (hs : s.cradle.state = .settling)
    (hp : s.cradle.pressure = true) : Landed s s.startSettle := by
  unfold State.startSettle
  split
  · exact landed_reachReady (enterOk_of_loose h (by simp [hs]) (by simp [hs]) (by simp) (by simp))
  · exact ⟨⟨h.travel, fun _ => ⟨hs, hp⟩, h.grant, h.strobes, h.captures, h.raisePending, h.pending,
      h.grantPending, h.granted⟩, fun r => ⟨r, id⟩⟩

theorem kept_enterSettling (s : State) : Kept s s.enterSettling :=
  (kept_enterChecked s .settling).trans (Kept.ite (kept_startSettle _) (Kept.refl _))

theorem landed_enterSettling {s : State} (h : EnterOk s .settling) : Landed s s.enterSettling := by
  have a := landed_enterChecked h
  unfold State.enterSettling
  dsimp only
  split
  · rename_i e
    exact a.trans (landed_startSettle a.loose e.1 e.2)
  · exact a

theorem kept_beginGrant (s : State) : Kept s s.beginGrant :=
  Kept.trans (t := { (s.modCradle fun c => { c with grantPending := false }) with
    turn := { s.turn with phase := .granted } }) (kept_of_fields rfl) (kept_enterChecked _ _)

/-- A grant begins with no capture in flight and no raise pending. -/
theorem landed_beginGrant {s : State} (hf : s.inFlight = false)
    (hr : s.cradle.raisePending = false) : Landed s s.beginGrant := by
  have e : EnterOk { (s.modCradle fun c => { c with grantPending := false }) with
      turn := { s.turn with phase := .granted } } .turnGranted :=
    ⟨fun _ => hf, fun r => absurd (hr.symm.trans r) (by simp), by simp [State.modCradle],
      by simp [State.modCradle], by simp⟩
  have a := landed_enterChecked e
  exact ⟨a.loose, fun r => ⟨(a.raise r).1, fun f => absurd (hf.symm.trans f) (by simp)⟩⟩

theorem kept_reachOpen (s : State) : Kept s s.reachOpen := by
  unfold State.reachOpen
  dsimp only
  refine (kept_enterChecked s .opened).trans (Kept.ite ?_ (Kept.refl _))
  refine (quiet_postTurner _ _).toKept.trans (Kept.ite (kept_beginGrant _) ?_)
  exact Kept.ite (guarded_lowerRequest _).toKept (Kept.refl _)

/-- OPEN is reached with no capture in flight, no raise pending and no grant held. -/
theorem landed_reachOpen {s : State} (hf : s.inFlight = false) (hr : s.cradle.raisePending = false)
    (hp : s.turn.phase = .pending ↔ s.cradle.grantPending = true) (hg : s.turn.phase ≠ .granted) :
    Landed s s.reachOpen := by
  unfold State.reachOpen State.enterChecked
  dsimp only
  by_cases hsw : switchesAgree .opened (s.enter .opened).cradle.upSwitch
      (s.enter .opened).cradle.downSwitch = true
  · simp only [if_pos hsw]
    have hst : (s.enter .opened).cradle.state = .opened := rfl
    rw [if_pos hst]
    have hfl : ((s.enter .opened).postTurner .cradleOpen).inFlight = false := hf
    have hrp : ((s.enter .opened).postTurner .cradleOpen).cradle.raisePending = false := hr
    by_cases hgp : s.cradle.grantPending = true
    · have : ((s.enter .opened).postTurner .cradleOpen).cradle.grantPending = true := hgp
      rw [if_pos this]
      have b := landed_beginGrant hfl hrp
      exact ⟨b.loose, fun r => ⟨(b.raise r).1, fun f => absurd (hf.symm.trans f) (by simp)⟩⟩
    · have hng : ¬((s.enter .opened).postTurner .cradleOpen).cradle.grantPending = true := hgp
      rw [if_neg hng]
      have e : EnterOk s .opened := ⟨fun _ => hf, fun r => absurd (hr.symm.trans r) (by simp), hp,
        fun r => absurd r hgp, ⟨fun x => absurd x hg, fun x => by cases x⟩⟩
      have l : Loose ((s.enter .opened).postTurner .cradleOpen) :=
        loose_of_quiet (quiet_postTurner _ _) (loose_enter e)
      have m : Landed s ((s.enter .opened).postTurner .cradleOpen) := ⟨l, fun r => ⟨r, id⟩⟩
      exact m.trans ((Guarded.ite (guarded_lowerRequest _) (Guarded.refl _)).landed l)
  · simp only [if_neg hsw]
    have hst : ¬(s.enter .opened).trip.cradle.state = .opened := by
      rw [show (s.enter .opened).trip.cradle = haltedCradle (s.enter .opened) .interlockCheck from
        (halt_spec _ _).2.1]
      simp [haltedCradle, State.enter]
    rw [if_neg hst]
    exact landed_halt _ _ _

/-! ### The end of an exposure (R54, R115) -/

theorem kept_settleAfterExposure (s : State) : Kept s s.settleAfterExposure :=
  Kept.ite (kept_halt _ _) (Kept.ite (Kept.ite ((kept_modCradle _ _).trans (kept_enterChecked _ _))
    (Kept.ite (kept_enterSettling _) (Kept.refl _))) (Kept.refl _))

/-- With no capture in flight, the raise that was pending is carried out. -/
theorem settleAfterExposure_landed {s : State} (h : Loose s) (hf : s.inFlight = false) :
    Loose s.settleAfterExposure ∧ s.settleAfterExposure.cradle.raisePending = false := by
  have off : ∀ {t : State}, Landed { s with cradle := { s.cradle with raisePending := false } } t →
      Loose t ∧ t.cradle.raisePending = false := fun {t} a => ⟨a.loose, by
    cases e : t.cradle.raisePending
    · rfl
    · exact absurd (a.raise e).1 (by simp)⟩
  unfold State.settleAfterExposure
  split
  · exact off (landed_halt _ _ _)
  · split
    · rename_i hr
      have gp : s.cradle.grantPending = false := by
        cases e : s.cradle.grantPending
        · rfl
        · exact absurd (h.grantPending e) (by simp [hr])
      have ng : s.turn.phase ≠ .granted := fun x => by
        have := h.granted.1 x
        rw [hr] at this
        cases this
      split
      · apply off
        apply landed_enterChecked
        exact ⟨fun _ => hf, fun r => (by cases r), h.pending, fun _ => rfl,
          ⟨fun x => absurd x ng, fun x => (by cases x)⟩⟩
      · rename_i hn
        have hn : s.cradle.raisePending = false := by simpa using hn
        have off' : ∀ {t : State}, Landed s t → Loose t ∧ t.cradle.raisePending = false :=
          fun {t} a => ⟨a.loose, by
            cases e : t.cradle.raisePending
            · rfl
            · exact absurd (a.raise e).1 (by simp [hn])⟩
        split
        · apply off'
          apply landed_enterSettling
          exact ⟨fun _ => hf, fun r => absurd r (by simp [hn]), h.pending,
            fun r => absurd r (by simp [gp]), ⟨fun x => absurd x ng, fun x => by cases x⟩⟩
        · exact ⟨h, hn⟩
    · rename_i hr
      refine ⟨h, ?_⟩
      cases e : s.cradle.raisePending
      · rfl
      · exact absurd (h.raisePending e) hr

theorem kept_exposureEnd (s : State) : Kept s s.exposureEnd :=
  ((quiet_postStation _ _).toKept.trans (kept_settleAfterExposure _)).trans
    (guarded_runExposureEnded _).toKept

theorem interlocked_exposureEnd {s : State} (h : Loose s) (hf : s.inFlight = false) :
    s.exposureEnd.Interlocked := by
  have q := quiet_postStation s .captureDone
  have a := settleAfterExposure_landed (loose_of_quiet q h) (by rw [q.inFlight]; exact hf)
  have g := (guarded_runExposureEnded (s.postStation .captureDone).settleAfterExposure).landed a.1
  exact interlocked_iff.2 ⟨g.loose, fun r => absurd (g.raise r).1 (by simp [a.2])⟩

/-- The agreement, once one head's capture has ended. -/
theorem loose_of_calm {s t : State} (a : Calm s t) (h : Loose s)
    (hp : ∀ k, (t.head k).phase = .capturing → (s.head k).phase = .capturing) : Loose t := by
  refine ⟨?_, ?_, ?_, ?_, ?_, ?_, ?_, ?_, ?_⟩
  · rw [a.cradle]; exact h.travel
  · rw [a.cradle]; exact h.settle
  · rw [a.cradle]; exact h.grant
  · rw [a.cradle]; intro x; show _ = _; rw [a.strobes]; exact h.strobes x
  · rw [a.cradle]
    intro f
    apply h.captures
    have l := hp .left
    have r := hp .right
    simp only [State.head, PerHead.get] at l r
    simp only [State.inFlight, Bool.or_eq_true, beq_iff_eq] at f ⊢
    exact f.imp l r
  · rw [a.cradle]; exact h.raisePending
  · rw [a.cradle, a.turn]; exact h.pending
  · rw [a.cradle]; exact h.grantPending
  · rw [a.cradle, a.turn]; exact h.granted

/-- The event in which a capture ends: the exposure ends with the last of them. -/
theorem interlocked_captureEnds {t u : State} (h : Loose t) :
    ((t.reportFreed u).inFlight = false → (t.reportFreed u).exposureEnd.Interlocked) ∧
      ((t.reportFreed u).inFlight = true → (t.reportFreed u).Interlocked) := by
  have g := (guarded_reportFreed t u).landed h
  exact ⟨interlocked_exposureEnd g.loose, fun f => interlocked_iff.2 ⟨g.loose, fun _ => f⟩⟩

theorem kept_headError (s : State) (h : Head) (c : AbortCause) : Kept s (s.headError h c) := by
  unfold State.headError
  dsimp only
  have a := (calm_abortCapture s h c).toKept.trans (guarded_reportFreed _ s).toKept
  exact Kept.ite a (a.trans (kept_exposureEnd _))

theorem interlocked_headError {s : State} (hs : s.Interlocked) (h : Head) (c : AbortCause) :
    (s.headError h c).Interlocked := by
  have l : Loose (s.abortCapture h c) := loose_of_calm (calm_abortCapture s h c)
    (interlocked_iff.1 hs).1 fun k => by
      rw [phase_abortCapture]
      split
      · intro x; cases x
      · exact id
  have e := interlocked_captureEnds (u := s) l
  unfold State.headError
  dsimp only
  split
  · rename_i f; exact e.2 f
  · rename_i f; exact e.1 (by simpa using f)

end Sys2Proof.Laws
end

