-- ==== Sys2Proof/Laws/PerInstr.lean ====
section
/-! SUPPORT. The family Fits: a well-formed command spells exactly the words its command word calls for,
so a link that takes them takes the command at the last of them and not before (R188, R189). -/
namespace Sys2Proof.Laws
open Sys2Proof.Machine

/-! ### Completeness of LEAF REWRITE's words -/

theorem parseStats_append {ws rest : List Word} {c : CaptureStats} (more : List Word)
    (h : parseStats ws = some (c, rest)) : parseStats (ws ++ more) = some (c, rest ++ more) := by
  match ws, h with
  | f :: ws, h =>
    simp only [parseStats, List.cons_append] at h ⊢
    split at h
    · rename_i hb
      simp only [hb, if_true]
      match ws, h with
      | _ :: _ :: _ :: _ :: _ :: _ :: _ :: _, h =>
        simp only [Option.some.injEq, Prod.mk.injEq] at h
        obtain ⟨rfl, rfl⟩ := h; rfl
    · rename_i hb
      simp only [hb]
      match ws, h with
      | _ :: _ :: _ :: _, h =>
        simp only [Option.some.injEq, Prod.mk.injEq] at h
        obtain ⟨rfl, rfl⟩ := h; rfl

theorem parsePanel_append {ws rest : List Word} {p : SuppliedPanel} (more : List Word)
    (h : parsePanel ws = some (p, rest)) : parsePanel (ws ++ more) = some (p, rest ++ more) := by
  match ws, h with
  | n :: g :: st :: ws, h =>
    simp only [parsePanel, List.cons_append] at h ⊢
    split at h
    · rename_i hs
      simp only [hs, if_true, Option.some.injEq, Prod.mk.injEq] at h ⊢
      obtain ⟨rfl, rfl⟩ := h; exact ⟨rfl, rfl⟩
    · rename_i hs
      simp only [hs, if_false]
      split at h
      · rename_i stats rest' hp
        rw [parseStats_append more hp]
        simp only [Option.some.injEq, Prod.mk.injEq] at h ⊢
        obtain ⟨rfl, rfl⟩ := h; exact ⟨rfl, rfl⟩
      · cases h

theorem parsePanels_append {n : Nat} {ws rest : List Word} {ps : List SuppliedPanel}
    (more : List Word) (h : parsePanels n ws = some (ps, rest)) :
    parsePanels n (ws ++ more) = some (ps, rest ++ more) := by
  induction n generalizing ws rest ps with
  | zero =>
    simp only [parsePanels, Option.some.injEq, Prod.mk.injEq] at h ⊢
    obtain ⟨rfl, rfl⟩ := h; exact ⟨rfl, rfl⟩
  | succ n ih =>
    simp only [parsePanels] at h ⊢
    split at h
    · rename_i p ws' hp
      rw [parsePanel_append more hp]
      split at h
      · rename_i qs ws'' hq
        simp only [ih hq, Option.some.injEq, Prod.mk.injEq] at h ⊢
        obtain ⟨rfl, rfl⟩ := h; exact ⟨rfl, rfl⟩
      · cases h
    · cases h

theorem parseFace_append {ws rest : List Word} {g : SuppliedFace} (more : List Word)
    (h : parseFace ws = some (g, rest)) : parseFace (ws ++ more) = some (g, rest ++ more) := by
  match ws, h with
  | d :: f :: hi :: lo :: p :: ws, h =>
    simp only [parseFace, List.cons_append] at h ⊢
    split at h
    · rename_i hp
      simp only [hp, if_true, Option.some.injEq, Prod.mk.injEq] at h ⊢
      obtain ⟨rfl, rfl⟩ := h; exact ⟨rfl, rfl⟩
    · rename_i hp
      simp only [hp, if_false]
      split at h
      · rename_i ps rest' hq
        rw [parsePanels_append more hq]
        simp only [Option.some.injEq, Prod.mk.injEq] at h ⊢
        obtain ⟨rfl, rfl⟩ := h; exact ⟨rfl, rfl⟩
      · cases h

theorem parseFaces_append {fs : List Face} {ws rest : List Word}
    {gs : List (Face × SuppliedFace)} (more : List Word) (h : parseFaces fs ws = some (gs, rest)) :
    parseFaces fs (ws ++ more) = some (gs, rest ++ more) := by
  induction fs generalizing ws rest gs with
  | nil =>
    simp only [parseFaces, Option.some.injEq, Prod.mk.injEq] at h ⊢
    obtain ⟨rfl, rfl⟩ := h; exact ⟨rfl, rfl⟩
  | cons f fs ih =>
    simp only [parseFaces] at h ⊢
    split at h
    · rename_i g ws' hg
      rw [parseFace_append more hg]
      dsimp only
      split at h
      · rename_i hp
        simp only [hp, if_true, Option.some.injEq, Prod.mk.injEq] at h ⊢
        obtain ⟨rfl, rfl⟩ := h; exact ⟨rfl, rfl⟩
      · rename_i hp
        simp only [hp, if_false]
        split at h
        · rename_i gs' ws'' hq
          simp only [ih hq, Option.some.injEq, Prod.mk.injEq] at h ⊢
          obtain ⟨rfl, rfl⟩ := h; exact ⟨rfl, rfl⟩
        · cases h
    · cases h

/-- Words that follow a complete LEAF REWRITE are left over. -/
theorem parseRewrite_append {ws rest : List Word} {r : SuppliedLeaf} (more : List Word)
    (h : parseRewrite ws = some (r, rest)) :
    parseRewrite (ws ++ more) = some (r, rest ++ more) := by
  match ws, h with
  | hd :: l :: k :: ws, h =>
    simp only [parseRewrite, List.cons_append] at h ⊢
    split at h
    · rename_i fs rest' hp
      rw [parseFaces_append more hp]
      simp only [Option.some.injEq, Prod.mk.injEq] at h ⊢
      obtain ⟨rfl, rfl⟩ := h; exact ⟨rfl, rfl⟩
    · cases h

/-- No proper prefix of LEAF REWRITE's words is complete. -/
theorem parseRewrite_prefix {ws : List Word} (h : rewriteFits ws = true) {n : Nat}
    (hn : n < ws.length) : parseRewrite (ws.take n) = none := by
  cases hp : parseRewrite (ws.take n) with
  | none => rfl
  | some r =>
    obtain ⟨r, rest⟩ := r
    have := parseRewrite_append (ws.drop n) hp
    rw [List.take_append_drop] at this
    simp only [rewriteFits, this, List.length_append, List.length_drop, decide_eq_true_eq] at h
    omega

/-! ### The family -/

/-- Words that complete a command, none of their proper prefixes doing so. -/
def Completes (c : Cmd) (ws : List Word) : Prop :=
  c.complete ws = true ∧ ∀ n, n < ws.length → c.complete (ws.take n) = false

/-- What a well-formed command spells: a command of its link, with exactly the words that complete it,
or with the head word alone when that is refused (R105, R140). -/
def Fits.Statement (i : Instr) : Prop :=
  i.wellFormed = true →
    match i.spelled with
    | none => True
    | some (link, c, ws) =>
      c.ownedBy link = true ∧
        (Completes c ws ∨ (ws.length = 1 ∧ c.headRefused ws = true ∧ c.complete [] = false))

/-- A command of a fixed number of words is complete at the last of them. -/
theorem completes_of_arity {c : Cmd} {ws : List Word}
    (h : ∀ vs, c.complete vs = decide (c.arity ≤ vs.length)) (hl : ws.length = c.arity) :
    Completes c ws := by
  refine ⟨by simp [h, hl], fun n hn => ?_⟩
  rw [h]
  simp only [List.length_take, decide_eq_false_iff_not]
  omega

theorem take_getD_ge {ws : List Word} {n i : Nat} (hi : i < n) : arg (ws.take n) i = arg ws i := by
  simp [arg, List.getD_eq_getElem?_getD, hi]

/-- OPEN VOLUME's words are complete with the last character its length word calls for (R6). -/
theorem openVolume_completes {p n l : Word} {vc : BitVec 48} {sc : BitVec 32} {cs : List Word}
    (h : charsFit l cs = true) :
    Completes .openVolume ([p, n] ++ split48 vc ++ split32 sc ++ [l] ++ cs) := by
  have harg : ∀ k, 8 ≤ k →
      arg (([p, n] ++ split48 vc ++ split32 sc ++ [l] ++ cs).take k) 7 = l.toNat := by
    intro k hk
    rw [take_getD_ge (by omega)]
    rfl
  have hlen : ([p, n] ++ split48 vc ++ split32 sc ++ [l] ++ cs).length = 8 + cs.length := by
    simp [split48, split32]; omega
  have hfull := harg _ (hlen ▸ Nat.le_add_right 8 cs.length)
  rw [List.take_length] at hfull
  unfold charsFit at h
  constructor
  · simp only [Cmd.complete, hlen, hfull]
    split at h
    · simp_all
    · simp_all only [if_false]; simp
  · intro k hk
    simp only [Cmd.complete, List.length_take]
    by_cases h8 : 8 ≤ k
    · rw [harg k h8]
      split at h
      · rename_i hr
        simp only [hr, and_self, if_true, Bool.and_eq_false_iff, decide_eq_false_iff_not]
        simp only [decide_eq_true_eq] at h
        omega
      · simp only [decide_eq_true_eq] at h; omega
    · simp only [Bool.and_eq_false_iff, decide_eq_false_iff_not]
      omega

/-- GAIN LOAD's words are complete with the last entry its count calls for (R134). -/
theorem gainLoad_completes {h c x n : Word} {es : List Word} (hf : entriesFit n es = true) :
    Completes .gainLoad ([h, c, x, n] ++ es) := by
  have harg : ∀ k, 4 ≤ k → arg (([h, c, x, n] ++ es).take k) 3 = n.toNat := by
    intro k hk
    rw [take_getD_ge (by omega)]
    rfl
  have hlen : ([h, c, x, n] ++ es).length = 4 + es.length := by simp; omega
  have hfull := harg _ (hlen ▸ Nat.le_add_right 4 es.length)
  rw [List.take_length] at hfull
  unfold entriesFit at hf
  constructor
  · simp only [Cmd.complete, hlen, hfull]
    split at hf
    · simp_all
    · simp_all only [if_false]; simp
  · intro k hk
    simp only [Cmd.complete, List.length_take]
    by_cases h8 : 4 ≤ k
    · rw [harg k h8]
      split at hf
      · rename_i hr
        simp only [hr, and_self, if_true, Bool.and_eq_false_iff, decide_eq_false_iff_not]
        simp only [decide_eq_true_eq] at hf
        omega
      · simp only [decide_eq_true_eq] at hf; omega
    · simp only [Bool.and_eq_false_iff, decide_eq_false_iff_not]
      omega

/-- LEAF REWRITE's words are complete with the last that its own length words call for (R181). -/
theorem leafRewrite_completes {ws : List Word} (h : rewriteFits ws = true) :
    Completes .leafRewrite ws := by
  refine ⟨?_, fun n hn => ?_⟩
  · simp only [Cmd.complete]
    unfold rewriteFits at h
    split at h
    · rename_i hp; simp [hp]
    · cases h
  · simp [Cmd.complete, parseRewrite_prefix h hn]

/-- The words of SET CORRECTION and SET MEASUREMENT (R105, R140). -/
theorem headWords_complete {c : Cmd} {ws : List Word} (hf : headWordsFit c.arity ws = true)
    (hc : ∀ vs, c.complete vs = decide (c.arity ≤ vs.length))
    (hr : c.headRefused ws = (headOf (arg ws 0)).isNone) (h0 : 0 < c.arity) :
    Completes c ws ∨ (ws.length = 1 ∧ c.headRefused ws = true ∧ c.complete [] = false) := by
  unfold headWordsFit at hf
  split at hf
  · exact Or.inl (completes_of_arity hc (of_decide_eq_true hf))
  · rename_i hn
    refine Or.inr ⟨of_decide_eq_true hf, ?_, ?_⟩
    · rw [hr]; simpa using hn
    · rw [hc]; simp only [List.length_nil, decide_eq_false_iff_not]; omega

theorem Fits.commandWord (link : MasterLink) (data : Word) (parity : Bool) :
    Fits.Statement (.commandWord link data parity) :=
  fun _ => trivial

theorem Fits.parameterWord (link : MasterLink) (data : Word) (parity : Bool) :
    Fits.Statement (.parameterWord link data parity) :=
  fun _ => trivial

theorem Fits.fillerWord (link : MasterLink) (data : Word) (parity : Bool) :
    Fits.Statement (.fillerWord link data parity) :=
  fun _ => trivial

theorem Fits.partialWordDiscard (link : MasterLink) (bits : Nat) :
    Fits.Statement (.partialWordDiscard link bits) :=
  fun _ => trivial

theorem Fits.readStatus (link : MasterLink) :
    Fits.Statement (.readStatus link) :=
  fun _ => ⟨rfl, .inl (completes_of_arity (fun _ => rfl) rfl)⟩

theorem Fits.takeNotices (link : MasterLink) :
    Fits.Statement (.takeNotices link) :=
  fun _ => ⟨rfl, .inl (completes_of_arity (fun _ => rfl) rfl)⟩

theorem Fits.clearLinkFlags (link : MasterLink) :
    Fits.Statement (.clearLinkFlags link) :=
  fun _ => ⟨rfl, .inl (completes_of_arity (fun _ => rfl) rfl)⟩

theorem Fits.readLeaf (link : MasterLink) (handle leaf : Word) :
    Fits.Statement (.readLeaf link handle leaf) :=
  fun _ => ⟨rfl, .inl (completes_of_arity (fun _ => rfl) rfl)⟩

theorem Fits.rescanHead (link : MasterLink) :
    Fits.Statement (.rescanHead link) :=
  fun _ => ⟨rfl, .inl (completes_of_arity (fun _ => rfl) rfl)⟩

theorem Fits.turnRequest (direction : Word) :
    Fits.Statement (.turnRequest direction) :=
  fun _ => ⟨rfl, .inl (completes_of_arity (fun _ => rfl) rfl)⟩

theorem Fits.picked (count : Word) :
    Fits.Statement (.picked count) :=
  fun _ => ⟨rfl, .inl (completes_of_arity (fun _ => rfl) rfl)⟩

theorem Fits.swept :
    Fits.Statement .swept :=
  fun _ => ⟨rfl, .inl (completes_of_arity (fun _ => rfl) rfl)⟩

theorem Fits.clear :
    Fits.Statement .clear :=
  fun _ => ⟨rfl, .inl (completes_of_arity (fun _ => rfl) rfl)⟩

theorem Fits.aborted :
    Fits.Statement .aborted :=
  fun _ => ⟨rfl, .inl (completes_of_arity (fun _ => rfl) rfl)⟩

theorem Fits.turnerFault :
    Fits.Statement .turnerFault :=
  fun _ => ⟨rfl, .inl (completes_of_arity (fun _ => rfl) rfl)⟩

theorem Fits.openVolume (partSequence leaves : Word) (volumeCeiling : BitVec 48) (sideCeiling : BitVec 32) (length : Word) (chars : List Word) :
    Fits.Statement (.openVolume partSequence leaves volumeCeiling sideCeiling length chars) :=
  fun h => ⟨rfl, .inl (openVolume_completes h)⟩

theorem Fits.closeVolume :
    Fits.Statement .closeVolume :=
  fun _ => ⟨rfl, .inl (completes_of_arity (fun _ => rfl) rfl)⟩

theorem Fits.discardVolume (handle : Word) :
    Fits.Statement (.discardVolume handle) :=
  fun _ => ⟨rfl, .inl (completes_of_arity (fun _ => rfl) rfl)⟩

theorem Fits.forgetVolume (handle : Word) :
    Fits.Statement (.forgetVolume handle) :=
  fun _ => ⟨rfl, .inl (completes_of_arity (fun _ => rfl) rfl)⟩

theorem Fits.readVolume (handle : Word) :
    Fits.Statement (.readVolume handle) :=
  fun _ => ⟨rfl, .inl (completes_of_arity (fun _ => rfl) rfl)⟩

theorem Fits.readSummary (handle : Word) :
    Fits.Statement (.readSummary handle) :=
  fun _ => ⟨rfl, .inl (completes_of_arity (fun _ => rfl) rfl)⟩

theorem Fits.setCeilings (volumeCeiling : BitVec 48) (sideCeiling : BitVec 32) :
    Fits.Statement (.setCeilings volumeCeiling sideCeiling) :=
  fun _ => ⟨rfl, .inl (completes_of_arity (fun _ => rfl) rfl)⟩

theorem Fits.setSideMarks (leaf face declared skip : Word) :
    Fits.Statement (.setSideMarks leaf face declared skip) :=
  fun _ => ⟨rfl, .inl (completes_of_arity (fun _ => rfl) rfl)⟩

theorem Fits.markRescan (leaf face : Word) :
    Fits.Statement (.markRescan leaf face) :=
  fun _ => ⟨rfl, .inl (completes_of_arity (fun _ => rfl) rfl)⟩

theorem Fits.setOpening (opening : Word) :
    Fits.Statement (.setOpening opening) :=
  fun _ => ⟨rfl, .inl (completes_of_arity (fun _ => rfl) rfl)⟩

theorem Fits.leafRewrite (words : List Word) :
    Fits.Statement (.leafRewrite words) :=
  fun h => ⟨rfl, .inl (leafRewrite_completes h)⟩

theorem Fits.accept (slot : Word) :
    Fits.Statement (.accept slot) :=
  fun _ => ⟨rfl, .inl (completes_of_arity (fun _ => rfl) rfl)⟩

theorem Fits.reject (slot : Word) :
    Fits.Statement (.reject slot) :=
  fun _ => ⟨rfl, .inl (completes_of_arity (fun _ => rfl) rfl)⟩

theorem Fits.readSlot (slot : Word) :
    Fits.Statement (.readSlot slot) :=
  fun _ => ⟨rfl, .inl (completes_of_arity (fun _ => rfl) rfl)⟩

theorem Fits.clearCounters :
    Fits.Statement .clearCounters :=
  fun _ => ⟨rfl, .inl (completes_of_arity (fun _ => rfl) rfl)⟩

theorem Fits.lower :
    Fits.Statement .lower :=
  fun _ => ⟨rfl, .inl (completes_of_arity (fun _ => rfl) rfl)⟩

theorem Fits.raise :
    Fits.Statement .raise :=
  fun _ => ⟨rfl, .inl (completes_of_arity (fun _ => rfl) rfl)⟩

theorem Fits.resume :
    Fits.Statement .resume :=
  fun _ => ⟨rfl, .inl (completes_of_arity (fun _ => rfl) rfl)⟩

theorem Fits.setTimers (travel settle grant frameLeft frameRight : Word) :
    Fits.Statement (.setTimers travel settle grant frameLeft frameRight) :=
  fun _ => ⟨rfl, .inl (completes_of_arity (fun _ => rfl) rfl)⟩

theorem Fits.setLighting (fields : List Word) :
    Fits.Statement (.setLighting fields) :=
  fun h => ⟨rfl, .inl (completes_of_arity (fun _ => rfl) (of_decide_eq_true h))⟩

theorem Fits.readLighting :
    Fits.Statement .readLighting :=
  fun _ => ⟨rfl, .inl (completes_of_arity (fun _ => rfl) rfl)⟩

theorem Fits.expose (sides leftPanel rightPanel : Word) :
    Fits.Statement (.expose sides leftPanel rightPanel) :=
  fun _ => ⟨rfl, .inl (completes_of_arity (fun _ => rfl) rfl)⟩

theorem Fits.setCorrection (words : List Word) :
    Fits.Statement (.setCorrection words) :=
  fun h => ⟨rfl, headWords_complete h (fun _ => rfl) rfl (by decide)⟩

theorem Fits.readCapture (head : Word) :
    Fits.Statement (.readCapture head) :=
  fun _ => ⟨rfl, .inl (completes_of_arity (fun _ => rfl) rfl)⟩

theorem Fits.darkSeed (head : Word) :
    Fits.Statement (.darkSeed head) :=
  fun _ => ⟨rfl, .inl (completes_of_arity (fun _ => rfl) rfl)⟩

theorem Fits.darkCapture (heads : Word) :
    Fits.Statement (.darkCapture heads) :=
  fun _ => ⟨rfl, .inl (completes_of_arity (fun _ => rfl) rfl)⟩

theorem Fits.flatCapture (heads target : Word) :
    Fits.Statement (.flatCapture heads target) :=
  fun _ => ⟨rfl, .inl (completes_of_arity (fun _ => rfl) rfl)⟩

theorem Fits.gainLoad (head channel first count : Word) (entries : List Word) :
    Fits.Statement (.gainLoad head channel first count entries) :=
  fun h => ⟨rfl, .inl (gainLoad_completes h)⟩

theorem Fits.readGain (head channel first count : Word) :
    Fits.Statement (.readGain head channel first count) :=
  fun _ => ⟨rfl, .inl (completes_of_arity (fun _ => rfl) rfl)⟩

theorem Fits.readCalibration (head : Word) :
    Fits.Statement (.readCalibration head) :=
  fun _ => ⟨rfl, .inl (completes_of_arity (fun _ => rfl) rfl)⟩

theorem Fits.setMeasurement (words : List Word) :
    Fits.Statement (.setMeasurement words) :=
  fun h => ⟨rfl, headWords_complete h (fun _ => rfl) rfl (by decide)⟩

theorem Fits.setKeep (mode motionTest degradedTest : Word) :
    Fits.Statement (.setKeep mode motionTest degradedTest) :=
  fun _ => ⟨rfl, .inl (completes_of_arity (fun _ => rfl) rfl)⟩

theorem Fits.readMeasurement (head : Word) :
    Fits.Statement (.readMeasurement head) :=
  fun _ => ⟨rfl, .inl (completes_of_arity (fun _ => rfl) rfl)⟩

theorem Fits.run (count : Word) :
    Fits.Statement (.run count) :=
  fun _ => ⟨rfl, .inl (completes_of_arity (fun _ => rfl) rfl)⟩

theorem Fits.seek (opening : Word) :
    Fits.Statement (.seek opening) :=
  fun _ => ⟨rfl, .inl (completes_of_arity (fun _ => rfl) rfl)⟩

theorem Fits.stopRun :
    Fits.Statement .stopRun :=
  fun _ => ⟨rfl, .inl (completes_of_arity (fun _ => rfl) rfl)⟩

theorem Fits.readRun :
    Fits.Statement .readRun :=
  fun _ => ⟨rfl, .inl (completes_of_arity (fun _ => rfl) rfl)⟩

theorem Fits.setDelivery (format auto : Word) :
    Fits.Statement (.setDelivery format auto) :=
  fun _ => ⟨rfl, .inl (completes_of_arity (fun _ => rfl) rfl)⟩

theorem Fits.deliver (slot : Word) :
    Fits.Statement (.deliver slot) :=
  fun _ => ⟨rfl, .inl (completes_of_arity (fun _ => rfl) rfl)⟩

theorem Fits.cancelDelivery :
    Fits.Statement .cancelDelivery :=
  fun _ => ⟨rfl, .inl (completes_of_arity (fun _ => rfl) rfl)⟩

theorem Fits.readDelivery :
    Fits.Statement .readDelivery :=
  fun _ => ⟨rfl, .inl (completes_of_arity (fun _ => rfl) rfl)⟩

theorem Fits.readFaults :
    Fits.Statement .readFaults :=
  fun _ => ⟨rfl, .inl (completes_of_arity (fun _ => rfl) rfl)⟩

theorem Fits.clearFaults :
    Fits.Statement .clearFaults :=
  fun _ => ⟨rfl, .inl (completes_of_arity (fun _ => rfl) rfl)⟩

theorem Fits.partialReset :
    Fits.Statement .partialReset :=
  fun _ => ⟨rfl, .inl (completes_of_arity (fun _ => rfl) rfl)⟩

theorem Fits.pinReset :
    Fits.Statement .pinReset :=
  fun _ => trivial

theorem Fits.initPassEnd :
    Fits.Statement .initPassEnd :=
  fun _ => trivial

theorem Fits.stopLineAsserted :
    Fits.Statement .stopLineAsserted :=
  fun _ => trivial

theorem Fits.stopLineReleased :
    Fits.Statement .stopLineReleased :=
  fun _ => trivial

theorem Fits.pedalAsserted :
    Fits.Statement .pedalAsserted :=
  fun _ => trivial

theorem Fits.pedalReleased :
    Fits.Statement .pedalReleased :=
  fun _ => trivial

theorem Fits.downSwitchAsserted :
    Fits.Statement .downSwitchAsserted :=
  fun _ => trivial

theorem Fits.upSwitchAsserted :
    Fits.Statement .upSwitchAsserted :=
  fun _ => trivial

theorem Fits.switchCleared (switch : PlatenSwitch) :
    Fits.Statement (.switchCleared switch) :=
  fun _ => trivial

theorem Fits.pressureLost :
    Fits.Statement .pressureLost :=
  fun _ => trivial

theorem Fits.pressureReturned :
    Fits.Statement .pressureReturned :=
  fun _ => trivial

theorem Fits.travelTimerExpiry :
    Fits.Statement .travelTimerExpiry :=
  fun _ => trivial

theorem Fits.settleTimerExpiry :
    Fits.Statement .settleTimerExpiry :=
  fun _ => trivial

theorem Fits.grantTimerExpiry :
    Fits.Statement .grantTimerExpiry :=
  fun _ => trivial

theorem Fits.frameTimerExpiry (head : Head) :
    Fits.Statement (.frameTimerExpiry head) :=
  fun _ => trivial

theorem Fits.strobePulseEnd (bank : Bank) :
    Fits.Statement (.strobePulseEnd bank) :=
  fun _ => trivial

theorem Fits.lineStart (head : Head) :
    Fits.Statement (.lineStart head) :=
  fun _ => trivial

theorem Fits.sample (head : Head) (value : BitVec 12) :
    Fits.Statement (.sample head value) :=
  fun _ => trivial

theorem Fits.lineEnd (head : Head) :
    Fits.Statement (.lineEnd head) :=
  fun _ => trivial

theorem Fits.frameEnd (head : Head) :
    Fits.Statement (.frameEnd head) :=
  fun _ => trivial

theorem Fits.imagePortWordTaken :
    Fits.Statement .imagePortWordTaken :=
  fun _ => trivial

end Sys2Proof.Laws
end

