-- ==== Sys2Proof/Laws/Links.lean ====
section
/-! SUPPORT. A whole command in closed form: its words clocked one after another come to the one act of its
block, or to its fields applied in order (R188, R190). -/
namespace Sys2Proof.Laws
open Sys2Proof.Machine

theorem parityHolds_parityBit (k : Bool) (w : Word) : parityHolds k w (parityBit k w) = true := by
  simp [parityHolds]

/-- Every command's code names it (R189). -/
theorem ofCode_word (c : Cmd) : Cmd.ofCode c.word = some c := by cases c <;> rfl

/-- A command of one link has its parameter words applied as fields only if it is a setting. -/
theorem applyField_action {c : Cmd} (h : c.isSetting = false) (ws : List Word) (s : State) :
    c.applyField ws s = s := by
  cases c <;> first | rfl | cases h

theorem headRefused_action {c : Cmd} (h : c.isSetting = false) (ws : List Word) :
    c.headRefused ws = false := by
  cases c <;> first | rfl | cases h

/-- A link while a command is collected: k words of it have come in. -/
def collectingLink (l : Link) (c : Cmd) (ws : List Word) : Link :=
  { l.taking ws.length with rx := .collecting c ws }

theorem modLink_modLink (s : State) (link : MasterLink) (f g : Link → Link) :
    (s.modLink link f).modLink link g = s.modLink link (g ∘ f) := by
  cases link <;> rfl

theorem link_modLink (s : State) (link : MasterLink) (f : Link → Link) :
    (s.modLink link f).link link = f (s.link link) := by
  cases link <;> rfl

theorem modLink_congr {s : State} {link : MasterLink} {f g : Link → Link}
    (h : f (s.link link) = g (s.link link)) : s.modLink link f = s.modLink link g := by
  simp [State.modLink, h]

/-- Fields of the state that the settings commands write do not depend on the links. -/
theorem applyField_modLink (c : Cmd) (ws : List Word) (s : State) (link : MasterLink)
    (f : Link → Link) :
    c.applyField ws (s.modLink link f) = (c.applyField ws s).modLink link f := by
  cases c <;> cases link <;>
    first
    | rfl
    | (simp only [Cmd.applyField]; cases headOf (arg ws 0) <;> rfl)
    | (simp only [Cmd.applyField, setDeliveryField]
       rcases h : ws.length - 1 with _ | _ | n <;> rfl)

theorem link_applyField (c : Cmd) (ws : List Word) (s : State) (link : MasterLink) :
    (c.applyField ws s).link link = s.link link := by
  cases c <;> cases link <;>
    first
    | rfl
    | (simp only [Cmd.applyField]; cases headOf (arg ws 0) <;> rfl)
    | (simp only [Cmd.applyField, setDeliveryField]
       rcases h : ws.length - 1 with _ | _ | n <;> rfl)

/-- The fields of a settings command applied one after another, at the arrival of each word (R190). -/
def applyFields (c : Cmd) : List Word → List Word → State → State
  | _, [], s => s
  | pre, w :: ws, s => applyFields c (pre ++ [w]) ws (c.applyField (pre ++ [w]) s)

theorem applyFields_action {c : Cmd} (h : c.isSetting = false) (pre ws : List Word) (s : State) :
    applyFields c pre ws s = s := by
  induction ws generalizing pre with
  | nil => rfl
  | cons w ws ih => rw [applyFields, applyField_action h, ih]

/-- A block has been handed its command, and its answer is queued. -/
def handed (s : State) (link : MasterLink) (c : Cmd) (ws : List Word) : State :=
  (c.act link ws (s.taking link ws.length)).2.modLink link
    (·.answer (c.act link ws (s.taking link ws.length)).1)

theorem takeCommand_modLink {s : State} {link : MasterLink} {c : Cmd} {ws : List Word}
    {f : Link → Link} (h : { f (s.link link) with rx := .idle } = (s.link link).taking ws.length) :
    (s.modLink link f).takeCommand link c ws = handed s link c ws := by
  have : (s.modLink link f).modLink link (fun l => { l with rx := .idle }) =
      s.taking link ws.length := by
    rw [modLink_modLink]
    exact modLink_congr h
  unfold State.takeCommand handed
  rw [this]

/-- The last parameter word of a command: the command is taken. -/
theorem otherWord_last {s : State} {link : MasterLink} {c : Cmd} {pre : List Word} {w : Word}
    (hr : c.headRefused (pre ++ [w]) = false) (hc : c.complete (pre ++ [w]) = true) :
    (s.modLink link (collectingLink · c pre)).otherWord link w (parityBit false w) =
      handed (c.applyField (pre ++ [w]) s) link c (pre ++ [w]) := by
  unfold State.otherWord
  simp only [link_modLink, parityHolds_parityBit, if_true, modLink_modLink]
  unfold collectingLink State.collect
  simp only [hr, hc, if_true, Bool.false_eq_true, if_false, applyField_modLink]
  apply takeCommand_modLink
  rw [link_applyField]
  simp [Link.clockOut, Link.taking, Link.lastOut, Link.outgoing, Link.attention]

/-- A parameter word that is not the last. -/
theorem otherWord_more {s : State} {link : MasterLink} {c : Cmd} {pre : List Word} {w : Word}
    (hr : c.headRefused (pre ++ [w]) = false) (hc : c.complete (pre ++ [w]) = false) :
    (s.modLink link (collectingLink · c pre)).otherWord link w (parityBit false w) =
      (c.applyField (pre ++ [w]) s).modLink link (collectingLink · c (pre ++ [w])) := by
  unfold State.otherWord
  simp only [link_modLink, parityHolds_parityBit, if_true, modLink_modLink]
  unfold collectingLink State.collect
  simp only [hr, hc, Bool.false_eq_true, if_false, applyField_modLink, modLink_modLink]
  apply modLink_congr
  rw [link_applyField]
  simp [Link.clockOut, Link.taking, Link.lastOut, Link.outgoing, Link.attention]

/-- The parameter words still to come, clocked. -/
theorem clockWords_collecting {s : State} {link : MasterLink} {c : Cmd} {pre ws : List Word}
    (hr : ∀ n, c.headRefused ((pre ++ ws).take (n + 1)) = false)
    (hc : c.complete (pre ++ ws) = true)
    (hp : ∀ n, n < (pre ++ ws).length → c.complete ((pre ++ ws).take n) = false) (hne : ws ≠ []) :
    (s.modLink link (collectingLink · c pre)).clockWords link ws =
      handed (applyFields c pre ws s) link c (pre ++ ws) := by
  induction ws generalizing pre s with
  | nil => exact absurd rfl hne
  | cons w ws ih =>
    have hcat : pre ++ w :: ws = (pre ++ [w]) ++ ws := by simp
    have htake : (pre ++ w :: ws).take (pre.length + 1) = pre ++ [w] := by
      rw [hcat, List.take_left' (by simp)]
    have hr' : c.headRefused (pre ++ [w]) = false := htake ▸ hr pre.length
    show State.clockWords (State.otherWord _ _ _ _) _ ws = _
    cases ws with
    | nil =>
      rw [otherWord_last hr' (by simpa using hc)]
      rfl
    | cons v vs =>
      have hlt : pre.length + 1 < (pre ++ w :: v :: vs).length := by simp
      rw [otherWord_more hr' (htake ▸ hp _ hlt), applyFields, hcat]
      exact ih (by rwa [← hcat]) (by rwa [← hcat]) (by rwa [← hcat]) (by simp)

/-- A command word whose command the link owns, outside the initialisation pass. -/
theorem commandWord_owned {s : State} {link : MasterLink} {c : Cmd} (ho : c.ownedBy link = true)
    (hi : s.initRunning = false ∨ c = .readStatus) :
    s.commandWord link c.word (parityBit true c.word) =
      if c.complete [] then handed s link c []
      else s.modLink link (collectingLink · c []) := by
  unfold State.commandWord State.takeCommandWord State.beginWord
  have hinit : (s.initRunning && !(c == .readStatus)) = false := by
    rcases hi with h | rfl
    · simp [h]
    · simp
  simp only [parityHolds_parityBit, if_true, ofCode_word, ho]
  rw [show (s.modLink link fun l => l.clockOut.breakOff).initRunning = s.initRunning from rfl,
    hinit]
  simp only [Bool.false_eq_true, if_false, modLink_modLink]
  split
  · apply takeCommand_modLink
    simp only [Link.clockOut, Link.breakOff, Link.taking, Link.lastOut, Link.brokenFlags,
      List.length_nil, if_true]
    all_goals (cases (s.link link).rx <;> rfl)
  · apply modLink_congr
    simp only [Link.clockOut, Link.breakOff, collectingLink, Link.taking, Link.lastOut,
      Link.brokenFlags, List.length_nil, if_true, Function.comp]
    all_goals (cases (s.link link).rx <;> rfl)

/-- A whole command of the link that owns it, outside the initialisation pass: its fields are applied in
order, and its block answers. -/
theorem transact_owned {s : State} {link : MasterLink} {c : Cmd} {ws : List Word}
    (ho : c.ownedBy link = true) (hi : s.initRunning = false ∨ c = .readStatus)
    (hr : ∀ n, c.headRefused (ws.take (n + 1)) = false) (hf : Completes c ws) :
    s.transact link c ws = handed (applyFields c [] ws s) link c ws := by
  unfold State.transact
  rw [commandWord_owned ho hi]
  cases ws with
  | nil =>
    simp only [hf.1, if_true]
    rfl
  | cons w ws =>
    have h0 : c.complete [] = false := hf.2 0 (by simp)
    simp only [h0, Bool.false_eq_true, if_false]
    exact clockWords_collecting (by simpa using hr) (by simpa using hf.1) (by simpa using hf.2)
      (by simp)

/-- An action command: no field is applied before its block takes it. -/
theorem transact_action {s : State} {link : MasterLink} {c : Cmd} {ws : List Word}
    (ho : c.ownedBy link = true) (hi : s.initRunning = false ∨ c = .readStatus)
    (hs : c.isSetting = false) (hf : Completes c ws) :
    s.transact link c ws = handed s link c ws := by
  rw [transact_owned ho hi (fun _ => headRefused_action hs _) hf, applyFields_action hs]

/-- A command that reads no volume record and no rescan list begins with no read of them. -/
theorem readTable_none {c : Cmd} {ws : List Word} {s : State} (hv : c.volumesRead ws s = [])
    (hr : c.readsRescan = false) : c.readTable ws s = s := by
  simp only [Cmd.readTable, hv, hr, List.foldl_nil, Bool.false_eq_true, if_false]

/-- Where no word of the volume records or of the rescan list waits to be corrected, the reads a command
begins with are reads alone. -/
theorem readTable_of_clean {s : State} (h : s.TableClean) (c : Cmd) (ws : List Word) :
    c.readTable ws s = s := by
  have fold : ∀ l : List Handle, l.foldl State.readVolume s = s := by
    intro l
    induction l with
    | nil => rfl
    | cons a l ih => rw [List.foldl_cons, readVolume_of_clean (vol_clean h a), ih]
  unfold Cmd.readTable
  simp only [fold, readRescan_of_clean h.rescan, ite_self]

/-- A settings command whose head word, if it has one, is good. -/
theorem transact_setting {s : State} {link : MasterLink} {c : Cmd} {ws : List Word}
    (ho : c.ownedBy link = true) (hi : s.initRunning = false) (hs : c.isSetting = true)
    (hr : ∀ n, c.headRefused (ws.take (n + 1)) = false) (hf : Completes c ws) :
    s.transact link c ws =
      (applyFields c [] ws s).modLink link fun l => (l.taking ws.length).answer (.accepted []) := by
  rw [transact_owned ho (.inl hi) hr hf]
  cases c <;>
    first
    | (cases hs; done)
    | (simp only [handed, Cmd.act, State.taking]
       rw [readTable_none (by rfl) (by rfl)]
       simp only [modLink_modLink, Cmd.perform]
       rfl)

/-! ### The rows that are whole commands -/

/-- A row that names a whole command clocks its words. -/
theorem exec_spelled {i : Instr} {link : MasterLink} {c : Cmd} {ws : List Word} (s : State)
    (h : i.spelled = some (link, c, ws)) : exec i s = done (s.transact link c ws) := by
  cases i <;>
    first
    | (cases h; done)
    | (simp only [Instr.spelled, Option.some.injEq, Prod.mk.injEq] at h
       obtain ⟨rfl, rfl, rfl⟩ := h
       rfl)

/-- An action command outside the initialisation pass is handed to its block. -/
theorem exec_action {i : Instr} {link : MasterLink} {c : Cmd} {ws : List Word} {s : State}
    (h : i.spelled = some (link, c, ws)) (ho : c.ownedBy link = true) (hs : c.isSetting = false)
    (hf : Completes c ws) (hi : s.initRunning = false) :
    exec i s = done (handed s link c ws) := by
  rw [exec_spelled s h, transact_action ho (.inl hi) hs hf]

/-- A block that only answers. -/
theorem handed_answered {s : State} {link : MasterLink} {c : Cmd} {ws : List Word} {r : Reply}
    (h : c.act link ws (s.taking link ws.length) = (r, s.taking link ws.length)) :
    done (handed s link c ws) = .next (s.answered link ws.length r) := by
  unfold handed done
  rw [h]
  cases link <;> rfl

/-- A block that answers and changes the state otherwise. -/
theorem handed_next {s t : State} {link : MasterLink} {c : Cmd} {ws : List Word} {r : Reply}
    (h : c.act link ws (s.taking link ws.length) = (r, t)) :
    done (handed s link c ws) =
      .next { t.modLink link (·.answer r) with skippedNow := [] } := by
  unfold handed done
  rw [h]

/-! ### Numbers of more than one word (R195) -/

theorem arg32_split32 (v : BitVec 32) : arg32 (split32 v) 0 = v.toNat := by
  have := v.isLt
  simp only [arg32, arg, split32, List.getD_cons_zero, List.getD_cons_succ,
    BitVec.extractLsb'_toNat, Nat.shiftRight_eq_div_pow]
  omega

theorem arg48_split48 (v : BitVec 48) : arg48 (split48 v) 0 = v.toNat := by
  have := v.isLt
  simp only [arg48, arg32, arg, split48, List.getD_cons_zero, List.getD_cons_succ,
    BitVec.extractLsb'_toNat, Nat.shiftRight_eq_div_pow]
  omega

end Sys2Proof.Laws
end

