-- ==== Sys2Proof/Laws/Keeps.lean ====
section
/-! SUPPORT. What every command of the blocks and every event keeps: the queue, the canonical form, the
ranges, and the interlock. One lemma for each command and event, over the laws of its parts. -/
namespace Sys2Proof.Laws
open Sys2Proof.Machine

/-- An operation that keeps everything, from a state whose interlock agrees. -/
structure Keeps (s t : State) : Prop extends Kept s t where
  interlock : s.Interlocked → t.Interlocked

theorem Guarded.keeps {s t : State} (a : Guarded s t) : Keeps s t := ⟨a.toKept, a.interlocked⟩

theorem Quiet.keeps {s t : State} (a : Quiet s t) : Keeps s t := a.guarded.keeps

theorem Keeps.refl (s : State) : Keeps s s := ⟨Kept.refl s, id⟩

theorem Keeps.trans {s t u : State} (a : Keeps s t) (b : Keeps t u) : Keeps s u :=
  ⟨a.toKept.trans b.toKept, fun h => b.interlock (a.interlock h)⟩

theorem Keeps.ite {c : Prop} [Decidable c] {s t u : State} (a : Keeps s t) (b : Keeps s u) :
    Keeps s (if c then t else u) := by
  split
  · exact a
  · exact b

theorem keeps_trip (s : State) : Keeps s s.trip := (guarded_trip s).keeps

theorem keeps_halt (s : State) (c : HaltCause) : Keeps s (s.halt c) := (guarded_halt s c).keeps

/-- A command that answers r, or r', whatever it does, keeps what its states keep. -/
theorem keeps_snd_ite {c : Prop} [Decidable c] {s : State} {x y : Reply × State}
    (a : Keeps s x.2) (b : Keeps s y.2) : Keeps s (if c then x else y).2 := by
  split
  · exact a
  · exact b

/-! ### The cradle's commands (R50, R53, R60) -/

theorem keeps_lower (s : State) : Keeps s (lower s).2 := by
  unfold lower
  refine keeps_snd_ite (Keeps.refl s) (keeps_snd_ite (keeps_trip s) ?_)
  split
  · exact Keeps.refl s
  · exact Keeps.refl s
  · exact Keeps.refl s
  · rename_i e
    exact ⟨kept_enterChecked _ _, fun h => (landed_enterChecked (enterOk_of_loose
      (interlocked_iff.1 h).1 (by simp [e]) (by simp [e]) (by simp) (by simp [e]))).interlocked h⟩
  · exact Keeps.refl s
  · exact Keeps.refl s
  · refine ⟨kept_modCradle s fun c => { c with raisePending := false }, fun h => ?_⟩
    exact ⟨h.travel, h.settle, h.grant, h.strobes, h.captures, fun x => (by cases x), h.pending,
      h.grantPending, h.granted⟩

theorem keeps_raising {s : State} (h1 : s.cradle.state ≠ .raising) (h2 : s.cradle.state ≠ .turnGranted)
    (hf : s.Interlocked → s.inFlight = false) : Keeps s (s.enterChecked .raising) := by
  refine ⟨kept_enterChecked _ _, fun h => ?_⟩
  have gp : s.cradle.grantPending = false := by
    cases e : s.cradle.grantPending
    · rfl
    · exact absurd (h.grantPending e) h1
  refine (landed_enterChecked ⟨fun _ => hf h, fun r => ?_, h.pending, fun _ => rfl,
    ⟨fun x => absurd (h.granted.1 x) h2, fun x => (by cases x)⟩⟩).interlocked h
  exact absurd ((hf h).symm.trans (h.raisePending r).2) (by simp)

theorem keeps_stateRaise (s : State) : Keeps s s.raise := by
  have off : s.cradle.state ≠ .ready → s.Interlocked → s.inFlight = false := fun hn h => by
    cases e : s.inFlight
    · rfl
    · exact absurd (h.captures e) hn
  unfold State.raise
  split
  · rename_i e
    split
    · rename_i f
      refine ⟨kept_modCradle s _, fun h => ?_⟩
      exact ⟨h.travel, h.settle, h.grant, h.strobes, h.captures, fun _ => ⟨e, f⟩, h.pending,
        h.grantPending, h.granted⟩
    · rename_i f
      exact keeps_raising (by simp [e]) (by simp [e]) fun _ => by simpa using f
  · rename_i e; exact keeps_raising (by simp [e]) (by simp [e]) (off (by simp [e]))
  · rename_i e; exact keeps_raising (by simp [e]) (by simp [e]) (off (by simp [e]))
  all_goals exact Keeps.refl s

theorem keeps_raise (s : State) : Keeps s (raise s).2 := by
  unfold Machine.raise
  exact keeps_snd_ite (Keeps.refl s) (keeps_snd_ite (keeps_trip s) (keeps_snd_ite (Keeps.refl s)
    (keeps_stateRaise s)))

theorem keeps_resume (s : State) : Keeps s (resume s).2 := by
  unfold Machine.resume
  refine keeps_snd_ite (keeps_trip s) ?_
  split
  · exact Keeps.refl s
  · rename_i hs
    have hs : s.cradle.state = .halted := Classical.not_not.1 hs
    refine keeps_snd_ite (Keeps.refl s) (keeps_snd_ite (Keeps.refl s) ?_)
    have ok : s.Interlocked → EnterOk s .raising := fun h =>
      enterOk_of_loose (interlocked_iff.1 h).1 (by simp [hs]) (by simp [hs]) (by simp) (by simp [hs])
    refine Keeps.ite ⟨kept_reachOpen s, fun h => ?_⟩ ⟨kept_enterChecked _ _, fun h =>
      (landed_enterChecked (ok h)).interlocked h⟩
    have k := ok h
    refine (landed_reachOpen (k.captures (by simp)) ?_ h.pending ?_).interlocked h
    · cases e : s.cradle.raisePending
      · rfl
      · exact absurd (k.raisePending e) (by simp)
    · exact fun x => absurd (k.granted.1 x) (by simp)

/-! ### Events at the cradle (R51 to R59) -/

theorem keeps_interlock {s : State} {f : State → State} (a : Keeps s (f s)) :
    Keeps s (s.interlock f) := Keeps.ite (keeps_trip s) a

/-- A change of an input's level, other than pressure's. -/
theorem interlocked_level {s : State} (h : s.Interlocked) {f : Cradle → Cradle}
    (hf : ∀ c, (f c).travelTimer = c.travelTimer ∧ (f c).settleTimer = c.settleTimer ∧
      (f c).grantTimer = c.grantTimer ∧ (f c).state = c.state ∧ (f c).pressure = c.pressure ∧
      (f c).raisePending = c.raisePending ∧ (f c).grantPending = c.grantPending) :
    (s.modCradle f).Interlocked := by
  obtain ⟨h1, h2, h3, h4, h5, h6, h7⟩ := hf s.cradle
  have e : (s.modCradle f).cradle = f s.cradle := rfl
  refine ⟨?_, ?_, ?_, ?_, ?_, ?_, ?_, ?_, ?_⟩ <;> rw [e]
  · rw [h1, h4]; exact h.travel
  · rw [h2, h4, h5]; exact h.settle
  · rw [h3, h4]; exact h.grant
  · rw [h4]; exact h.strobes
  · rw [h4]; exact h.captures
  · rw [h6, h4]; exact h.raisePending
  · rw [h7]; exact h.pending
  · rw [h7, h4]; exact h.grantPending
  · rw [h4]; exact h.granted

theorem keeps_level (s : State) {f : Cradle → Cradle}
    (hf : ∀ c, (f c).travelTimer = c.travelTimer ∧ (f c).settleTimer = c.settleTimer ∧
      (f c).grantTimer = c.grantTimer ∧ (f c).state = c.state ∧ (f c).pressure = c.pressure ∧
      (f c).raisePending = c.raisePending ∧ (f c).grantPending = c.grantPending) :
    Keeps s (s.modCradle f) := ⟨kept_modCradle s f, fun h => interlocked_level h hf⟩

theorem keeps_downSwitchAsserted (s : State) : Keeps s (downSwitchAsserted s) := by
  unfold downSwitchAsserted
  refine Keeps.ite (Keeps.refl s) ((keeps_level s (f := fun c => { c with downSwitch := true })
    fun _ => ⟨rfl, rfl, rfl, rfl, rfl, rfl, rfl⟩).trans
    (keeps_interlock ?_))
  generalize s.modCradle (fun c => { c with downSwitch := true }) = t
  split
  · rename_i e
    exact ⟨kept_enterSettling _, fun h => (landed_enterSettling (enterOk_of_loose
      (interlocked_iff.1 h).1 (by simp [e]) (by simp [e]) (by simp) (by simp [e]))).interlocked h⟩
  · exact (guarded_checkSwitches _).keeps

theorem keeps_upSwitchAsserted (s : State) : Keeps s (upSwitchAsserted s) := by
  unfold upSwitchAsserted
  refine Keeps.ite (Keeps.refl s) ((keeps_level s (f := fun c => { c with upSwitch := true })
    fun _ => ⟨rfl, rfl, rfl, rfl, rfl, rfl, rfl⟩).trans
    (keeps_interlock ?_))
  generalize s.modCradle (fun c => { c with upSwitch := true }) = t
  split
  · rename_i e
    refine ⟨kept_reachOpen _, fun h => ?_⟩
    refine (landed_reachOpen ?_ ?_ h.pending ?_).interlocked h
    · cases x : t.inFlight
      · rfl
      · exact absurd (h.captures x) (by simp [e])
    · cases x : t.cradle.raisePending
      · rfl
      · exact absurd (h.raisePending x).1 (by simp [e])
    · exact fun x => absurd (h.granted.1 x) (by simp [e])
  · exact (guarded_checkSwitches _).keeps

theorem keeps_switchCleared (w : PlatenSwitch) (s : State) : Keeps s (switchCleared w s) := by
  cases w
  · exact Keeps.ite ((keeps_level s (f := fun c => { c with upSwitch := false })
      fun _ => ⟨rfl, rfl, rfl, rfl, rfl, rfl, rfl⟩).trans
      (keeps_interlock (guarded_checkSwitches _).keeps)) (Keeps.refl s)
  · exact Keeps.ite ((keeps_level s (f := fun c => { c with downSwitch := false })
      fun _ => ⟨rfl, rfl, rfl, rfl, rfl, rfl, rfl⟩).trans
      (keeps_interlock (guarded_checkSwitches _).keeps)) (Keeps.refl s)

theorem markMotion_same (u : HeadUnit) : u.markMotion.phase = u.phase ∧
    u.markMotion.correction = u.correction ∧ u.markMotion.measurement = u.measurement := by
  unfold HeadUnit.markMotion
  split <;> exact ⟨rfl, rfl, rfl⟩

theorem kept_losePressure (s : State) : Kept s s.losePressure := by
  unfold State.losePressure
  split
  · exact kept_modCradle _ _
  · refine Kept.ite ?_ (kept_enterSettling _)
    apply kept_of_fields
    simp only [State.keptFields, (markMotion_same s.heads.left).2.1, (markMotion_same s.heads.left).2.2,
      (markMotion_same s.heads.right).2.1, (markMotion_same s.heads.right).2.2]
  all_goals exact Kept.refl s

/-- Pressure lost: out of SETTLING no settle timer was running. -/
theorem interlocked_losePressure {s : State} (h : s.Interlocked) :
    ((s.modCradle fun c => { c with pressure := false }).losePressure).Interlocked := by
  have off : s.cradle.state ≠ .settling →
      (s.modCradle fun c => { c with pressure := false }).Interlocked := fun hn =>
    ⟨h.travel, fun x => absurd (h.settle x).1 hn, h.grant, h.strobes, h.captures, h.raisePending,
      h.pending, h.grantPending, h.granted⟩
  unfold State.losePressure
  have e : (s.modCradle fun c => { c with pressure := false }).cradle.state = s.cradle.state := rfl
  split <;> rename_i hs <;> rw [e] at hs
  · exact ⟨h.travel, fun x => (by cases x), h.grant, h.strobes, h.captures, h.raisePending,
      h.pending, h.grantPending, h.granted⟩
  · have k := off (by simp [hs])
    split
    · rename_i f
      refine ⟨k.travel, k.settle, k.grant, k.strobes, fun _ => hs, fun r => ⟨hs, ?_⟩, k.pending,
        k.grantPending, k.granted⟩
      simpa only [State.inFlight, (markMotion_same _).1] using f
    · rename_i f
      have f : s.inFlight = false := (Bool.not_eq_true _).mp f
      have e : EnterOk (s.modCradle fun c => { c with pressure := false }) .settling :=
        ⟨fun _ => f, fun r => absurd (f.symm.trans (h.raisePending r).2) (by simp), k.pending,
          fun r => absurd (h.grantPending r) (by simp [hs]),
          ⟨fun x => absurd (h.granted.1 x) (by simp [hs]), fun x => (by cases x)⟩⟩
      exact (landed_enterSettling e).interlocked k
  all_goals exact off (by simp [hs])

theorem keeps_pressureLost (s : State) : Keeps s (pressureLost s) := by
  unfold pressureLost State.interlock
  refine Keeps.ite ⟨(kept_modCradle _ _).trans (Kept.ite (kept_halt _ _) (kept_losePressure _)),
    fun h => ?_⟩ (Keeps.refl s)
  split
  · exact (landed_halt _ _ _).interlocked h
  · exact interlocked_losePressure h

theorem keeps_pressureReturned (s : State) : Keeps s (pressureReturned s) := by
  unfold pressureReturned
  refine Keeps.ite (Keeps.refl s) (Keeps.trans (t := s.modCradle fun c => { c with pressure := true })
    ⟨kept_modCradle _ _, fun h => ⟨h.travel, fun x => ⟨(h.settle x).1, rfl⟩, h.grant, h.strobes,
      h.captures, h.raisePending, h.pending, h.grantPending, h.granted⟩⟩ (keeps_interlock ?_))
  split
  · rename_i e
    exact ⟨kept_startSettle _, fun h =>
      (landed_startSettle (interlocked_iff.1 h).1 e.1 rfl).interlocked h⟩
  · exact Keeps.refl _

theorem keeps_haltCause (s : State) (c : HaltCause) :
    Keeps s (s.modCradle fun x => { x with haltCause := c }) :=
  keeps_level s (f := fun x => { x with haltCause := c })
    fun _ => ⟨rfl, rfl, rfl, rfl, rfl, rfl, rfl⟩

theorem keeps_stopLineAsserted (s : State) : Keeps s (stopLineAsserted s) := by
  unfold stopLineAsserted
  refine Keeps.ite (Keeps.refl s) ((keeps_level s (f := fun c => { c with stopLine := true })
    fun _ => ⟨rfl, rfl, rfl, rfl, rfl, rfl, rfl⟩).trans
    (keeps_interlock ?_))
  exact Keeps.ite ((keeps_haltCause _ _).trans (quiet_reportHalt _ _).keeps) (keeps_halt _ _)

theorem keeps_stopLineReleased (s : State) : Keeps s (stopLineReleased s) :=
  keeps_level s (f := fun c => { c with stopLine := false })
    fun _ => ⟨rfl, rfl, rfl, rfl, rfl, rfl, rfl⟩

theorem keeps_pedalReleased (s : State) : Keeps s (pedalReleased s) :=
  keeps_level s (f := fun c => { c with pedal := false })
    fun _ => ⟨rfl, rfl, rfl, rfl, rfl, rfl, rfl⟩

theorem keeps_travelTimerExpiry (s : State) : Keeps s (travelTimerExpiry s) := by
  unfold travelTimerExpiry
  split
  · exact Keeps.refl s
  · exact keeps_interlock (keeps_halt _ _)

theorem keeps_grantTimerExpiry (s : State) : Keeps s (grantTimerExpiry s) := by
  unfold grantTimerExpiry
  split
  · exact Keeps.refl s
  · exact keeps_interlock (keeps_halt _ _)

theorem keeps_settleTimerExpiry (s : State) : Keeps s (settleTimerExpiry s) := by
  unfold settleTimerExpiry
  split
  · exact Keeps.refl s
  · rename_i e
    refine keeps_interlock ⟨kept_reachReady s, fun h => ?_⟩
    have hs := (h.settle (by simp [e])).1
    exact (landed_reachReady (enterOk_of_loose (interlocked_iff.1 h).1 (by simp [hs]) (by simp [hs])
      (by simp) (by simp))).interlocked h

theorem keeps_headError (s : State) (h : Head) (c : AbortCause) : Keeps s (s.headError h c) :=
  ⟨kept_headError s h c, fun i => interlocked_headError i h c⟩

theorem keeps_frameTimerExpiry (h : Head) (s : State) : Keeps s (frameTimerExpiry h s) := by
  unfold frameTimerExpiry
  split
  · exact keeps_headError _ _ _
  · exact Keeps.refl s

theorem keeps_strobePulseEnd (b : Bank) (s : State) : Keeps s (strobePulseEnd b s) := by
  refine ⟨kept_of_fields rfl, fun h => ⟨h.travel, h.settle, h.grant, fun x => ?_, h.captures,
    h.raisePending, h.pending, h.grantPending, h.granted⟩⟩
  have d := h.strobes x
  show _ = _
  unfold strobePulseEnd
  dsimp only
  rw [show s.light.strobes = _ from d]
  cases b <;> rfl

/-! ### Events at the sensor ports (R111, R112) -/

theorem keeps_atCapture {s : State} {h : Head} {f : CaptureRecord → Snapshot → State}
    (a : ∀ c snap, Keeps s (f c snap)) : Keeps s (s.atCapture h f) := by
  unfold State.atCapture
  split
  · exact a _ _
  · exact Keeps.refl s

theorem keeps_lineStart (h : Head) (s : State) : Keeps s (lineStart h s) := by
  refine keeps_atCapture fun c snap => ?_
  split
  · exact keeps_headError _ _ _
  · refine Quiet.keeps ?_
    exact quiet_modHead_same (fun _ => rfl) (fun _ => rfl) fun _ => rfl

theorem keeps_sample (h : Head) (v : Nat) (s : State) : Keeps s (sample h v s) := by
  refine keeps_atCapture fun c snap => ?_
  split
  · exact keeps_headError _ _ _
  · exact Keeps.ite (quiet_setPort _ _ _).keeps (Keeps.ite (keeps_headError _ _ _)
      ((quiet_setPort _ _ _).trans (quiet_takeSample _ _ _ _ _ _)).keeps)

theorem keeps_lineEnd (h : Head) (s : State) : Keeps s (lineEnd h s) := by
  refine keeps_atCapture fun c snap => ?_
  split
  · exact keeps_headError _ _ _
  · exact Keeps.ite (quiet_setPort _ _ _).keeps (Keeps.ite (quiet_completeLine _ _ _ _).keeps
      (keeps_headError _ _ _))

/-- A complete frame leaves its head IDLE and the interlock's pieces alone. -/
theorem completeFrame_spec (s : State) (h : Head) (c : CaptureRecord) (snap : Snapshot) :
    Calm s (s.completeFrame h c snap) ∧
      ∀ k, ((s.completeFrame h c snap).head k).phase = if k = h then .idle else (s.head k).phase := by
  have a : Calm s (s.modHead h fun u =>
      { u with phase := .idle, port := .between, frameTimer := none, lineBuffer := [] }) :=
    calm_modHead (fun _ => rfl) fun _ => rfl
  have p : ∀ k, ((s.modHead h fun u =>
      { u with phase := .idle, port := .between, frameTimer := none, lineBuffer := [] }).head k).phase =
        if k = h then .idle else (s.head k).phase := fun k => phase_modHead _ _ _ _
  unfold State.completeFrame
  dsimp only
  generalize s.modHead h (fun u =>
    { u with phase := .idle, port := .between, frameTimer := none, lineBuffer := [] }) = t at a p ⊢
  have q := quiet_updateDark t h snap
  have fin : ∀ {u : State}, Quiet t u → Calm s u ∧
      ∀ k, (u.head k).phase = if k = h then .idle else (s.head k).phase :=
    fun {u} q => ⟨a.trans q.toCalm, fun k => (q.phases k).trans (p k)⟩
  split
  · exact fin (q.trans (quiet_judge _ _ _ _))
  · exact fin ((q.trans (quiet_endCalibration _ _ _)).trans (quiet_darkResult _ _ _))
  · exact fin ((q.trans (quiet_endCalibration _ _ _)).trans (quiet_flatResult _ _ _ _))

theorem keeps_frameEnd (h : Head) (s : State) : Keeps s (frameEnd h s) := by
  unfold frameEnd
  split
  · refine Quiet.keeps ?_
    exact quiet_modHead_same (fun _ => rfl) (fun _ => rfl) fun _ => rfl
  · refine keeps_atCapture fun c snap => ?_
    dsimp only
    refine Keeps.ite (keeps_headError _ _ _) ?_
    have a := completeFrame_spec s h c snap
    have k := a.1.toKept.trans (guarded_reportFreed (s.completeFrame h c snap) s).toKept
    refine ⟨Kept.ite k (k.trans (kept_exposureEnd _)), fun i => ?_⟩
    have l : Loose (s.completeFrame h c snap) := loose_of_calm a.1 (interlocked_iff.1 i).1 fun k => by
      rw [a.2]
      split
      · intro x; cases x
      · exact id
    have e := interlocked_captureEnds (u := s) l
    split
    · rename_i f; exact e.2 f
    · rename_i f; exact e.1 (by simpa using f)

theorem keeps_imagePortWord (s : State) : Keeps s (s.takeWord.reportFreed s) :=
  ((quiet_takeWord s).guarded.trans (guarded_reportFreed _ _)).keeps

/-! ### The turner's commands (R64 to R74) -/

theorem keeps_takeRequest {s : State} (d : Direction) (hf : s.inFlight = false)
    (h1 : s.cradle.state ≠ .halted) (h2 : s.cradle.state ≠ .lowering)
    (h3 : s.cradle.state ≠ .turnGranted) : Keeps s (s.takeRequest d) := by
  have rp : s.Interlocked → s.cradle.raisePending = false := fun h => by
    cases e : s.cradle.raisePending
    · rfl
    · exact absurd (hf.symm.trans (h.raisePending e).2) (by simp)
  have raising : Keeps s ({ (s.modCradle fun c => { c with grantPending := true }) with
      turn := TurnRecord.requested .pending d }.enterChecked .raising) := by
    refine ⟨Kept.trans (t := { (s.modCradle fun c => { c with grantPending := true }) with
      turn := TurnRecord.requested .pending d }) (kept_of_fields rfl) (kept_enterChecked _ _),
      fun h => ?_⟩
    have l := landed_enterChecked (s := { (s.modCradle fun c => { c with grantPending := true }) with
      turn := TurnRecord.requested .pending d }) (st := .raising)
      ⟨fun _ => hf, fun r => absurd ((rp h).symm.trans r) (by simp),
        by simp [TurnRecord.requested, State.modCradle], fun _ => rfl,
        by simp [TurnRecord.requested]⟩
    exact interlocked_iff.2 ⟨l.loose, fun r => absurd ((rp h).symm.trans (l.raise r).1) (by simp)⟩
  unfold State.takeRequest
  split
  · refine ⟨Kept.trans (t := { s with turn := TurnRecord.requested .pending d })
      (kept_of_fields rfl) (kept_beginGrant _), fun h => ?_⟩
    have l := landed_beginGrant (s := { s with turn := TurnRecord.requested .pending d }) hf (rp h)
    exact interlocked_iff.2 ⟨l.loose, fun r => absurd ((rp h).symm.trans (l.raise r).1) (by simp)⟩
  · exact raising
  · exact raising
  · rename_i e1 e2 e3
    have hs : s.cradle.state = .raising := by
      cases e : s.cradle.state <;> simp_all
    refine ⟨kept_of_fields rfl, fun h => ⟨h.travel, h.settle, h.grant, h.strobes, h.captures,
      h.raisePending, ?_, fun _ => hs, ?_⟩⟩
    · simp [TurnRecord.requested, State.modCradle]
    · simp [TurnRecord.requested, State.modCradle, hs]

theorem keeps_turnRequest (w : Nat) (s : State) : Keeps s (turnRequest w s).2 := by
  unfold turnRequest
  split
  · exact Keeps.refl s
  · refine keeps_snd_ite (keeps_trip s) ?_
    split
    · exact Keeps.refl s
    · rename_i h1
      refine keeps_snd_ite (Keeps.refl s) ?_
      split
      · exact Keeps.refl s
      · rename_i hf
        split
        · exact Keeps.refl s
        · split
          · exact Keeps.refl s
          · rename_i h2
            rw [not_or] at h2
            exact keeps_takeRequest _ (by simpa using hf) h1 h2.1 h2.2

theorem keeps_lateReport (s : State) : Keeps s (lateReport s).2 := (quiet_setLink _ _ _).keeps

/-- A change of the turn's picked or swept alone. -/
theorem keeps_turnData (s : State) (t : TurnRecord) (h : t.phase = s.turn.phase) :
    Keeps s { s with turn := t } :=
  ⟨kept_of_fields rfl, fun i => ⟨i.travel, i.settle, i.grant, i.strobes, i.captures, i.raisePending,
    by show t.phase = _ ↔ _; rw [h]; exact i.pending, i.grantPending,
    by show t.phase = _ ↔ _; rw [h]; exact i.granted⟩⟩

theorem keeps_picked (n : Nat) (s : State) : Keeps s (picked n s).2 :=
  keeps_snd_ite (Keeps.refl s) (keeps_snd_ite (keeps_lateReport s) (keeps_turnData _ _ rfl))

theorem keeps_swept (s : State) : Keeps s (swept s).2 :=
  keeps_snd_ite (keeps_lateReport s) (keeps_turnData _ _ rfl)

theorem keeps_endGrant {s : State} {p : TurnPhase} (hg : s.turn.phase = .granted) (h1 : p ≠ .granted)
    (h2 : p ≠ .pending) : Keeps s (s.endGrant p) := by
  refine ⟨Kept.trans (t := { s with turn := { s.turn with phase := p } }) (kept_of_fields rfl)
    (kept_enterChecked _ _), fun h => ?_⟩
  have st := h.granted.1 hg
  have f : s.inFlight = false := by
    cases e : s.inFlight
    · rfl
    · exact absurd (h.captures e) (by simp [st])
  have r : s.cradle.raisePending = false := by
    cases e : s.cradle.raisePending
    · rfl
    · exact absurd (h.raisePending e).1 (by simp [st])
  have g : s.cradle.grantPending = false := by
    cases e : s.cradle.grantPending
    · rfl
    · exact absurd (h.grantPending e) (by simp [st])
  have l := landed_enterChecked (s := { s with turn := { s.turn with phase := p } }) (st := .opened)
    ⟨fun _ => f, fun x => absurd (r.symm.trans x) (by simp), by simp [h2, g], by simp [g],
      by simp [h1]⟩
  exact interlocked_iff.2 ⟨l.loose, fun x => absurd (r.symm.trans (l.raise x).1) (by simp)⟩

theorem keeps_clear (s : State) : Keeps s (clear s).2 := by
  unfold Machine.clear
  split
  · exact keeps_lateReport s
  · rename_i hg
    have hg : s.turn.phase = .granted := Classical.not_not.1 hg
    refine keeps_snd_ite (keeps_trip s) ?_
    have a := keeps_endGrant (p := .cleared) hg (by simp) (by simp)
    dsimp only
    generalize s.endGrant .cleared = t at a ⊢
    cases t.active with
    | none => exact a.trans (guarded_turnEnded _ _).keeps
    | some h => exact a.trans ((quiet_recordTurn t h).keeps.trans (guarded_turnEnded _ _).keeps)

theorem keeps_aborted (s : State) : Keeps s (aborted s).2 := by
  unfold Machine.aborted
  split
  · exact keeps_lateReport s
  · rename_i hg
    have hg : s.turn.phase = .granted := Classical.not_not.1 hg
    refine keeps_snd_ite (keeps_trip s) ?_
    have a := keeps_endGrant (p := .aborted) hg (by simp) (by simp)
    dsimp only
    generalize s.endGrant .aborted = t at a ⊢
    cases t.active with
    | none => exact a.trans (guarded_turnEnded _ _).keeps
    | some h => exact a.trans ((quiet_count t h _).keeps.trans (guarded_turnEnded _ _).keeps)

theorem keeps_turnerFault (s : State) : Keeps s (turnerFault s).2 :=
  keeps_snd_ite (keeps_trip s) (keeps_snd_ite
    ((keeps_haltCause s .turner).trans (quiet_reportHalt _ .turner).keeps) (keeps_halt s .turner))

theorem keeps_setOpening (k : Nat) (s : State) : Keeps s (setOpening k s).2 := by
  unfold setOpening
  split
  · exact Keeps.refl s
  · rename_i h _
    refine keeps_snd_ite (Keeps.refl s) (keeps_snd_ite (keeps_trip s) (keeps_snd_ite (Keeps.refl s) ?_))
    split
    · exact Keeps.refl s
    · rename_i hk
      have q : Quiet s (s.modVol h fun v => { v with opening := k, uncertain := false }) :=
        quiet_modVol (fun r => ⟨r.leaves, Nat.not_lt.1 hk, r.dose, r.corrected⟩) id
      exact Keeps.ite q.keeps (q.trans (quiet_postStation _ _)).keeps

theorem keeps_markRescan (l f : Nat) (s : State) : Keeps s (markRescan l f s).2 := by
  unfold markRescan
  split
  · exact Keeps.refl s
  · split
    · exact Keeps.refl s
    · split <;> rename_i e
      · exact (quiet_of_readLeaf e).keeps
      · exact keeps_snd_ite (quiet_of_readLeaf e).keeps ((quiet_of_readLeaf e).trans
          (Quiet.ite (Quiet.refl _) (quiet_setRescan _ _ _))).keeps

theorem keeps_rescanHead (s : State) : Keeps s (rescanHead s).2 := by
  unfold rescanHead
  split <;> exact Keeps.refl s

end Sys2Proof.Laws
end

