-- ==== Sys2Proof/Laws/KeepsCommands.lean ====
section
/-! SUPPORT. What the remaining commands keep: the account, the slots, the check unit, the heads, the run
controller, delivery, the settings, the resets; then every action command, and a whole command on its
link. -/
namespace Sys2Proof.Laws
open Sys2Proof.Machine

theorem keeps_of_watched {s t : State} (h : State.watched t = State.watched s) : Keeps s t :=
  (quiet_of_watched h).keeps

/-! ### The account (R6 to R22) -/

theorem interlocked_of_fields {s t : State} (hc : t.cradle = s.cradle) (ht : t.turn = s.turn)
    (hl : t.light = s.light) (hh : t.heads = s.heads) (h : s.Interlocked) : t.Interlocked := by
  refine ⟨?_, ?_, ?_, ?_, ?_, ?_, ?_, ?_, ?_⟩ <;>
    simp only [hc, ht, hl, hh, State.inFlight]
  · exact h.travel
  · exact h.settle
  · exact h.grant
  · exact h.strobes
  · exact h.captures
  · exact h.raisePending
  · exact h.pending
  · exact h.grantPending
  · exact h.granted

theorem openRequest_inRange {r : OpenRequest} (h : r.ok = true) (n : Nat) : (r.volume n).InRange := by
  simp only [OpenRequest.ok, Bool.and_eq_true, decide_eq_true_eq] at h
  exact ⟨h.1.1.1.1.2, Nat.zero_le _, Nat.zero_le _, rfl⟩

theorem nextSerial_le {n : Nat} : nextSerial n ≤ 65535 := by
  unfold nextSerial
  split <;> omega

theorem keeps_openIn {s : State} {h : Handle} {r : OpenRequest} (ha : s.active = none)
    (hr : r.ok = true) : Keeps s (s.openIn h r) := by
  refine ⟨?_, fun i => ?_⟩
  · refine (quiet_freshLeaves s h r.leaves).toKept.trans
      ⟨rfl, fun c => ⟨c.memory, c.leaves, c.gain⟩, fun a => ?_,
        fun x => ⟨x.timers, x.light, x.left, x.right⟩⟩
    have hv := openRequest_inRange hr (nextSerial s.serial)
    have hz : s.vols.zero.state ≠ .active := by
      intro e
      simp [State.active, e] at ha
    have ho : s.vols.one.state ≠ .active := by
      intro e
      simp [State.active, hz, e] at ha
    cases h
    · exact ⟨fun x => ho x.2, nextSerial_le, hv, a.one, Nat.zero_le _, rfl⟩
    · exact ⟨fun x => hz x.1, nextSerial_le, a.zero, hv, Nat.zero_le _, rfl⟩
  · exact interlocked_of_fields (s := s) rfl rfl rfl rfl i

theorem keeps_openVolume (r : OpenRequest) (s : State) : Keeps s (openVolume r s).2 := by
  unfold openVolume
  split
  · exact Keeps.refl s
  · rename_i ha
    have ha : s.active = none := by simpa using ha
    split
    · exact Keeps.refl s
    · refine keeps_snd_ite (keeps_trip s) (keeps_snd_ite (Keeps.refl s) ?_)
      split
      · rename_i hr
        exact keeps_openIn ha hr
      · exact Keeps.refl s

/-- A volume leaves ACTIVE, and the rescan list is emptied with it. -/
theorem quiet_closeActive (s : State) (h : Handle) :
    Quiet s (s.modVol h fun v => { v with state := s.retiredState h }).emptyRescan :=
  Quiet.trans (t := s.modVol h fun v => { v with state := s.retiredState h })
    (quiet_modVol (fun r => ⟨r.leaves, r.opening, r.dose, r.corrected⟩)
      fun e => absurd e (retiredState_ne s h))
    (quiet_emptyRescan _)

theorem keeps_closeVolume (s : State) : Keeps s (closeVolume s).2 := by
  unfold closeVolume
  split
  · exact Keeps.refl s
  · exact keeps_snd_ite (Keeps.refl s) (keeps_snd_ite (Keeps.refl s) (keeps_snd_ite (Keeps.refl s)
      (quiet_closeActive _ _).keeps))

theorem keeps_discardVolume (n : Nat) (s : State) : Keeps s (discardVolume n s).2 := by
  unfold discardVolume
  cases handleOf n with
  | none => exact Keeps.refl s
  | some h =>
    have q := (quiet_foldl (quiet_discardOne h) allSlots s).trans (quiet_retire _ h)
    dsimp only
    generalize (allSlots.foldl (State.discardOne h) s).retire h = t at q
    exact keeps_snd_ite (Keeps.refl s) (keeps_snd_ite (Keeps.refl s) (keeps_snd_ite (Keeps.refl s)
      (q.guarded.trans (guarded_reportFreed t s)).keeps))

theorem quiet_forget (s : State) (h : Handle) : Quiet s (s.putVol h Volume.empty) :=
  quiet_setVol (fun _ => ⟨Nat.zero_le _, Nat.le_refl _, Nat.le_refl _, rfl⟩) fun e => (by cases e)

theorem keeps_forgetVolume (n : Nat) (s : State) : Keeps s (forgetVolume n s).2 := by
  unfold forgetVolume
  split
  · exact Keeps.refl s
  · split
    · exact Keeps.refl s
    · exact Keeps.refl s
    · exact Keeps.refl s
    · exact (quiet_forget s _).keeps

theorem keeps_readVolume (n : Nat) (s : State) : Keeps s (readVolume n s).2 := by
  unfold readVolume
  split
  · exact Keeps.refl s
  · exact keeps_snd_ite (Keeps.refl s) (Keeps.refl s)

theorem keeps_readSummary (n : Nat) (s : State) : Keeps s (readSummary n s).2 := by
  unfold readSummary
  split
  · exact Keeps.refl s
  · split
    · exact Keeps.refl s
    · exact Keeps.refl s
    · exact (quiet_foldl_pair (quiet_summarise _) _ (SideCounts.zero, s)).keeps
    · exact (quiet_foldl_pair (quiet_summarise _) _ (SideCounts.zero, s)).keeps

theorem keeps_setCeilings (a b : Nat) (s : State) : Keeps s (setCeilings a b s).2 := by
  unfold setCeilings
  split
  · exact Keeps.refl s
  · dsimp only
    refine Quiet.keeps ?_
    refine quiet_modVolDose ?_ ?_ ?_ ?_ ?_
    · exact fun _ => rfl
    · exact fun _ => rfl
    · exact fun _ => rfl
    · exact fun _ => rfl
    · exact fun _ => Nat.le_max_right _ _

theorem keeps_setSideMarks (l f n : Nat) (k : Word) (s : State) :
    Keeps s (setSideMarks l f n k s).2 := by
  unfold setSideMarks
  split
  · exact Keeps.refl s
  · split
    · exact Keeps.refl s
    · refine keeps_snd_ite (Keeps.refl s) ?_
      split <;> rename_i e
      · exact (quiet_of_readLeaf e).keeps
      · have q := quiet_of_readLeaf e
        exact keeps_snd_ite q.keeps (keeps_snd_ite q.keeps
          ((q.trans (quiet_flagParam _ _)).trans (quiet_writeMarks _ _ _ _ _)).keeps)

theorem keeps_readLeaf (n l : Nat) (s : State) : Keeps s (Machine.readLeaf n l s).2 := by
  unfold Machine.readLeaf
  split
  · exact Keeps.refl s
  · refine keeps_snd_ite (Keeps.refl s) (keeps_snd_ite (Keeps.refl s) ?_)
    split <;> rename_i e <;> exact (quiet_of_readLeaf e).keeps

theorem keeps_leafRewrite (r : SuppliedLeaf) (s : State) : Keeps s (leafRewrite r s).2 := by
  unfold leafRewrite
  split
  · exact Keeps.refl s
  · rename_i h _
    refine keeps_snd_ite (Keeps.refl s) (keeps_snd_ite (Keeps.refl s) (keeps_snd_ite (Keeps.refl s)
      (keeps_snd_ite (Keeps.refl s) ?_)))
    have q := quiet_rewriteDoses s h r
    dsimp only
    split
    · exact q.keeps
    · rename_i hd
      exact (q.trans (quiet_rewriteLeaf (Nat.not_lt.1 hd))).keeps

/-! ### The slots (R38, R39, R33) -/

theorem keeps_accept (n : Nat) (s : State) : Keeps s (accept n s).2 := by
  unfold accept
  split
  · exact Keeps.refl s
  · split <;> rename_i e
    · exact (quiet_of_readLeaf e).keeps
    · exact ((((quiet_of_readLeaf e).trans (quiet_keepSlot _ _ _)).guarded.trans
        (guarded_reportFreed _ _)).trans (guarded_decided _)).keeps

theorem keeps_reject (n : Nat) (s : State) : Keeps s (reject n s).2 := by
  unfold reject
  split
  · exact Keeps.refl s
  · exact (((quiet_discardSlot _ _).guarded.trans (guarded_reportFreed _ _)).trans
      (guarded_decided _)).keeps

theorem keeps_clearCounters (s : State) : Keeps s (clearCounters s).2 :=
  ⟨kept_of_fields rfl, fun h => ⟨h.travel, h.settle, h.grant, h.strobes, h.captures, h.raisePending,
    h.pending, h.grantPending, h.granted⟩⟩

theorem keeps_clearFaults (s : State) : Keeps s (clearFaults s).2 := keeps_of_watched rfl

/-! ### The heads (R107, R127 to R135) -/

theorem keeps_expose (d l r : Nat) (s : State) : Keeps s (expose d l r s).2 := by
  unfold expose
  have a := (quiet_countRequest s).guarded
  dsimp only
  split
  · exact a.keeps
  · have g := a.trans (guarded_attemptExposure s.countRequest (requestsOf d l r))
    split <;> rename_i e <;> rw [e] at g <;> exact g.keeps

theorem keeps_darkSeed (n : Nat) (s : State) : Keeps s (darkSeed n s).2 := by
  unfold darkSeed
  split
  · exact Keeps.refl s
  · dsimp only
    refine Quiet.keeps ?_
    exact quiet_modHead_same (fun _ => rfl) (fun _ => rfl) fun _ => rfl

/-- The tests of a calibration capture halt the cradle, or leave the state alone; when they pass the
cradle is READY. -/
theorem calibrationTests_spec (s : State) (hs : List Head) :
    Guarded s (s.calibrationTests hs).2 ∧ ((s.calibrationTests hs).1 = none →
      (s.calibrationTests hs).2 = s ∧ s.cradle.state = .ready) := by
  unfold State.calibrationTests
  split
  · exact ⟨Guarded.refl s, fun e => by cases e⟩
  · split
    · exact ⟨Guarded.refl s, fun e => by cases e⟩
    · split
      · exact ⟨Guarded.refl s, fun e => by cases e⟩
      · split
        · exact ⟨guarded_trip s, fun e => by cases e⟩
        · split
          · exact ⟨Guarded.refl s, fun e => by cases e⟩
          · rename_i hr
            split
            · exact ⟨Guarded.refl s, fun e => by cases e⟩
            · exact ⟨Guarded.refl s, fun _ => ⟨rfl, Classical.not_not.1 hr⟩⟩

theorem lit_startCalibration (s : State) (k : CaptureKind) (hs : List Head) (t : Nat) :
    Lit s (s.startCalibration k hs t) :=
  (lit_fire _ _ _ _).trans (lit_foldl (fun u h => lit_trigger u h k none none t) _ _)

theorem keeps_darkCapture (n : Nat) (s : State) : Keeps s (darkCapture n s).2 := by
  unfold darkCapture
  have a := calibrationTests_spec s (headsOf n)
  split <;> rename_i e <;> rw [e] at a
  · exact a.1.keeps
  · obtain ⟨rfl, hr⟩ := a.2 rfl
    exact ((lit_startCalibration _ _ _ _).guarded hr).keeps

theorem keeps_flatCapture (n t : Nat) (s : State) : Keeps s (flatCapture n t s).2 := by
  unfold flatCapture
  have a := calibrationTests_spec s (headsOf n)
  split <;> rename_i e <;> rw [e] at a
  · exact a.1.keeps
  · obtain ⟨rfl, hr⟩ := a.2 rfl
    exact ((lit_startCalibration _ _ _ _).guarded hr).keeps

theorem keeps_gainLoad (a b c d : Nat) (ws : List Word) (s : State) :
    Keeps s (gainLoad a b c d ws s).2 := by
  unfold gainLoad
  split
  · exact Keeps.refl s
  · exact keeps_snd_ite (Keeps.refl s) (quiet_loadGains _ _ _ _ _).keeps

theorem keeps_readGain (a b c d : Nat) (s : State) : Keeps s (Machine.readGain a b c d s).2 := by
  unfold Machine.readGain
  split
  · exact Keeps.refl s
  · exact (quiet_readGains _ _ _ _).keeps

/-! ### The run controller (R154 to R163) -/

theorem guarded_startTests (s : State) : Guarded s s.startTests.2 := by
  unfold State.startTests
  split
  · exact Guarded.refl s
  · split
    · exact Guarded.refl s
    · rename_i h _
      refine (quiet_readVolume s h).guarded.trans ?_
      dsimp only
      generalize s.readVolume h = s
      split
      · exact guarded_trip s
      · split
        · exact Guarded.refl s
        · split
          · exact Guarded.refl s
          · split
            · exact Guarded.refl s
            · split <;> exact Guarded.refl s

theorem guarded_run (n : Nat) (s : State) : Guarded s (run n s).2 := by
  unfold run
  have g := guarded_startTests s
  split <;> rename_i e <;> rw [e] at g
  · exact g
  · split
    · exact g
    · exact g.trans ((quiet_modRun _ _).guarded.trans (guarded_cycleStep _))

theorem quiet_seekTarget (s : State) (h : Handle) (w : Nat) : Quiet s (s.seekTarget h w).2 := by
  unfold State.seekTarget
  split
  · exact quiet_readRescan s
  · split <;> exact Quiet.refl s

theorem keeps_seek (n : Nat) (s : State) : Keeps s (seek n s).2 := by
  unfold seek
  have g := guarded_startTests s
  split <;> rename_i e <;> rw [e] at g
  · exact g.keeps
  · rename_i h t
    have q := quiet_seekTarget t h n
    split <;> rename_i e' <;> rw [e'] at q
    · exact (g.trans q.guarded).keeps
    · refine keeps_snd_ite (g.trans q.guarded).keeps
        ((g.trans q.guarded).trans (Quiet.guarded ?_)).keeps
      exact (quiet_modRun _ _).trans (Quiet.ite (quiet_endRun _ _ _) (quiet_askTurn _ _))

theorem keeps_pedalStart (s : State) : Keeps s s.pedalStart := by
  unfold State.pedalStart
  split
  · exact Keeps.refl s
  · have g := guarded_run 0 s
    split <;> rename_i e <;> rw [e] at g
    · exact (g.trans (quiet_modRun _ _).guarded).keeps
    · exact (Guarded.ite g (g.trans (quiet_modRun _ _).guarded)).keeps

theorem keeps_pedalAsserted (s : State) : Keeps s (pedalAsserted s) := by
  unfold pedalAsserted
  refine Keeps.ite (Keeps.refl s) ((keeps_level s (f := fun c => { c with pedal := true })
    fun _ => ⟨rfl, rfl, rfl, rfl, rfl, rfl, rfl⟩).trans ?_)
  exact Keeps.ite (Keeps.refl _) (keeps_pedalStart _)

theorem keeps_stopRun (s : State) : Keeps s (stopRun s).2 := (quiet_requestStop s).keeps

/-! ### Delivery (R169, R176) -/

theorem keeps_deliver (n : Nat) (s : State) : Keeps s (deliver n s).2 := by
  unfold deliver
  split
  · exact Keeps.refl s
  · refine keeps_snd_ite (keeps_of_watched rfl) (keeps_snd_ite (Keeps.refl s) ?_)
    exact (quiet_enqueue _ _).keeps

theorem keeps_cancelDelivery (s : State) : Keeps s (Machine.cancelDelivery s).2 := by
  unfold Machine.cancelDelivery
  split
  · exact Keeps.refl s
  · exact (quiet_cancelDelivery _ _).keeps

/-! ### The resets (R193, R194) -/

theorem keeps_partialReset (s : State) : Keeps s (partialReset s).2 := by
  unfold partialReset
  have a : Keeps s s.haltForReset := Keeps.ite (keeps_haltCause s _) (keeps_halt s _)
  have b : Quiet s.haltForReset s.haltForReset.freeHeld :=
    quiet_foldl (fun s i => quiet_discardSlot s i) _ _
  have c : Quiet s.haltForReset.freeHeld s.haltForReset.freeHeld.cancelCurrent := by
    unfold State.cancelCurrent
    split
    · exact Quiet.refl _
    · exact quiet_cancelDelivery _ _
  exact a.trans (b.trans c).keeps

theorem accountInRange_reset : State.reset.AccountInRange :=
  ⟨fun h => (by cases h.1), by decide, ⟨by decide, by decide, by decide, by decide⟩,
    ⟨by decide, by decide, by decide, by decide⟩, by decide, by decide⟩

theorem settingsInRange_reset : State.reset.SettingsInRange := by
  refine ⟨⟨?_, ?_, ?_, ?_, ?_⟩, ⟨fun b => ?_, ?_, ?_, ?_, ?_, ?_, ?_⟩, ⟨?_, ?_⟩, ⟨?_, ?_⟩⟩ <;>
    first
    | (cases b <;> exact ⟨by decide, by decide⟩)
    | exact ⟨by decide, by decide⟩
    | decide
    | exact ⟨⟨by decide, by decide⟩, by decide, ⟨by decide, by decide⟩,
        fun ch => by cases ch <;> decide, by decide, by decide, by decide⟩
    | exact ⟨by decide, by decide, ⟨by decide, by decide⟩, ⟨by decide, by decide⟩, by decide,
        by decide, ⟨by decide, by decide⟩, by decide, by decide, by decide⟩

theorem interlocked_reset (s : State) : (pinReset s).Interlocked := by
  refine ⟨?_, ?_, ?_, fun _ => rfl, ?_, ?_, ?_, ?_, ?_⟩ <;>
    simp [pinReset, Cradle.reset, State.reset, State.inFlight, HeadUnit.reset, TurnRecord.reset]

theorem keeps_pinReset (s : State) : Keeps s (pinReset s) :=
  ⟨⟨rfl, fun c => ⟨c.memory, c.leaves, c.gain⟩,
    fun _ => ⟨accountInRange_reset.oneActive, accountInRange_reset.serial, accountInRange_reset.zero,
      accountInRange_reset.one, accountInRange_reset.rescan, accountInRange_reset.corrected⟩,
    fun _ => ⟨settingsInRange_reset.timers, settingsInRange_reset.light, settingsInRange_reset.left,
      settingsInRange_reset.right⟩⟩, fun _ => interlocked_reset s⟩

theorem keeps_initPassEnd (s : State) : Keeps s (initPassEnd s) := by
  unfold initPassEnd
  split
  · exact ⟨⟨rfl, fun c => ⟨c.memory, rfl, rfl⟩,
      fun a => ⟨a.oneActive, a.serial, a.zero, a.one, a.rescan, a.corrected⟩,
      fun r => ⟨r.timers, r.light, r.left, r.right⟩⟩, fun h => interlocked_of_fields (s := s) rfl rfl rfl rfl h⟩
  · exact Keeps.refl s

/-! ### The settings (R49, R87, R105, R140) -/

theorem setTimersField_inRange {s : State} (i v : Nat) (h : s.timers.InRange) :
    (setTimersField i v s).timers.InRange := by
  obtain ⟨h1, h2, h3, h4, h5⟩ := h
  unfold setTimersField
  dsimp only
  split
  · exact ⟨clamp_within (by decide), h2, h3, h4, h5⟩
  · exact ⟨h1, Nat.min_le_right _ _, h3, h4, h5⟩
  · exact ⟨h1, h2, clamp_within (by decide), h4, h5⟩
  · exact ⟨h1, h2, h3, clamp_within (by decide), h5⟩
  · exact ⟨h1, h2, h3, h4, clamp_within (by decide)⟩
  · exact ⟨h1, h2, h3, h4, h5⟩

theorem pinBases_inRange {l : LightingSettings} (hb : ∀ b, (l.banks.get b).InRange)
    (ht : Within 1 65535 l.target) (h1 : 100 ≤ l.dMin) (h2 : l.dMin ≤ l.dMax)
    (h3 : l.dMax ≤ 65535) : l.pinBases.InRange :=
  ⟨hb, ht, h1, h2, h3, clamp_within h2, clamp_within h2⟩

/-- A bank set within its limits leaves every bank within its own. -/
theorem setBank_inRange {l : LightingSettings} {k : Bank} {f : BankSetting → BankSetting}
    (h : ∀ b, (l.banks.get b).InRange) (hf : ∀ b : BankSetting, b.InRange → (f b).InRange) (b : Bank) :
    ((l.setBank k f).banks.get b).InRange := by
  have hlu := h .lu
  have hll := h .ll
  have hru := h .ru
  have hrl := h .rl
  cases k <;> cases b <;> first | assumption | exact hf _ ‹_›

theorem setField_inRange {l : LightingSettings} (i v : Nat) (h : l.InRange) :
    (l.setField i v).InRange := by
  have w := clamp_within (x := v) (lo := 100) (hi := 65535) (by decide)
  have h1 := h.low
  have h2 := h.order
  have h3 := h.high
  unfold LightingSettings.setField
  split
  · split
    · exact ⟨setBank_inRange h.banks fun b r => ⟨Nat.min_le_right _ _, r.weight⟩, h.target, h1, h2, h3,
        h.left, h.right⟩
    · exact ⟨setBank_inRange h.banks fun b r => ⟨r.level, Nat.min_le_right _ _⟩, h.target, h1, h2, h3,
        h.left, h.right⟩
  · split
    · refine pinBases_inRange h.banks h.target ?_ ?_ h3
      · show 100 ≤ min _ _
        have := w.1
        omega
      · exact Nat.min_le_right _ _
    · refine pinBases_inRange h.banks h.target h1 ?_ ?_
      · exact Nat.le_max_right _ _
      · show max _ _ ≤ 65535
        have := w.2
        omega
    · exact ⟨h.banks, h.target, h1, h2, h3, clamp_within h2, h.right⟩
    · exact ⟨h.banks, h.target, h1, h2, h3, h.left, clamp_within h2⟩
    · exact ⟨h.banks, clamp_within (by decide), h1, h2, h3, h.left, h.right⟩
    · exact ⟨h.banks, h.target, h1, h2, h3, h.left, h.right⟩
    · exact ⟨h.banks, h.target, h1, h2, h3, h.left, h.right⟩
    · exact h

theorem arg_le (ws : List Word) (i : Nat) : arg ws i ≤ 65535 := by
  have := (ws.getD i 0).isLt
  unfold arg
  omega

theorem arg32_le (ws : List Word) (i : Nat) : arg32 ws i ≤ 4294967295 := by
  have a := arg_le ws i
  have b := arg_le ws (i + 1)
  unfold arg32
  omega

theorem correction_inRange {c : Correction} (i v : Nat) (h : c.InRange) : (c.setField i v).InRange := by
  obtain ⟨h1, h2, h3, h4, h5, h6, h7⟩ := h
  have fixed : ∀ ch k, (c.fixed.set k (min v 1023)).get ch ≤ 1023 := by
    intro ch k
    have hr := h4 .r
    have hg := h4 .g
    have hb := h4 .b
    cases k <;> cases ch <;> first | exact Nat.min_le_right _ _ | assumption
  unfold Correction.setField
  split
  · have w := clamp_within (x := v) (lo := 1024) (hi := 6144) (by decide)
    have a : widthOf v % 16 = 0 := by unfold widthOf; omega
    refine ⟨⟨?_, ?_⟩, a, h3, h4, h5, h6, h7⟩
    · show 1024 ≤ widthOf v
      unfold widthOf
      have := w.1
      omega
    · show widthOf v ≤ 6144
      unfold widthOf
      have := w.2
      omega
  · exact ⟨h1, h2, clamp_within (by decide), h4, h5, h6, h7⟩
  · exact ⟨h1, h2, h3, h4, h5, h6, h7⟩
  · exact ⟨h1, h2, h3, fun ch => fixed ch .r, h5, h6, h7⟩
  · exact ⟨h1, h2, h3, fun ch => fixed ch .g, h5, h6, h7⟩
  · exact ⟨h1, h2, h3, fun ch => fixed ch .b, h5, h6, h7⟩
  · exact ⟨h1, h2, h3, h4, Nat.min_le_right _ _, h6, h7⟩
  · exact ⟨h1, h2, h3, h4, h5, Nat.min_le_right _ _, h7⟩
  · refine ⟨h1, h2, h3, h4, h5, Nat.le_max_right _ _, ?_⟩
    show max _ _ ≤ 1023
    omega
  · exact ⟨h1, h2, h3, h4, h5, h6, h7⟩

theorem measurement_inRange {m : Measurement} (ws : List Word) (h : m.InRange) :
    (m.setField ws).InRange := by
  obtain ⟨h1, h2, h3, h4, h5, h6, h7, h8, h9, h10⟩ := h
  unfold Measurement.setField
  dsimp only
  split
  · exact ⟨Nat.min_le_right _ _, h2, h3, h4, h5, h6, h7, h8, h9, h10⟩
  · exact ⟨h1, Nat.min_le_right _ _, h3, h4, h5, h6, h7, h8, h9, h10⟩
  · exact ⟨h1, h2, clamp_within (by decide), h4, h5, h6, h7, h8, h9, h10⟩
  · exact ⟨h1, h2, h3, clamp_within (by decide), h5, h6, h7, h8, h9, h10⟩
  · exact ⟨h1, h2, h3, h4, arg_le _ _, h6, h7, h8, h9, h10⟩
  · exact ⟨h1, h2, h3, h4, h5, h6, clamp_within (by decide), h8, h9, h10⟩
  · exact ⟨h1, h2, h3, h4, h5, h6, h7, Nat.min_le_right _ _, h9, h10⟩
  · exact ⟨h1, h2, h3, h4, h5, h6, h7, h8, Nat.min_le_right _ _, h10⟩
  · exact ⟨h1, h2, h3, h4, h5, h6, h7, h8, h9, Nat.min_le_right _ _⟩
  · exact ⟨h1, h2, h3, h4, h5, arg32_le _ _, h7, h8, h9, h10⟩
  · exact ⟨h1, h2, h3, h4, h5, h6, h7, h8, h9, h10⟩

/-- A field of a settings command keeps everything. -/
theorem keeps_applyField (c : Cmd) (ws : List Word) (s : State) : Keeps s (c.applyField ws s) := by
  cases c <;> simp only [Cmd.applyField] <;> try exact Keeps.refl s
  · refine ⟨⟨rfl, fun c => ⟨c.memory, c.leaves, c.gain⟩,
      fun a => ⟨a.oneActive, a.serial, a.zero, a.one, a.rescan, a.corrected⟩,
      fun r => ⟨setTimersField_inRange _ _ r.timers, r.light, r.left, r.right⟩⟩,
      fun h => interlocked_of_fields (s := s) rfl rfl rfl rfl h⟩
  · refine Quiet.keeps ?_
    exact quiet_light rfl (setField_inRange _ _)
  · split
    · exact (quiet_modHead rfl fun r => ⟨correction_inRange _ _ r.correction, r.measurement⟩).keeps
    · exact Keeps.refl s
  · split
    · exact (quiet_modHead rfl fun r => ⟨r.correction, measurement_inRange _ r.measurement⟩).keeps
    · exact Keeps.refl s
  · exact keeps_of_watched rfl
  · unfold setDeliveryField
    split
    · exact keeps_of_watched rfl
    · exact keeps_of_watched rfl
    · exact Keeps.refl s

/-! ### A command taken, and a whole command on its link (R188) -/

theorem keeps_modLink (s : State) (link : MasterLink) (f : Link → Link) : Keeps s (s.modLink link f) :=
  (quiet_modLink s link f).keeps

theorem quiet_readTable (c : Cmd) (ws : List Word) (s : State) : Quiet s (c.readTable ws s) := by
  unfold Cmd.readTable
  exact (quiet_foldl quiet_readVolume _ s).trans (Quiet.ite (quiet_readRescan _) (Quiet.refl _))

theorem keeps_perform (c : Cmd) (link : MasterLink) (ws : List Word) (s : State) :
    Keeps s (c.perform link ws s).2 := by
  cases c <;> simp only [Cmd.perform]
  case readStatus => exact Keeps.refl s
  case takeNotices => exact (quiet_setLink _ _ _).keeps
  case clearLinkFlags => exact (quiet_setLink _ _ _).keeps
  case readLeaf => exact keeps_readLeaf _ _ _
  case rescanHead => exact keeps_rescanHead _
  case turnRequest => exact keeps_turnRequest _ _
  case picked => exact keeps_picked _ _
  case swept => exact keeps_swept _
  case clear => exact keeps_clear _
  case aborted => exact keeps_aborted _
  case turnerFault => exact keeps_turnerFault _
  case openVolume => exact keeps_openVolume _ _
  case closeVolume => exact keeps_closeVolume _
  case discardVolume => exact keeps_discardVolume _ _
  case forgetVolume => exact keeps_forgetVolume _ _
  case readVolume => exact keeps_readVolume _ _
  case readSummary => exact keeps_readSummary _ _
  case setCeilings => exact keeps_setCeilings _ _ _
  case setSideMarks => exact keeps_setSideMarks _ _ _ _ _
  case markRescan => exact keeps_markRescan _ _ _
  case setOpening => exact keeps_setOpening _ _
  case leafRewrite =>
    split
    · exact keeps_leafRewrite _ _
    · exact Keeps.refl s
  case accept => exact keeps_accept _ _
  case reject => exact keeps_reject _ _
  case readSlot => unfold readSlot; split <;> exact Keeps.refl s
  case clearCounters => exact keeps_clearCounters _
  case lower => exact keeps_lower _
  case raise => exact keeps_raise _
  case resume => exact keeps_resume _
  case readLighting => exact Keeps.refl s
  case expose => exact keeps_expose _ _ _ _
  case readCapture => unfold readCapture; split <;> exact Keeps.refl s
  case darkSeed => exact keeps_darkSeed _ _
  case darkCapture => exact keeps_darkCapture _ _
  case flatCapture => exact keeps_flatCapture _ _ _
  case gainLoad => exact keeps_gainLoad _ _ _ _ _ _
  case readGain => exact keeps_readGain _ _ _ _ _
  case readCalibration => unfold readCalibration; split <;> exact Keeps.refl s
  case readMeasurement => unfold readMeasurement; split <;> exact Keeps.refl s
  case run => exact (guarded_run _ _).keeps
  case seek => exact keeps_seek _ _
  case stopRun => exact keeps_stopRun _
  case readRun => exact Keeps.refl s
  case deliver => exact keeps_deliver _ _
  case cancelDelivery => exact keeps_cancelDelivery _
  case readDelivery => exact Keeps.refl s
  case readFaults => exact Keeps.refl s
  case clearFaults => exact keeps_clearFaults _
  case partialReset => exact keeps_partialReset _
  all_goals exact Keeps.refl s

theorem keeps_act (c : Cmd) (link : MasterLink) (ws : List Word) (s : State) :
    Keeps s (c.act link ws s).2 :=
  (quiet_readTable c ws s).keeps.trans (keeps_perform c link ws _)

theorem keeps_takeCommand (s : State) (link : MasterLink) (c : Cmd) (ws : List Word) :
    Keeps s (s.takeCommand link c ws) := by
  unfold State.takeCommand
  exact ((keeps_modLink s link fun l => { l with rx := .idle }).trans (keeps_act c link ws _)).trans
    (keeps_modLink _ link _)

theorem keeps_commandWord (s : State) (link : MasterLink) (d : Word) (p : Bool) :
    Keeps s (s.commandWord link d p) := by
  unfold State.commandWord
  refine (keeps_modLink s link fun l => l.clockOut.breakOff).trans (Keeps.ite ?_ (keeps_modLink _ _ _))
  unfold State.takeCommandWord
  split
  · exact keeps_modLink _ _ _
  · exact Keeps.ite (Keeps.ite (keeps_modLink _ _ _) (Keeps.ite (keeps_takeCommand _ _ _ _)
      (keeps_modLink _ _ _))) (keeps_modLink _ _ _)

theorem keeps_otherWord (s : State) (link : MasterLink) (d : Word) (p : Bool) :
    Keeps s (s.otherWord link d p) := by
  unfold State.otherWord
  refine (keeps_modLink s link Link.clockOut).trans ?_
  dsimp only
  split
  · split
    · unfold State.collect
      exact Keeps.ite (keeps_modLink _ _ _) ((keeps_applyField _ _ _).trans
        (Keeps.ite (keeps_takeCommand _ _ _ _) (keeps_modLink _ _ _)))
    · exact Keeps.refl _
  · refine (keeps_modLink _ link fun l => { l with flags := { l.flags with parity := true } }).trans ?_
    split
    · exact keeps_modLink _ _ _
    · exact Keeps.refl _

theorem keeps_transact (s : State) (link : MasterLink) (c : Cmd) (ws : List Word) :
    Keeps s (s.transact link c ws) := by
  refine (keeps_commandWord s link c.word (parityBit true c.word)).trans ?_
  unfold State.transact State.clockWords
  generalize s.commandWord link c.word (parityBit true c.word) = t
  induction ws generalizing t with
  | nil => exact Keeps.refl t
  | cons w ws ih => exact (keeps_otherWord t link w _).trans (ih _)

end Sys2Proof.Laws
end

