-- ==== Sys2Proof/Laws/Words.lean ====
section
/-! SUPPORT. What the words of the statements say of the shared operations: a write of one face changes that face
alone, and the interlock's answer to the end of an exposure is the one R54 names. -/
namespace Sys2Proof.Laws
open Sys2Proof.Machine

/-- Different leaf records have different keys. -/
theorem leafKey_inj {h h' : Handle} {n n' : Nat} (a : n ≤ 2047) (b : n' ≤ 2047)
    (e : leafKey h n = leafKey h' n') : h = h' ∧ n = n' := by
  cases h <;> cases h' <;> simp only [leafKey, Handle.place, Config.leavesPerHandle] at e <;>
    refine ⟨by first | rfl | omega, by omega⟩

/-- The face written is the face read. -/
theorem face_setFace (r : LeafRecord) (f : Face) (x : FaceRecord) : (r.setFace f x).face f = x := by
  cases f <;> rfl

/-- A later write of the same face replaces an earlier one. -/
theorem setFace_setFace (r : LeafRecord) (f : Face) (x y : FaceRecord) :
    (r.setFace f x).setFace f y = r.setFace f y := by
  cases f <;> rfl

/-- A write of one face of a record changes that face alone. -/
theorem faceAlone_setFace {s : State} (c : s.Canonical) (h : Handle) (d : Side) (x : FaceRecord) :
    FaceAlone s (s.setFace h d x) h d where
  record := by
    have e : (s.setFace h d x).leaf h d.leaf = (s.leaf h d.leaf).setFace d.face x := by
      rw [State.leaf, (fields_setFace s h d x).2.2.2.2.2.1, get_set _ _ _ c.leaves, if_pos rfl]
    rw [State.face, e, face_setFace]
  others b h' n k a := by
    rw [State.leaf, (fields_setFace s h d x).2.2.2.2.2.1, get_set _ _ _ c.leaves, if_neg]
    · rfl
    · intro e
      have i := leafKey_inj b a e
      rcases k with k | k
      · exact k (by first | exact i.1 | exact i.1.symm)
      · exact k (by first | exact i.2 | exact i.2.symm)

/-- Two writes of the same face, one after the other. -/
theorem FaceAlone.trans {s t u : State} {h : Handle} {d : Side} (a : FaceAlone s t h d)
    (b : FaceAlone t u h d) : FaceAlone s u h d where
  record := by rw [b.record, a.record, setFace_setFace]
  others l h' n k m := (b.others l h' n k m).trans (a.others l h' n k m)

/-- Where the parity holds and the switches agree, the interlock's answer to the end of an exposure in
READY is the one R54 names. -/
theorem settleAfterExposure_of_agree {s : State} (p : s.cradle.parityGood = true)
    (r : s.cradle.state = .ready) (a : s.switchesAllowEnd) :
    s.settleAfterExposure = s.afterExposure := by
  obtain ⟨up, down⟩ := a
  unfold State.settleAfterExposure State.afterExposure
  simp only [p, r, Bool.true_eq_false, if_false, if_true]
  split
  · rename_i w
    have n := up w
    simp only [State.enterChecked, State.modCradle, State.enter, switchesAgree]
    rw [if_pos]
    cases u : s.cradle.upSwitch <;> cases v : s.cradle.downSwitch <;> simp_all
  · rename_i w
    split
    · rename_i l
      have n := down (by simpa using w) l
      simp [State.enterSettling, State.enterChecked, State.enter, switchesAgree, n, l]
    · rfl

end Sys2Proof.Laws
end

