-- ==== Sys2Proof/Tests/Slice0.lean ====
section
/-! SUPPORT. Small tests: what the check of a command's form refuses, states that meet the premises of each
statement, and single steps on small states. -/
namespace Sys2Proof.Tests
set_option Elab.async false
open Sys2Proof Sys2Proof.Machine

/-! ### The check of a command's form refuses -/

theorem test_illFormed_partialWord : (Instr.partialWordDiscard .station 18).wellFormed = false := by decide +kernel
theorem test_illFormed_openVolume :
    (Instr.openVolume 1 10 5 5 2 [0x41]).wellFormed = false ∧
    (Instr.openVolume 1 10 5 5 41 [0x41]).wellFormed = false := by decide +kernel
theorem test_illFormed_gainLoad :
    (Instr.gainLoad 0 0 0 2 [1]).wellFormed = false ∧ (Instr.gainLoad 0 0 0 257 [1]).wellFormed = false := by
  decide +kernel
theorem test_illFormed_leafRewrite :
    (Instr.leafRewrite [0, 0, 0, 1, 0, 0, 0, 0, 7]).wellFormed = false ∧
    (Instr.leafRewrite [0, 0, 0, 1, 0, 0, 0]).wellFormed = false := by decide +kernel
theorem test_illFormed_setLighting : (Instr.setLighting [1, 2]).wellFormed = false := by decide +kernel
theorem test_illFormed_setCorrection :
    (Instr.setCorrection [0]).wellFormed = false ∧ (Instr.setCorrection [2, 0]).wellFormed = false := by decide +kernel
theorem test_illFormed_setMeasurement :
    (Instr.setMeasurement [0]).wellFormed = false ∧ (Instr.setMeasurement [2, 0]).wellFormed = false := by decide +kernel
theorem test_wellFormed :
    (Instr.partialWordDiscard .station 17).wellFormed = true ∧
    (Instr.openVolume 1 10 5 5 2 [0x41, 0x42]).wellFormed = true ∧
    (Instr.gainLoad 0 0 0 1 [7]).wellFormed = true ∧
    (Instr.leafRewrite [0, 0, 0, 1, 0, 0, 0, 0]).wellFormed = true ∧
    (Instr.setCorrection [2]).wellFormed = true := by decide +kernel

/-! ### Small states -/

/-- A block after its initialisation pass, the cradle in a state with the switches it requires. -/
def block (st : CradleState) : State :=
  { State.reset with
    initRunning := false
    cradle := { State.reset.cradle with
      state := st
      upSwitch := decide (st = .opened ∨ st = .turnGranted)
      downSwitch := decide (st = .settling ∨ st = .ready)
      pressure := decide (st = .ready) } }

/-- The same with a volume ACTIVE in handle 0, of ten leaves. -/
def book (st : CradleState) : State :=
  { block st with
    serial := 1
    vols := ⟨{ Volume.empty with
      state := .active, serial := 1, leaves := 10, volumeCeiling := 10000000000
      sideCeiling := 4000000000 }, Volume.empty⟩ }

/-- The owner of a capture of leaf 3, verso, panel 1. -/
def someone : Owner := ⟨.zero, 3, .verso, 1⟩

/-- A slot in a state, with that owner. -/
def held (st : SlotState) : Slot := { Slot.cleared with state := st, owner := some someone, w := 1024, h := 1024 }

/-- A book with that slot in place 0. -/
def withSlot (st : SlotState) (s : State) : State := { s with slots := s.slots.set 0 (held st) }

/-- A book with a face record of leaf 3. -/
def withFace (f : FaceRecord) (s : State) : State := s.setFace .zero ⟨3, .verso⟩ f

/-- A book with the volume of handle 0 changed. -/
def withVolume (f : Volume → Volume) (s : State) : State := s.modVol .zero f

/-- A run in a state. -/
def running (st : RunState) (s : State) : State := { s with run := { s.run with state := st } }

/-- A capture record. -/
def shot (k : CaptureKind) (lines : Nat) : CaptureRecord :=
  ⟨k, if k = .normal then some 0 else none, none, lines, false, 0, 0, .inFlight⟩

/-- A snapshot with two columns and three lines. -/
def frame : Snapshot :=
  { correction := { Correction.default with w := 2, h := 3 }, running := ⟨0, 0, 0⟩
    measurement := Measurement.default, keep := KeepSettings.default
    light := LightingSettings.default.latch .left, flatTarget := 1 }

/-- A READY book whose LEFT head captures into slot 0. -/
def flying (k : CaptureKind) (lines : Nat) (port : PortState) : State :=
  let s := withSlot .filling (book .ready)
  { s with
    delivery := { s.delivery with settings := ⟨.w16, false⟩ }
    heads := s.heads.set .left { s.heads.left with
      phase := .capturing, port := port, capture := some (shot k lines), snapshot := some frame
      frameTimer := some 1500, flatSums := [1, 2, 3, 4, 5, 6] } }

/-- A run in EXPOSING whose LEFT capture ended as given. -/
def exposed (x : CaptureOutcome) : State :=
  let s := running .exposing (book .ready)
  { s with
    run := { s.run with slots := ⟨some 0, none⟩ }
    heads := s.heads.set .left { s.heads.left with capture := some { shot .normal 3 with outcome := x } } }

/-- A phase of a turn. -/
def turning (p : TurnPhase) (d : Direction) (n : Nat) (s : State) : State :=
  { s with turn := ⟨p, some d, some n, false⟩ }

/-- The cradle of a state changed. -/
def withCradle (f : Cradle → Cradle) (s : State) : State := { s with cradle := f s.cradle }

/-- A station link collecting a command. -/
def collecting (c : Cmd) (ws : List Word) : State :=
  { book .ready with links := ⟨{ Link.reset with rx := .collecting c ws }, Link.reset⟩ }

/-- A delivery of slot 0 in a phase. -/
def parcel (p : DeliveryPhase) (cancelled : Bool) (ws : List PortWord) : Delivery :=
  ⟨p, 0, someone, 0, .w16, ⟨0, 0, 2, 1⟩, 0, 0, 0, 0xFFFFFFFF, false, cancelled, ws, []⟩

/-- A book with that delivery under way. -/
def delivering (p : DeliveryPhase) (cancelled : Bool) (ws : List PortWord) : State :=
  let s := withSlot .delivering (book .opened)
  { s with delivery := { s.delivery with current := some (parcel p cancelled ws) } }

/-- Single errors in the record of handle 0 and in the rescan list, as many as given. -/
def erring (volume list : Nat) : State :=
  { withVolume (fun v => { v with errors := ⟨volume, 0⟩ }) (book .opened) with rescanErrors := ⟨list, 0⟩ }

/-- A head that captures has a slot whose owner's record is clean. -/
theorem ownersClean_of_first {s : State} {gone : SlotNo → Bool} (first : ∀ i, gone i = true → i = 0)
    (o : (s.slot 0).owner = some someone) (clean : s.cleanLeaf .zero 3) : s.ownersClean gone :=
  fun i h => ⟨someone, first i h ▸ o, by decide, clean⟩

/-! ### Premises of the statements on the queue and the links -/

theorem test_witness_StepRunsTheFrontCommand :
    ((book .ready).withQueue [.lower, .raise]).pending = .lower :: [.raise] ∧ (book .ready).pending = [] := by
  decide +kernel

theorem test_witness_InitialisationPassEnds :
    State.reset.initRunning = true ∧ (block .opened).initRunning = false := by decide +kernel

theorem test_witness_CommandsAreRefusedDuringInitialisation :
    State.reset.initRunning = true ∧ Cmd.expose ≠ .readStatus ∧ Cmd.expose.ownedBy .station = true ∧
    Cmd.readLeaf.ownedBy .turner = true ∧
    (Instr.expose 3 1 1).spelled = some (.station, .expose, [3, 1, 1]) ∧
    (Instr.clear).spelled = some (.turner, .clear, []) := by decide +kernel

theorem test_witness_CommandWordStartsATransaction :
    (block .opened).initRunning = false ∧ Cmd.expose.ownedBy .station = true ∧ Cmd.expose.arity ≠ 0 ∧
    Cmd.lower.ownedBy .station = true ∧ Cmd.lower.arity = 0 ∧ Cmd.takeNotices.ownedBy .turner = true := by
  decide +kernel

theorem test_witness_LinkRefusesBadCommandWords :
    (!(parityBit true 0x0052)) ≠ parityBit true 0x0052 ∧
    Cmd.ofCode 0x0000 = none ∧ Cmd.ofCode 0x0006 = none ∧ Cmd.ofCode 0x00A3 = none ∧
    Cmd.ofCode 0x0052 = some .expose ∧ Cmd.expose.ownedBy .turner = false ∧
    Cmd.ofCode 0x0010 = some .turnRequest ∧ Cmd.turnRequest.ownedBy .station = false := by decide +kernel

theorem test_witness_ParameterAndFillerWords :
    (collecting .expose [3]).links.station.rx = .collecting .expose [3] ∧ Cmd.expose.isSetting = false ∧
    Cmd.expose.complete ([3] ++ [1]) = false ∧ Cmd.expose.complete ([3, 1] ++ [1]) = true ∧
    (collecting .setCorrection []).links.station.rx = .collecting .setCorrection [] ∧
    Cmd.setCorrection.isSetting = true ∧ Cmd.setCorrection.headRefused ([] ++ [1]) = false ∧
    Cmd.setCorrection.complete ([] ++ [1]) = false ∧ (!(parityBit false 1)) ≠ parityBit false 1 := by decide +kernel
theorem test_witness_fillerWord : ∀ c ws, (book .ready).links.station.rx ≠ .collecting c ws := by
  intro c ws h; cases h

theorem test_witness_TakeNoticesAndClearLinkFlags :
    (book .ready).initRunning = false ∧ (0 < 16 ∧ 0 < 16) ∧ (15 < 16 ∧ 15 < 16) := by decide +kernel

theorem test_witness_ReadStatusReportsTheState :
    State.reset.turn.picked.getD 0 ≤ 2 ∧ State.reset.delivery.queue.length ≤ 8 ∧
    State.reset.rescan.length ≤ 64 ∧ State.reset.openingNow ≤ 65535 := by decide +kernel

/-- No word of the records or of the list waits to be corrected in the states that the witnesses use. -/
theorem test_witness_tableClean :
    State.reset.TableClean ∧ (∀ st, (book st).TableClean ∧ (block st).TableClean) ∧
    (∀ k n p, (flying k n p).TableClean) ∧ (∀ p b ws, (delivering p b ws).TableClean) :=
  ⟨⟨rfl, rfl, rfl⟩, fun _ => ⟨⟨rfl, rfl, rfl⟩, ⟨rfl, rfl, rfl⟩⟩, fun _ _ _ => ⟨rfl, rfl, rfl⟩,
   fun _ _ _ => ⟨rfl, rfl, rfl⟩⟩

/-! ### Premises of the statements on the account -/

/-- A block after its pass has the canonical form, whatever its slots, cradle and volumes. -/
theorem canonical_of_empty {s : State} (m : s.memory = []) (l : s.leaves = []) (g : s.gain = []) :
    s.Canonical :=
  ⟨by rw [m]; decide, by rw [l]; decide, by rw [g]; decide⟩

theorem test_witness_canonical :
    (book .ready).Canonical ∧ (flying .normal 0 .between).Canonical ∧
    (withFace { FaceRecord.fresh with rescan := true } (book .opened)).Canonical :=
  ⟨⟨by decide +kernel, by decide +kernel, by decide +kernel⟩, ⟨by decide +kernel, by decide +kernel, by decide +kernel⟩,
   ⟨by decide +kernel, by decide +kernel, by decide +kernel⟩⟩

/-- A CLOSED volume in handle 0, none in handle 1. -/
def closed : State := withVolume (fun v => { v with state := .closed }) (book .opened)

theorem test_witness_OpenVolume :
    (block .opened).initRunning = false ∧ (block .opened).active = none ∧ closed.active = none ∧
    (block .opened).cradle.parityGood = true ∧ (block .halted).cradle.state = .halted ∧
    ((block .opened).vol .zero).state = .empty ∧ (closed.vol .one).state = .empty ∧
    closed.vols.zero.state ≠ .empty ∧ (block .opened).serial ≤ 65535 ∧
    ([0x20, 0x7E] : List Word).length = (2 : Word).toNat ∧
    charsFit 40 (List.replicate 40 0x41) = true ∧ charsFit 0 [] = true ∧ charsFit 41 [] = true := by decide +kernel
theorem test_witness_OpenVolume_chars :
    ∀ c ∈ ([0x20, 0x7E] : List Word), 0x20 ≤ c.toNat ∧ c.toNat ≤ 0x7E := by
  intro c h
  simp only [List.mem_cons, List.not_mem_nil, or_false] at h
  rcases h with rfl | rfl <;> decide
theorem test_witness_OpenVolume_refusals :
    (book .opened).active ≠ none ∧
    (withVolume (fun v => { v with state := .closed })
      { book .opened with vols := ⟨(book .opened).vols.zero, { Volume.empty with state := .draining }⟩ }).active
      = none ∧
    (closed.cradle.state = .opened ∧ closed.vols.one.state = .empty) ∧
    ((block .lowering).active = none ∧ (block .lowering).cradle.state ≠ .opened ∧
      (block .lowering).cradle.state ≠ .halted) ∧
    (¬(1 ≤ (0 : Word).toNat) ∧ ¬((2047 : Word).toNat ≤ 2046) ∧ 999 < (1000 : Word).toNat) := by decide +kernel

theorem test_witness_CloseAndForgetVolume :
    (block .opened).active = none ∧ (book .opened).active = some .zero ∧
    (running .turning (book .opened)).run.state ≠ .idle ∧
    ((flying .normal 0 .between).head .left).phase = .capturing ∧
    ((flying .normal 0 .between).head .left).capture = some (shot .normal 0) ∧
    ((withSlot .provisional (book .opened)).slot 0).state = .provisional ∧
    ((withSlot .kept (book .opened)).slot 0).owner = some someone ∧
    (1 : Word).toNat = Handle.one.place ∧ (closed.vol .zero).state = .closed ∧
    ((book .opened).vol .one).state = .empty ∧ ((book .opened).vol .zero).state = .active := by decide +kernel
theorem test_witness_CloseVolume_accepted :
    (¬∃ p c, ((book .opened).head p).phase = .capturing ∧ ((book .opened).head p).capture = some c ∧
      c.kind = .normal) ∧
    (¬∃ i o, ((book .opened).slot i).state = .provisional ∧ ((book .opened).slot i).owner = some o ∧
      o.handle = .zero) := by
  refine ⟨?_, ?_⟩
  · rintro ⟨p, c, h, _⟩; cases p <;> cases h
  · rintro ⟨i, o, h, _⟩; exact absurd h ((by decide +kernel : ∀ i, ((book .opened).slot i).state ≠ .provisional) i)

theorem test_witness_SetCeilingsClampsUpward :
    (block .ready).active = none ∧ (book .ready).active = some .zero := by decide +kernel

/-- A DRAINING volume in handle 0 with a KEPT slot. -/
def draining : State := withVolume (fun v => { v with state := .draining }) (withSlot .kept (book .opened))

theorem test_witness_DiscardVolumeFreesItsSlots :
    2 ≤ (2 : Word).toNat ∧ (0 : Word).toNat = Handle.zero.place ∧ ((block .opened).vol .zero).state = .empty ∧
    (closed.vol .zero).state = .closed ∧ (flying .normal 0 .between).inFlight = true ∧
    (running .turning (book .opened)).inFlight = false ∧ (draining.vol .zero).state = .draining ∧
    draining.inFlight = false ∧ draining.run.state ≠ .slotWait ∧
    ((withSlot .provisional (book .opened)).vol .zero).state = .active ∧
    (withSlot .provisional (book .opened)).run.state = .idle := by decide +kernel
/-- The same with a volume ACTIVE in handle 1 whose run waits for a slot; the discard frees one. -/
def drainingUnderRun : State :=
  let s := running .slotWait draining
  { s with vols := s.vols.set .one { (book .ready).vol .zero with serial := 2 } }

theorem test_witness_DiscardVolume_slotWait :
    drainingUnderRun.initRunning = false ∧ drainingUnderRun.TableClean ∧
    (drainingUnderRun.vol .zero).state = .draining ∧ drainingUnderRun.active = some .one ∧
    drainingUnderRun.inFlight = false ∧ drainingUnderRun.run.state = .slotWait ∧
    drainingUnderRun.freeCount = 7 ∧
    (drainingUnderRun.slot 0).ownedBy .zero = true ∧ (drainingUnderRun.slot 0).state = .kept := by
  refine ⟨by decide +kernel, ⟨rfl, rfl, rfl⟩, ?_⟩
  decide +kernel
theorem test_witness_DiscardVolume_clean :
    (∀ s ∈ [withSlot .provisional (book .opened), draining], s.TableClean ∧ s.Canonical ∧
      s.ownersClean (fun i => (s.slot i).ownedBy .zero &&
        ((s.slot i).state == .provisional || (s.slot i).state == .kept))) ∧
    (allSlots.any (fun i => (draining.slot i).ownedBy .zero &&
      ((draining.slot i).state == .provisional || (draining.slot i).state == .kept)) = true) := by
  refine ⟨fun s hs => ?_, by decide +kernel⟩
  simp only [List.mem_cons, List.not_mem_nil, or_false] at hs
  rcases hs with rfl | rfl
  · exact ⟨⟨rfl, rfl, rfl⟩, ⟨by decide +kernel, by decide +kernel, by decide +kernel⟩,
      ownersClean_of_first (by decide +kernel) (by decide +kernel) ⟨by decide +kernel, by decide +kernel⟩⟩
  · exact ⟨⟨rfl, rfl, rfl⟩, ⟨by decide +kernel, by decide +kernel, by decide +kernel⟩,
      ownersClean_of_first (by decide +kernel) (by decide +kernel) ⟨by decide +kernel, by decide +kernel⟩⟩

theorem test_witness_SetOpeningMovesThePointer :
    (book .halted).cradle.parityGood = true ∧ (block .halted).active = none ∧
    (running .turning (book .opened)).run.state ≠ .idle ∧
    ((book .ready).cradle.state ≠ .opened ∧ (book .ready).cradle.state ≠ .halted) ∧
    ((book .opened).vol .zero).leaves < (11 : Word).toNat ∧
    (10 : Word).toNat ≤ ((book .opened).vol .zero).leaves := by decide +kernel

/-- A book whose leaf record 3 holds errors. -/
def spoilt (e : WordErr) : State :=
  (book .opened).setLeaf .zero 3 { LeafRecord.fresh .leaf with errors := [(.header, e)] }

/-- A book whose leaf record 3 is invalid. -/
def damaged : State :=
  (book .opened).setLeaf .zero 3
    { LeafRecord.fresh .leaf with valid := false, errors := [(.marks .verso, .uncorrectable)] }

/-- No valid record of handle 0 holds a bit error, though an invalid one does. -/
theorem test_witness_damagedApart :
    (damaged.leaf .zero 3).errors ≠ [] ∧
    ∀ n, n ≤ 11 → (damaged.leaf .zero n).valid = true → (damaged.leaf .zero n).errors = [] := by
  decide +kernel

theorem test_witness_ReadingARecordAndItsSummary :
    (damaged.leaf .zero 3).valid = false ∧ ((spoilt .uncorrectable).leaf .zero 3).valid = true ∧
    (∃ e ∈ ((spoilt .uncorrectable).leaf .zero 3).errors,
      e.1 ∈ [LeafWord.header] ∧ e.2 = .uncorrectable) ∧
    (¬∃ e ∈ ((spoilt .single).leaf .zero 3).errors, e.1 ∈ [LeafWord.header] ∧ e.2 = .uncorrectable) := by
  decide +kernel
theorem test_witness_ReadingTheTable :
    ((erring 2 0).vol .zero).errors.single = 2 ∧ 0 < 2 ∧ ((book .opened).vol .zero).errors.single = 0 ∧
    (0 : Word).toNat = Handle.zero.place ∧ (erring 2 0).initRunning = false ∧
    ((erring 2 0).vol .zero).state ≠ .empty ∧ (erring 0 1).rescanErrors.single = 1 ∧ 0 < 1 ∧
    (erring 0 1).active = some .zero ∧ ((erring 0 1).vol .zero).errors.single = 0 ∧
    (book .opened).rescanErrors.single = 0 ∧ (erring 0 1).initRunning = false := by decide +kernel

/-- A face of two declared panels, with the settled parts given. -/
def face (a b : Settled) : FaceRecord :=
  { FaceRecord.fresh with declared := 2, panels := [⟨1, 1, a, none⟩, ⟨2, 1, b, none⟩] }

/-- Statistics of a capture. -/
def stats : CaptureStats := CaptureStats.cleared

theorem test_witness_summary :
    (∀ e ∈ (face (.kept stats) (.delivered stats)).panels, 1 ≤ e.number ∧ e.number ≤ 2) ∧
    (∀ e ∈ (face (.kept stats) .none).panels, ∀ e' ∈ (face (.kept stats) .none).panels,
      e.number = e'.number → e = e') ∧
    ({ face .none .none with skip := true }).summary = .skipped ∧ (face .none .none).summary = .unseen ∧
    ({ face .none .none with missed := true }).summary = .missed ∧
    (face (.kept stats) .none).summary = .partly ∧
    (face (.kept stats) (.delivered stats)).summary = .captured ∧
    (face (.delivered stats) (.delivered stats)).summary = .complete := by decide +kernel

theorem test_witness_AccountReadouts :
    2 ≤ (2 : Word).toNat ∧ (1 : Word).toNat = Handle.one.place ∧ ((book .opened).vol .one).state = .empty ∧
    ((book .opened).vol .zero).state ≠ .empty ∧ ((book .opened).vol .zero).leaves + 1 < (12 : Word).toNat ∧
    (11 : Word).toNat ≤ ((book .opened).vol .zero).leaves + 1 ∧ (damaged.leaf .zero 3).valid = false ∧
    ((book .opened).leaf .zero 11).errors = [] ∧ (draining.vol .zero).state = .draining ∧
    (∀ n, n ≤ (draining.vol .zero).leaves + 1 → (draining.leaf .zero n).errors = []) := by decide +kernel

/-- A face with a pending panel above its first. -/
def pendingFace : FaceRecord :=
  { FaceRecord.fresh with declared := 3, panels := [⟨3, 0, .none, some ⟨.provisional, 0⟩⟩] }

theorem test_witness_SetSideMarksWritesTheMarks :
    2 ≤ (2 : Word).toNat ∧ (1 : Word).toNat = Face.verso.place ∧ (block .opened).active = none ∧
    (book .opened).active = some .zero ∧
    sideExists ((book .opened).vol .zero).leaves ⟨0, .recto⟩ = false ∧
    sideExists ((book .opened).vol .zero).leaves ⟨3, .verso⟩ = true ∧ (damaged.leaf .zero 3).valid = false ∧
    (let s := withFace pendingFace (book .opened)
     (∃ e ∈ (s.face .zero ⟨3, .verso⟩).panels, (2 : Word).toNat < e.number) ∧
     (∀ e ∈ (s.face .zero ⟨3, .verso⟩).panels, e.number ≤ (3 : Word).toNat) ∧
     (∃ e ∈ (s.face .zero ⟨3, .verso⟩).panels, e.pending ≠ none)) ∧
    (let s := withFace { face (.kept stats) (.kept stats) with declared := 3, rescan := true } (book .opened)
     (∀ e ∈ (s.face .zero ⟨3, .verso⟩).panels, e.number ≤ (2 : Word).toNat ∧ e.pending = none) ∧
     (s.leaf .zero 3).valid = true ∧ (s.leaf .zero 3).errors = [] ∧
     (s.face .zero ⟨3, .verso⟩).rescan = true ∧ (2 : Word).toNat < (s.face .zero ⟨3, .verso⟩).declared ∧
     ⟨3, .verso⟩ ∉ s.rescan ∧
     ({ s.face .zero ⟨3, .verso⟩ with declared := 2 } : FaceRecord).allSettled = true) := by decide +kernel

theorem test_witness_MarkRescanAndRescanHead :
    (block .opened).active = none ∧ (book .opened).active = some .zero ∧ 2 ≤ (2 : Word).toNat ∧
    (0 : Word).toNat = Face.recto.place ∧
    sideExists ((book .opened).vol .zero).leaves ⟨12, .recto⟩ = false ∧
    sideExists ((book .opened).vol .zero).leaves ⟨11, .recto⟩ = true ∧
    ((withFace { FaceRecord.fresh with skip := true } (book .opened)).face .zero ⟨3, .verso⟩).skip = true ∧
    ((withFace { FaceRecord.fresh with rescan := true } (book .opened)).face .zero ⟨3, .verso⟩).rescan = true ∧
    ((book .opened).face .zero ⟨3, .verso⟩).rescan = false ∧ (book .opened).rescan.length < 64 ∧
    64 ≤ (List.replicate 64 (⟨4, .recto⟩ : Side)).length := by decide +kernel

/-- LEAF REWRITE's words for leaf 3 of handle 0: a recto of one panel and a verso of none. -/
def rewriteWords : List Word := [0, 3, 1, 2, 4, 0, 500, 1, 1, 7, 0, 1, 8, 0, 100, 0]

/-- What they carry. -/
def supplied : SuppliedLeaf :=
  ⟨0, 3, 1, [(.recto, ⟨2, false, false, true, false, 500, 1, [⟨1, 7, 0, CaptureStats.cleared⟩]⟩),
    (.verso, ⟨1, false, false, false, true, 100, 0, []⟩)]⟩

/-- A book with a KEPT capture of leaf 3, to be rewritten. -/
def rewritten : State := withSlot .kept (book .opened)

theorem test_witness_LeafRewriteRebuildsTheRecord :
    parseRewrite rewriteWords = some (supplied, []) ∧ supplied.handle = Handle.zero.place ∧
    rewritten.initRunning = false ∧ (rewritten.vol .zero).state = .active ∧
    (rewritten.vol .zero).leaves ≤ 2046 ∧ rewritten.leaf .zero 3 = LeafRecord.fresh .leaf ∧
    (∀ n, n ≤ (rewritten.vol .zero).leaves + 1 → (rewritten.leaf .zero n).errors = []) ∧
    (((List.range ((rewritten.vol .zero).leaves + 2)).flatMap fun n =>
        if n ≠ supplied.leaf ∧ (rewritten.leaf .zero n).valid then
          (rewritten.leaf .zero n).kind.faces.map fun f => ((rewritten.leaf .zero n).face f).dose
        else []) ++ supplied.faces.map (·.2.dose)).sum = 600 ∧
    600 ≤ (rewritten.vol .zero).volumeCeiling ∧
    (withVolume (fun v => { v with volumeCeiling := 599 }) rewritten).vols.zero.volumeCeiling < 600 := by
  decide +kernel
theorem test_witness_LeafRewrite_tests :
    ¬(((rewritten.vol .zero).leaves + 1 < supplied.leaf ∨
      kindOf supplied.kind ≠ some (kindAt (rewritten.vol .zero).leaves supplied.leaf)) ∨
      ∃ g ∈ supplied.faces, 4 < g.2.panelCount ∨ g.2.declared < 1 ∨ 4 < g.2.declared ∨
        ¬(g.2.panels.map (·.number)).Nodup ∨
        ∃ p ∈ g.2.panels, p.number < 1 ∨ 4 < p.number ∨ 255 < p.generation ∨ 2 < p.settled) ∧
    ¬(∃ g ∈ supplied.faces, (rewritten.vol .zero).sideCeiling < g.2.dose) ∧
    ¬(∃ g ∈ supplied.faces, (∃ p ∈ g.2.panels, g.2.declared < p.number) ∨
      ∃ p, 1 ≤ p ∧ p ≤ 4 ∧ g.2.declared < p ∧
        ∃ i, (rewritten.slot i).holds ⟨.zero, supplied.leaf, g.1, p⟩ = true) := by
  refine ⟨by decide +kernel, by decide +kernel, ?_⟩
  have none_ : ∀ g ∈ supplied.faces, (∀ p ∈ g.2.panels, ¬g.2.declared < p.number) ∧
      ∀ p ∈ [1, 2, 3, 4], g.2.declared < p →
        ∀ i, (rewritten.slot i).holds ⟨.zero, supplied.leaf, g.1, p⟩ = false := by decide +kernel
  rintro ⟨g, hg, ⟨p, hp, h⟩ | ⟨p, h1, h4, h, i, hi⟩⟩
  · exact (none_ g hg).1 p hp h
  · have hp : p ∈ [1, 2, 3, 4] := by
      simp only [List.mem_cons, List.not_mem_nil, or_false]; omega
    exact absurd hi (by simp [(none_ g hg).2 p hp h i])
/-- Each of the five tests fails on some words: the handle, an EMPTY volume, a leaf or kind or group out of range, a
declared count below a supplied or a held panel, a dose above the side ceiling. -/
theorem test_witness_LeafRewrite_refusals :
    (∃ r, parseRewrite [2, 3, 1, 1, 0, 0, 0, 0, 1, 0, 0, 0, 0] = some (r, []) ∧ 2 ≤ r.handle) ∧
    (∃ r, parseRewrite [1, 3, 1, 1, 0, 0, 0, 0, 1, 0, 0, 0, 0] = some (r, []) ∧ r.handle = Handle.one.place ∧
      (rewritten.vol .one).state = .empty) ∧
    (∃ r, parseRewrite [0, 12, 1, 1, 0, 0, 0, 0, 1, 0, 0, 0, 0] = some (r, []) ∧
      (rewritten.vol .zero).leaves + 1 < r.leaf) ∧
    (∃ r, parseRewrite [0, 3, 0, 1, 0, 0, 0, 0] = some (r, []) ∧
      kindOf r.kind ≠ some (kindAt (rewritten.vol .zero).leaves r.leaf)) ∧
    (∃ r, parseRewrite [0, 3, 1, 1, 0, 0, 0, 5] = some (r, []) ∧ ∃ g ∈ r.faces, 4 < g.2.panelCount) ∧
    (∃ r, parseRewrite [0, 3, 1, 1, 0, 0, 0, 1, 2, 0, 0, 1, 0, 0, 0, 0] = some (r, []) ∧
      ∃ g ∈ r.faces, ∃ p ∈ g.2.panels, g.2.declared < p.number) ∧
    (({ held .kept with owner := some ⟨.zero, 3, .verso, 4⟩ } : Slot).holds ⟨.zero, 3, .verso, 4⟩ = true) ∧
    (∃ r, parseRewrite [0, 3, 1, 1, 0, 0xFFFF, 0, 0, 1, 0, 0, 0, 0] = some (r, []) ∧
      ∃ g ∈ r.faces, (rewritten.vol .zero).sideCeiling < g.2.dose) := by
  refine ⟨⟨_, rfl, ?_⟩, ⟨_, rfl, ?_⟩, ⟨_, rfl, ?_⟩, ⟨_, rfl, ?_⟩, ⟨_, rfl, ?_⟩, ⟨_, rfl, ?_⟩, ?_, ⟨_, rfl, ?_⟩⟩ <;>
    decide +kernel

/-! ### Premises of the statements on the cradle and the turns -/

/-- A grant held, with agreeing switches. -/
def granted (d : Direction) (n : Nat) : State := turning .granted d n (book .turnGranted)

theorem test_witness_HaltEffects :
    ((flying .normal 0 .between).head .left).phase = .capturing ∧
    ((flying .normal 0 .between).head .left).capture = some (shot .normal 0) ∧
    ((flying .normal 0 .between).head .right).phase = .idle ∧ (flying .normal 0 .between).inFlight = true ∧
    (running .exposing (book .ready)).run.state ≠ .idle ∧ (book .ready).run.state = .idle ∧
    (granted .forward 1).turn.phase = .granted ∧ (granted .forward 1).active = some .zero ∧
    HaltCause.stop.fault = some .stop := by decide +kernel
theorem test_witness_HaltEffects_clean :
    let s := flying .normal 0 .between
    let gone (i : SlotNo) : Bool := [Head.left, .right].any fun p =>
      (s.head p).phase == .capturing && (s.head p).capture.bind (·.slot) == some i
    s.Canonical ∧ s.TableClean ∧ s.ownersClean gone ∧ gone 0 = true ∧
    (∀ i o, gone i = true → (s.slot i).owner = some o → (s.vol o.handle).state ≠ .draining) := by
  refine ⟨test_witness_canonical.2.1, ⟨rfl, rfl, rfl⟩,
    ownersClean_of_first (by decide +kernel) (by decide +kernel) ⟨by decide +kernel, by decide +kernel⟩,
    by decide +kernel, fun i o _ ho => ?_⟩
  have all : ∀ i o, ((flying .normal 0 .between).slot i).owner = some o → o.handle = .zero := by
    intro i o h
    have : ∀ i, ((flying .normal 0 .between).slot i).owner = none ∨
      ((flying .normal 0 .between).slot i).owner = some someone := by decide +kernel
    rcases this i with hn | hs
    · rw [hn] at h; cases h
    · rw [hs] at h; cases h; rfl
  rw [all i o ho]; decide +kernel

theorem test_witness_LowerRaiseResume :
    (∀ st : CradleState, (book .ready).initRunning = false → (book st).cradle.parityGood = true) ∧
    (running .turning (book .opened)).run.state ≠ .idle ∧ (book .halted).cradle.state = .halted ∧
    (book .opened).cradle.downSwitch = false ∧ (book .settling).cradle.state = .settling ∧
    ((book .ready).cradle.state = .ready ∧ (book .ready).inFlight = false) ∧
    ¬((book .ready).cradle.upSwitch = true ∧ (book .ready).cradle.downSwitch = true) ∧
    (flying .normal 0 .between).inFlight = true ∧ (book .raising).run.state = .idle ∧
    (withCradle (fun c => { c with stopLine := true }) (book .halted)).cradle.stopLine = true ∧
    ((book .halted).cradle.stopLine = false ∧ (book .halted).cradle.upSwitch = false) ∧
    (withCradle (fun c => { c with upSwitch := true }) (book .halted)).cradle.upSwitch = true ∧
    (book .halted).cradle.grantPending = false ∧ (book .halted).run.state ≠ .preparing := by
  refine ⟨fun st _ => by cases st <;> rfl, ?_⟩
  decide +kernel

theorem test_witness_SetTimersClampsEachField : (book .ready).initRunning = false := by decide

/-- A cradle in a state with the switches and pressure given. -/
def cradled (st : CradleState) (up down pressure : Bool) : State :=
  withCradle (fun c => { c with upSwitch := up, downSwitch := down, pressure := pressure }) (book st)

/-- A settle field of 0. -/
def noSettle (s : State) : State := { s with timers := { s.timers with settle := 0 } }

theorem test_witness_PlatenSwitches :
    (cradled .lowering false false true).cradle.parityGood = true ∧
    (book .ready).cradle.downSwitch = true ∧
    ((cradled .lowering false false false).cradle.state = .lowering ∧
      (cradled .lowering false false false).cradle.upSwitch = false ∧
      (cradled .lowering false false false).cradle.pressure = false) ∧
    ((cradled .lowering false false true).cradle.pressure = true ∧
      (cradled .lowering false false true).timers.settle ≠ 0) ∧
    ((noSettle (cradled .lowering false false true)).timers.settle = 0 ∧
      (noSettle (cradled .lowering false false true)).run.state ≠ .preparing) ∧
    (cradled .lowering true false false).cradle.upSwitch = true ∧
    ((book .opened).cradle.downSwitch = false ∧ (book .opened).cradle.state ≠ .lowering) ∧
    ((cradled .raising false false false).cradle.state = .raising ∧
      (cradled .raising false false false).cradle.grantPending = false) ∧
    (withCradle (fun c => { c with grantPending := true }) (book .raising)).cradle.grantPending = true ∧
    (cradled .raising false true false).cradle.downSwitch = true ∧
    ((book .lowering).cradle.upSwitch = false ∧ (book .lowering).cradle.state ≠ .raising) ∧
    (book .opened).cradle.upSwitch = true := by decide +kernel

theorem test_witness_PressureAndSettling :
    ((cradled .settling false true true).cradle.pressure = true ∧
      (cradled .settling false true true).cradle.state = .settling) ∧
    ((book .ready).cradle.pressure = true ∧ (book .ready).inFlight = false ∧
      (book .ready).cradle.upSwitch = false ∧ (book .ready).cradle.downSwitch = true) ∧
    ((flying .normal 0 .between).cradle.pressure = true ∧ (flying .normal 0 .between).inFlight = true) ∧
    ((cradled .opened true false true).cradle.state ≠ .settling ∧
      (cradled .opened true false true).cradle.state ≠ .ready) ∧
    ((book .settling).cradle.pressure = false ∧ (book .settling).cradle.settleTimer = none ∧
      (book .settling).timers.settle ≠ 0 ∧ (noSettle (book .settling)).timers.settle = 0 ∧
      (book .settling).run.state ≠ .preparing) ∧
    ¬((book .opened).cradle.state = .settling ∧ (book .opened).cradle.settleTimer = none) ∧
    (withCradle (fun c => { c with settleTimer := some 300 }) (book .settling)).cradle.settleTimer.isSome
      = true := by decide +kernel

theorem test_witness_HaltingEvents :
    (book .ready).skippedNow = [] ∧
    (withCradle (fun c => { c with stopLine := true }) (book .ready)).cradle.stopLine = true ∧
    ((book .ready).cradle.stopLine = false ∧ (book .ready).cradle.state ≠ .halted) ∧
    (book .halted).cradle.state = .halted ∧
    (withCradle (fun c => { c with travelTimer := some 2000 }) (book .raising)).cradle.travelTimer.isSome = true ∧
    (book .ready).cradle.travelTimer = none ∧
    (withCradle (fun c => { c with grantTimer := some 6000 }) (book .turnGranted)).cradle.grantTimer.isSome
      = true ∧
    (book .ready).cradle.grantTimer = none := by decide +kernel

theorem test_witness_StopLineAndPedal :
    (withCradle (fun c => { c with pedal := true }) (book .ready)).cradle.pedal = true ∧
    (State.reset.cradle.pedal = false ∧ State.reset.initRunning = true) ∧
    (running .turning (book .opened)).run.state ≠ .idle ∧
    ((block .opened).run.state = .idle ∧ (block .opened).active = none) ∧
    ((book .opened).active = some .zero ∧ (book .opened).cradle.parityGood = true ∧
      (book .opened).cradle.state ≠ .halted ∧ (book .opened).inFlight = false ∧
      ((book .opened).vol .zero).uncertain = false) ∧
    ¬((book .opened).cradle.state = .turnGranted ∨
      ((book .opened).cradle.state = .raising ∧ (book .opened).cradle.grantPending = true)) ∧
    ((book .halted).cradle.state = .halted ∧ (book .halted).active = some .zero) ∧
    (book .turnGranted).cradle.state = .turnGranted ∧
    ((flying .normal 0 .between).inFlight = true ∧ (flying .normal 0 .between).cradle.state ≠ .halted) ∧
    ((withVolume (fun v => { v with uncertain := true }) (book .opened)).vol .zero).uncertain = true := by
  decide +kernel

/-- A failed parity. -/
def failed (s : State) : State := withCradle (fun c => { c with parityGood := false }) s

theorem test_witness_FailedParityHaltsTheCradle :
    (failed (book .ready)).cradle.parityGood = false ∧ (failed (book .ready)).initRunning = false ∧
    (failed (book .ready)).run.state = .idle ∧ (1 : Word).toNat ≤ 1 ∧
    (failed (granted .forward 1)).turn.phase = .granted ∧ (failed (book .ready)).cradle.pressure = true ∧
    (failed (book .ready)).cradle.upSwitch = false ∧
    (failed (withCradle (fun c => { c with travelTimer := some 1 }) (book .raising))).cradle.travelTimer.isSome
      = true ∧
    (failed (withCradle (fun c => { c with settleTimer := some 1 }) (book .settling))).cradle.settleTimer.isSome
      = true := by decide +kernel
theorem test_witness_FailedParity_others :
    (failed (book .ready)).TableClean ∧ (failed (book .ready)).skippedNow = [] ∧
    (failed (book .ready)).active.isSome = true ∧
    ((failed (block .ready)).active = none ∧ (failed (block .ready)).vols.zero.state = .empty ∧
      (failed (block .ready)).run.state = .idle) ∧
    charsFit 2 [0x41, 0x42] = true ∧ 1 ≤ (1 : Word).toNat ∧ (3 : Word).toNat ≤ 3 ∧
    (failed (book .ready)).cradle.pedal = false ∧ (failed (book .opened)).cradle.pressure = false ∧
    (failed (withCradle (fun c => { c with grantTimer := some 1 }) (book .turnGranted))).cradle.grantTimer.isSome
      = true ∧
    (failed (book .opened)).cradle.downSwitch = false ∧ (failed (book .opened)).cradle.upSwitch = true ∧
    (failed (book .ready)).cradle.downSwitch = true ∧ (failed (book .ready)).cradle.stopLine = false ∧
    ((failed (flying .normal 0 .between)).head .left).phase = .capturing ∧
    ((failed (flying .normal 0 .between)).head .left).frameTimer.isSome = true ∧
    (failed (flying .normal 0 .between)).run.state ≠ .slotWait ∧
    ((failed (flying .normal 0 .between)).head .right).phase = .idle ∧
    (failed (running .slotWait (book .ready))).run.stopRequested = false := by
  refine ⟨⟨rfl, rfl, rfl⟩, ?_⟩
  decide +kernel

theorem test_witness_TurnRequestIsTestedAndTaken :
    2 ≤ (2 : Word).toNat ∧ (0 : Word).toNat = Direction.forward.place ∧
    (1 : Word).toNat = Direction.back.place ∧ (book .halted).cradle.state = .halted ∧
    (running .turning (book .opened)).run.state ≠ .idle ∧
    (running .turning (book .opened)).run.wanted ≠ some .forward ∧
    (flying .normal 0 .between).inFlight = true ∧
    ((withVolume (fun v => { v with opening := 3 }) (withSlot .provisional (book .opened))).slot 0).state
      = .provisional ∧
    someone.side = ⟨3, .verso⟩ ∧ ((book .opened).vol .zero).opening = 0 ∧
    ((book .opened).cradle.upSwitch = true ∧ (book .opened).cradle.downSwitch = false) ∧
    (book .settling).cradle.upSwitch = false ∧ (book .raising).cradle.state = .raising := by decide +kernel
theorem test_witness_TurnRequest_accepted :
    ¬(∃ h, (book .opened).active = some h ∧ ∃ i o, ((book .opened).slot i).state = .provisional ∧
      ((book .opened).slot i).owner = some o ∧ o.handle = h ∧
      (o.side = ⟨((book .opened).vol h).opening, .verso⟩ ∨
        o.side = ⟨((book .opened).vol h).opening + 1, .recto⟩)) ∧
    ¬(∃ h, (book .opened).active = some h ∧
      ((Direction.forward = .forward ∧
        ((book .opened).vol h).leaves ≤ ((book .opened).vol h).opening) ∨
       (Direction.forward = .back ∧ ((book .opened).vol h).opening = 0))) := by
  refine ⟨?_, ?_⟩
  · rintro ⟨_, _, i, _, h, _⟩
    exact absurd h ((by decide +kernel : ∀ i, ((book .opened).slot i).state ≠ .provisional) i)
  · rintro ⟨h, ha, hb⟩
    cases ha; revert hb; decide +kernel

theorem test_witness_ReportsDuringAGrant :
    2 < (3 : Word).toNat ∧ (2 : Word).toNat ≤ 2 ∧ (granted .forward 1).turn.phase = .granted ∧
    (book .opened).turn.phase ≠ .granted ∧ (granted .back 1).cradle.upSwitch = true ∧
    (granted .back 1).cradle.downSwitch = false ∧ (granted .back 1).run.state = .idle ∧
    (turning .granted .back 1 (block .turnGranted)).active = none ∧
    (granted .back 1).active = some .zero := by decide +kernel

theorem test_witness_ClearRecordsTheTurn :
    (granted .back 2).turn.direction = some .back ∧ (granted .back 2).turn.picked.getD 0 = 2 ∧ 2 ≤ 2 ∧
    ¬(Direction.back = .forward ∧ 2 = 2) ∧ (granted .forward 1).turn.picked.getD 0 = 1 ∧
    (turning .granted .back 1 (block .turnGranted)).active = none ∧
    ((granted .back 2).vol .zero).opening ≤ ((granted .back 2).vol .zero).leaves := by decide +kernel
/-- A grant held for a run that asked for it. -/
def grantedTo (kind : RunKind) (target : Option Nat) (n : Nat) : State :=
  let s := granted .forward n
  { s with run := { s.run with
      state := if kind = .run then .turning else .seeking, kind := some kind, remaining := 2, target := target
      budget := 5, wanted := some .forward } }

theorem test_witness_ClearForARun :
    (∀ kind target n, (grantedTo kind target n).TableClean ∧ (grantedTo kind target n).Canonical ∧
      (grantedTo kind target n).active = some .zero ∧ (grantedTo kind target n).run.wanted.isSome = true ∧
      (grantedTo kind target n).turn.direction = some .forward ∧
      ∀ i ∈ [Instr.clear, .aborted], ∃ u, exec i { grantedTo kind target n with
        run := { (grantedTo kind target n).run with wanted := none } } = .next u) ∧
    ((grantedTo .run none 2).cleanLeaf .zero 1 ∧ (grantedTo .run none 2).cleanLeaf .zero 2) ∧
    (grantedTo .run none 1).run.state ≠ .idle ∧ (grantedTo .run none 1).run.kind = some .run ∧
    (¬((grantedTo .run none 1).vol .zero).leaves < ((grantedTo .run none 1).vol .zero).opening + 1) ∧
    ((withVolume (fun v => { v with opening := 10 }) (grantedTo .run none 1)).vol .zero).leaves < 10 + 1 ∧
    (grantedTo .seek (some 1) 1).run.kind = some .seek ∧ (grantedTo .seek (some 1) 1).run.target = some 1 ∧
    (grantedTo .seek (some 1) 1).run.turnsTaken < (grantedTo .seek (some 1) 1).run.budget := by
  refine ⟨fun kind target n => ⟨⟨rfl, rfl, rfl⟩, canonical_of_empty rfl rfl rfl, rfl, rfl, rfl,
    fun i hi => ?_⟩, ⟨⟨by decide +kernel, by decide +kernel⟩, ⟨by decide +kernel, by decide +kernel⟩⟩, ?_⟩
  · simp only [List.mem_cons, List.not_mem_nil, or_false] at hi
    rcases hi with rfl | rfl <;> exact ⟨_, rfl⟩
  · decide +kernel

theorem test_witness_MissedMarking :
    (book .opened).active = some .zero ∧ ((book .opened).leaf .zero 3).errors = [] ∧
    (damaged.leaf .zero 3).valid = false ∧
    ((withFace { FaceRecord.fresh with skip := true } (book .opened)).face .zero ⟨3, .verso⟩).skip = true ∧
    (∃ e ∈ ((withFace (face (.kept stats) .none) (book .opened)).face .zero ⟨3, .verso⟩).panels,
      e.settled ≠ .none) ∧
    ¬(∃ e ∈ ((book .opened).face .zero ⟨3, .verso⟩).panels, e.settled ≠ .none) ∧
    ((book .opened).face .zero ⟨3, .verso⟩).rescan = false ∧
    ((withFace { FaceRecord.fresh with rescan := true } (book .opened)).face .zero ⟨3, .verso⟩).rescan = true ∧
    (granted .forward 2).turn.picked = some 2 ∧ (granted .forward 2).skippedNow = [] ∧
    ((granted .forward 2).vol .zero).opening < ((granted .forward 2).vol .zero).leaves := by decide +kernel

/-! ### Premises of the statements on slots, settings and exposures -/

/-- A held capture, auto-delivery off. -/
def undecided : State :=
  let s := withSlot .provisional (book .opened)
  { s with delivery := { s.delivery with settings := ⟨.w16, false⟩ } }

theorem test_witness_HeldCapturesAreDecided :
    8 ≤ (8 : Word).toNat ∧ (0 : Word).toNat = (0 : SlotNo).val ∧ (7 : Word).toNat = (7 : SlotNo).val ∧
    (undecided.slot 7).state ≠ .provisional ∧ (undecided.slot 0).state = .provisional ∧
    (undecided.slot 0).owner = some someone ∧
    ((withSlot .provisional damaged).leaf someone.handle someone.leaf).valid = false ∧
    (undecided.leaf .zero 3).valid = true ∧ (undecided.leaf .zero 3).errors = [] ∧
    undecided.run.state ≠ .deciding ∧ undecided.run.state ≠ .slotWait ∧
    undecided.delivery.settings.auto = false := by decide +kernel
/-- The last slot of a DRAINING volume. -/
theorem test_witness_HeldCaptures_draining :
    ((withVolume (fun v => { v with state := .draining }) undecided).vol .zero).state = .draining ∧
    ∀ j, j ≠ 0 → ((withVolume (fun v => { v with state := .draining }) undecided).slot j).ownedBy .zero = false := by
  decide +kernel
theorem test_witness_HeldCaptures_states :
    undecided.TableClean ∧ undecided.cleanLeaf .zero 3 ∧ someone.leaf ≤ 2047 ∧
    (undecided.delivery.current = none ∧ undecided.delivery.queue = []) ∧
    (undecided.vol .zero).state ≠ .draining ∧
    ((withSlot .provisional damaged).skippedNow = [] ∧
      ((withSlot .provisional damaged).vol .zero).state ≠ .draining) ∧
    (running .deciding undecided).run.state = .deciding ∧
    (running .slotWait undecided).run.state = .slotWait ∧ undecided.active = some .zero ∧
    (running .deciding undecided).skippedNow = [] ∧
    (∀ i ∈ [Instr.accept 0, .reject 0], ∃ u, exec i undecided = .next u) := by
  refine ⟨⟨rfl, rfl, rfl⟩, ⟨by decide +kernel, by decide +kernel⟩, by decide, ⟨rfl, rfl⟩, by decide +kernel,
    by decide +kernel, rfl, rfl, by decide +kernel, rfl, fun i hi => ?_⟩
  simp only [List.mem_cons, List.not_mem_nil, or_false] at hi
  rcases hi with rfl | rfl <;> exact ⟨_, rfl⟩

theorem test_witness_ReadoutsChangeOnlyTheirLink :
    8 ≤ (8 : Word).toNat ∧ (7 : Word).toNat = (7 : SlotNo).val ∧ 2 ≤ (2 : Word).toNat ∧
    (1 : Word).toNat = headPlace .right ∧ (book .ready).faults.record = none ∧
    ((book .ready).halt .stop).faults.record = some (FaultRecord.plain .stop) := by decide +kernel

theorem test_witness_CountersAndFaultsAreCleared : (book .ready).initRunning = false := by decide

/-- The interlock of a state whose timers are stopped and turn record is empty. -/
theorem interlocked_of_quiet {s : State} (a : s.cradle.travelTimer = none) (b : s.cradle.settleTimer = none)
    (c : s.cradle.grantTimer = none) (d : s.light.strobes = ⟨none, none, none, none⟩)
    (e : s.inFlight = true → s.cradle.state = .ready) (f : s.cradle.raisePending = false)
    (g : s.turn.phase = .none) (i : s.cradle.grantPending = false) (j : s.cradle.state ≠ .turnGranted) :
    s.Interlocked where
  travel h := by simp [a] at h
  settle h := by simp [b] at h
  grant h := by simp [c] at h
  strobes _ := d
  captures := e
  raisePending h := by simp [f] at h
  pending := by simp [g, i]
  grantPending h := by simp [i] at h
  granted := by simp [g, j]

theorem test_witness_interlocked :
    (flying .normal 0 .between).Interlocked ∧ (book .halted).Interlocked ∧
    (delivering .pixels false [1]).Interlocked :=
  ⟨interlocked_of_quiet rfl rfl rfl rfl (fun _ => rfl) rfl rfl rfl (by decide +kernel),
   interlocked_of_quiet rfl rfl rfl rfl (fun h => absurd h (by decide +kernel)) rfl rfl rfl (by decide +kernel),
   interlocked_of_quiet rfl rfl rfl rfl (fun h => absurd h (by decide +kernel)) rfl rfl rfl (by decide +kernel)⟩

theorem test_witness_PartialResetHaltsAndDiscards :
    (withSlot .provisional (book .opened)).skippedNow = [] ∧
    ((withSlot .provisional (book .opened)).slot 0).state = .provisional ∧
    ((withSlot .kept (book .opened)).slot 0).state = .kept ∧
    (delivering .pixels false [1]).delivery.current = some (parcel .pixels false [1]) ∧
    (parcel .pixels false [1]).phase = .pixels ∧ (parcel .header false [1]).cancelled = false ∧
    (book .halted).cradle.state = .halted ∧ (book .halted).cradle.parityGood = true ∧
    (book .halted).delivery.current = none ∧ (∀ i, ((book .halted).slot i).state ≠ .provisional) ∧
    ∀ p, ((withSlot .kept (book .opened)).head p).phase ≠ .capturing := by
  refine ⟨?_, ?_, ?_, ?_, ?_, ?_, ?_, ?_, ?_, ?_, fun p => by cases p <;> decide +kernel⟩ <;> decide +kernel

/-- A held capture with another slot under delivery. -/
def heldAndSent : State :=
  let s := withSlot .provisional (book .opened)
  { s with
    slots := s.slots.set 1 { held .delivering with owner := some ⟨.zero, 4, .recto, 1⟩ }
    delivery := { s.delivery with current := some { parcel .pixels false [1] with slot := 1 } } }

theorem test_witness_PartialReset_clean :
    heldAndSent.Interlocked ∧ heldAndSent.Canonical ∧ heldAndSent.TableClean ∧
    heldAndSent.ownersClean (fun i => (heldAndSent.slot i).state == .provisional) ∧
    (heldAndSent.vol .zero).state ≠ .draining ∧ heldAndSent.skippedNow = [] ∧
    heldAndSent.initRunning = false ∧
    ∀ d, heldAndSent.delivery.current = some d → ((heldAndSent.slot d.slot).state == .provisional) = false := by
  refine ⟨interlocked_of_quiet rfl rfl rfl rfl (fun h => absurd h (by decide +kernel)) rfl rfl rfl
      (by decide +kernel), canonical_of_empty rfl rfl rfl, ⟨rfl, rfl, rfl⟩,
    ownersClean_of_first (by decide +kernel) (by decide +kernel) ⟨by decide +kernel, by decide +kernel⟩,
    by decide +kernel, rfl, rfl, fun d h => ?_⟩
  cases h
  decide +kernel

theorem test_witness_SettingsWriteTheirFields :
    (List.replicate 10 (1 : Word)).length = 10 ∧ arg (List.replicate 10 1) 0 = headPlace .right ∧
    (List.replicate 12 (0 : Word)).length = 12 ∧ arg (List.replicate 12 0) 0 = headPlace .left ∧
    2 ≤ (2 : Word).toNat ∧ (List.replicate 15 (0 : Word)).length = 15 := by decide +kernel

theorem test_witness_LightingArithmetic :
    (⟨0, 128⟩ : BankSetting).level = 0 ∧ (⟨1, 1⟩ : BankSetting).weight ≠ 0 ∧
    ({ Lighting.reset with settings := { LightingSettings.default with auto := ⟨false, true⟩ } }
      : Lighting).settings.auto.get .left = false ∧
    Lighting.reset.settings.auto.get .left = true ∧ 0 < 1 ∧
    Lighting.reset.settings.dMin ≤ Lighting.reset.settings.dMax := by decide +kernel

/-- A READY book passes the first five tests of EXPOSE. -/
theorem test_witness_ready : (book .ready).ExposureReady .zero where
  running := rfl
  idle := rfl
  active := rfl
  parity := rfl
  ready := rfl
  free := rfl
  certain := rfl

theorem test_witness_ExposeIsTested :
    (running .turning (book .ready)).run.state ≠ .idle ∧ (block .ready).active = none ∧
    (book .opened).cradle.state ≠ .ready ∧ (flying .normal 0 .between).inFlight = true ∧
    ((withVolume (fun v => { v with uncertain := true }) (book .ready)).vol .zero).uncertain = true ∧
    requestsOf 0 1 1 = [] ∧ requestsOf 3 1 1 = [(.left, 1), (.right, 1)] ∧
    (∀ r ∈ requestsOf 3 1 1, ((book .ready).leaf .zero (sideAt 0 r.1).leaf).errors = []) ∧
    (((book .ready).setFace .zero ⟨0, .verso⟩ { FaceRecord.fresh with skip := true }).face .zero
      (sideAt 0 .left)).skip = true ∧
    (((book .ready).setLeaf .zero 1 { LeafRecord.fresh .leaf with valid := false }).leaf .zero
      (sideAt 0 .right).leaf).valid = false ∧
    255 ≤ ((((book .ready).setFace .zero ⟨0, .verso⟩
      { FaceRecord.fresh with panels := [⟨1, 255, .none, none⟩] }).face .zero (sideAt 0 .left)).panel 1).generation
      ∧
    (∀ i, ((book .ready).slot i).availableFor [] = true) ∧
    doseRefused ((withVolume (fun v => { v with sideCeiling := 0 }) (book .ready)).vol .zero)
      [⟨.left, 0, (book .ready).light.settings.latch .left⟩] = true ∧
    doseRefused ((withVolume (fun v => { v with volumeCeiling := 1 }) (book .ready)).vol .zero)
      [⟨.left, 0, (book .ready).light.settings.latch .left⟩] = true := by decide +kernel
theorem test_witness_ExposeIsTested_full :
    allSlots.countP (fun i =>
      (({ book .ready with slots := Vector.replicate 8 (held .kept) } : State).slot i).availableFor []) < 1 := by
  decide +kernel

theorem test_witness_ExposeStartsAnExposure :
    let s := book .ready
    let k := (s.vol .zero).opening
    let rest := (requestsOf 3 1 1).filter fun r => !(s.face .zero (sideAt k r.1)).skip
    k ≤ 2046 ∧ rest ≠ [] ∧
    (∀ r ∈ requestsOf 3 1 1, ((s.leaf .zero (sideAt k r.1).leaf).valid = true ∧
      (s.leaf .zero (sideAt k r.1).leaf).errors = []) ∧ 1 ≤ r.2 ∧
      r.2 ≤ (s.face .zero (sideAt k r.1)).declared) ∧
    (∀ r ∈ rest, ((s.face .zero (sideAt k r.1)).panel r.2).generation < 255) ∧
    rest.length ≤ allSlots.countP (fun i => (s.slot i).availableFor (rest.map fun r => panelAt .zero k r.1 r.2)) ∧
    0 < (s.vol .zero).volumeCeiling ∧ 0 < (s.vol .zero).sideCeiling ∧
    (∀ r ∈ rest, (s.face .zero (sideAt k r.1)).dose + (s.light.settings.latch r.1).planned ≤
      (s.vol .zero).sideCeiling) ∧
    (s.vol .zero).dose + (rest.map fun r => (s.light.settings.latch r.1).planned).sum ≤
      (s.vol .zero).volumeCeiling := by decide +kernel

/-! ### Premises of the statements on captures and calibration -/

theorem test_witness_LinesAndSamples :
    ((book .ready).head .left).phase = .idle ∧
    (∀ k : CaptureKind, ((flying k 0 (.inLine 0)).head .left).phase = .capturing) ∧
    ((flying .normal 2 .between).head .left).port = .between ∧
    ((flying .normal 3 (.inLine 5)).head .left).capture = some (shot .normal 3) ∧ frame.correction.h ≤ 3 ∧
    ((flying .normal 2 (.inLine 101)).head .left).port = .inLine 101 ∧ 2 < frame.correction.h ∧
    101 ≠ 3 * (32 + frame.correction.w) ∧ 3 * (32 + frame.correction.w) < 102 + 1 ∧ 95 < 96 ∧ 96 ≤ 101 ∧
    101 < 3 * (32 + frame.correction.w) ∧ (shot .dark 0).kind = .dark ∧ (shot .flat 0).kind = .flat ∧
    ((flying .normal 0 (.inLine 96)).gainEntry (gainKey .left .r 0)).error = none ∧
    (({ flying .normal 0 (.inLine 96) with
        gain := Sparse.set GainEntry.unity [] (gainKey .left .r 0) ⟨16384, some .single⟩ } : State).gainEntry
      (gainKey .left .r 0)).error = some .single ∧
    (({ flying .normal 0 (.inLine 96) with
        gain := Sparse.set GainEntry.unity [] (gainKey .left .r 0) ⟨16384, some .uncorrectable⟩ } : State).gainEntry
      (gainKey .left .r 0)).error = some .uncorrectable := by
  refine ⟨rfl, fun k => by cases k <;> rfl, ?_⟩
  decide +kernel

theorem test_witness_CompleteLineIsStored :
    ((flying .normal 2 (.inLine 102)).head .left).phase = .capturing ∧
    ((flying .normal 2 (.inLine 102)).head .left).snapshot = some frame ∧ 2 < frame.correction.h ∧
    ((flying .normal 2 (.inLine 102)).head .left).port = .inLine (3 * (32 + frame.correction.w)) ∧
    (shot .normal 2).slot = some 0 ∧ (shot .dark 2).slot = none := by decide +kernel

/-- The end of an exposure finds the switches in agreement, whether nothing waits, pressure is lost, or a raise waits. -/
theorem test_witness_switchesAllowEnd :
    (flying .normal 3 .between).switchesAllowEnd ∧
    (withCradle (fun c => { c with pressure := false }) (flying .normal 3 .between)).switchesAllowEnd ∧
    (withCradle (fun c => { c with raisePending := true }) (flying .normal 3 .between)).switchesAllowEnd ∧
    (exposed (.aborted .timeout)).switchesAllowEnd := by
  unfold State.switchesAllowEnd
  decide +kernel

theorem test_witness_HeadErrors_frame :
    (flying .normal 2 .between).Canonical ∧
    (flying .normal 2 .between).ownersClean (fun i => (shot .normal 2).slot == some i) ∧
    ((book .ready).cradle.upSwitch = false ∧ (book .ready).cradle.downSwitch = true ∧
      (book .ready).run.state = .idle ∧ (book .ready).cradle.parityGood = true) :=
  ⟨canonical_of_empty rfl rfl rfl,
   ownersClean_of_first (by decide +kernel) rfl
     ⟨by decide +kernel, by decide +kernel⟩, by decide +kernel⟩

theorem test_witness_HeadErrorsAbortTheCapture :
    let s := flying .normal 2 .between
    (s.head .left).phase = .capturing ∧ (s.head .left).frameTimer.isSome = true ∧
    (s.head .right).phase = .idle ∧ (s.head .right).frameTimer = none ∧
    (s.head .left).capture = some (shot .normal 2) ∧ (s.head .left).snapshot = some frame ∧
    2 < frame.correction.h ∧ s.run.state = .idle ∧ s.cradle.parityGood = true ∧ s.cradle.state = .ready ∧
    s.cradle.raisePending = false ∧ s.cradle.pressure = true ∧ (s.slot 0).owner = some someone ∧
    (s.leaf .zero 3).valid = true ∧ (s.leaf .zero 3).errors = [] ∧ (s.vol .zero).state = .active := by
  decide +kernel

theorem test_witness_MeasurementAndRunningDark :
    1 ≤ Measurement.default.runLength ∧ lineEdges Measurement.default [0, 0, 0] = none ∧
    lineEdges Measurement.default [0, 6000, 6000, 6000, 0] = some (1, 3) ∧
    (finishRecord WorkRecord.cleared frame 0).blank = true ∧
    (finishRecord { WorkRecord.cleared with contentLines := 8, leastLeft := some 0, greatestRight := some 1,
                                            firstContent := some 0, lastContent := some 2 } frame 0).blank = false := by
  decide +kernel

theorem test_witness_FrameEndJudgesTheCapture :
    let s := flying .normal 3 .between
    (s.head .right).phase = .idle ∧ (s.head .left).phase = .capturing ∧
    (s.head .left).capture = some (shot .normal 3) ∧ (s.head .left).snapshot = some frame ∧
    (shot .normal 3).kind = .normal ∧ frame.correction.h ≤ 3 ∧ (shot .normal 3).slot = some 0 ∧
    (s.slot 0).owner = some someone ∧ (s.slot 0).state = .filling ∧ (s.leaf .zero 3).valid = true ∧
    (s.leaf .zero 3).errors = [] ∧ (s.vol .zero).state = .active ∧ s.run.state = .idle ∧
    (s.delivery.current = none ∧ s.delivery.queue = []) ∧ s.cradle.parityGood = true ∧ s.cradle.state = .ready ∧
    s.cradle.raisePending = false ∧ s.cradle.pressure = true ∧ someone.leaf ≤ 2047 ∧ s.skippedNow = [] ∧
    ((s.setLeaf .zero 3 { LeafRecord.fresh .leaf with valid := false }).leaf .zero 3).valid = false ∧
    (finishRecord (s.head .left).work frame 0).verdict = .keep ∧
    (finishRecord { WorkRecord.cleared with motion := true } frame 0).verdict = .hold := by decide +kernel

theorem test_witness_CalibrationCapturesStart :
    2 ≤ (2 : Word).toNat ∧ (1 : Word).toNat = headPlace .right ∧
    (running .turning (block .ready)).run.state ≠ .idle ∧ (book .ready).active ≠ none ∧
    ((block .ready).run.state = .idle ∧ (block .ready).active = none ∧
      (block .ready).cradle.parityGood = true ∧ (block .ready).cradle.state = .ready ∧
      (block .ready).inFlight = false) ∧
    (block .opened).cradle.state ≠ .ready ∧
    ({ flying .dark 0 .between with vols := State.reset.vols } : State).inFlight = true := by decide +kernel

theorem test_witness_CalibrationCapturesEnd :
    (∀ k : CaptureKind, k ≠ .normal →
      let s := { flying k 3 .between with vols := State.reset.vols }
      (s.head .left).phase = .capturing ∧ (s.head .left).capture = some (shot k 3) ∧
      (s.head .left).snapshot = some frame ∧ frame.correction.h ≤ 3 ∧ s.run.state = .idle ∧
      s.cradle.parityGood = true ∧ s.cradle.state = .ready ∧ s.cradle.raisePending = false ∧
      s.cradle.pressure = true) ∧
    ((flying .flat 3 .between).head .left).flatSums.length = 3 * frame.correction.w ∧
    frame.correction.w ≤ 6144 := by
  refine ⟨fun k _ => by cases k <;> decide +kernel, ?_⟩
  decide +kernel

theorem test_witness_GainTable :
    entriesFit 1 [7] = true ∧ entriesFit 256 (List.replicate 256 7) = true ∧ entriesFit 257 [] = true ∧
    1 < (2 : Word).toNat ∧ 2 < (3 : Word).toNat ∧ (0 : Word).toNat < 1 ∧ 256 < (257 : Word).toNat ∧
    6143 < (6143 : Word).toNat + 2 - 1 ∧ ¬(6143 < (6143 : Word).toNat + 1 - 1) ∧
    (1 : Word).toNat = headPlace .right ∧ (2 : Word).toNat = Channel.b.place ∧
    ((flying .dark 0 .between).head .left).phase = .capturing ∧ ((book .ready).head .right).phase = .idle := by
  decide +kernel

/-! ### Premises of the statements on runs and delivery -/

/-- The rescan list of one side. -/
def listed (s : State) : State := { s with rescan := [⟨3, .verso⟩] }

theorem test_witness_RunAndSeekTestsSeekAndStop :
    (running .turning (book .opened)).run.state ≠ .idle ∧ (block .opened).active = none ∧
    (book .halted).cradle.state = .halted ∧ (book .turnGranted).cradle.state = .turnGranted ∧
    (flying .normal 0 .between).inFlight = true ∧
    ((withVolume (fun v => { v with uncertain := true }) (book .opened)).vol .zero).uncertain = true ∧
    4095 < (4096 : Word).toNat ∧ (book .opened).rescan = [] ∧
    ((11 : Word) ≠ 0xFFFF ∧ ((book .opened).vol .zero).leaves < (11 : Word).toNat) ∧
    (listed (book .opened)).rescan.head?.map openingOf = some 3 ∧
    ((10 : Word).toNat = 10 ∧ 10 ≤ ((book .opened).vol .zero).leaves) ∧
    (withVolume (fun v => { v with opening := 3 }) undecided).heldAt .zero 3 = true ∧
    (book .opened).heldAt .zero 0 = false ∧ (running .slotWait (book .ready)).run.state = .slotWait ∧
    (turning .pending .forward 0 (running .seeking (book .raising))).turn.phase = .pending ∧
    (book .ready).run.stopRequested = false ∧
    ({ book .ready with run := { (book .ready).run with state := .turning, stopRequested := true } }
      : State).run.stopRequested = true ∧
    (running .turning (book .opened)).turn.phase = .none ∧
    (running .exposing (book .ready)).run.state = .exposing := by decide +kernel

/-- A book whose opening's two sides are skipped and settled. -/
def done (s : State) : State :=
  (s.setFace .zero ⟨0, .verso⟩ { FaceRecord.fresh with skip := true }).setFace .zero ⟨1, .recto⟩
    { FaceRecord.fresh with panels := [⟨1, 1, .kept stats, none⟩] }

theorem test_witness_RunTakesItsFirstStep_first :
    let s := book .opened
    (4095 : Word).toNat ≤ 4095 ∧ s.run.state = .idle ∧ s.active = some .zero ∧ s.cradle.parityGood = true ∧
    s.inFlight = false ∧ (s.vol .zero).uncertain = false ∧ s.cradle.state ≠ .halted ∧
    s.cradle.state ≠ .turnGranted ∧ ¬(s.cradle.state = .raising ∧ s.cradle.grantPending = true) ∧
    (withVolume (fun v => { v with opening := 3 }) undecided).heldAt .zero 3 = true ∧
    s.heldAt .zero 0 = false ∧ (s.leaf .zero 0).valid = true ∧ (s.leaf .zero 0).errors = [] ∧
    (s.leaf .zero 1).valid = true ∧ (s.leaf .zero 1).errors = [] ∧
    (s.face .zero (sideAt 0 .left)).skip = false ∧ (s.face .zero (sideAt 0 .left)).isSettled 1 = false ∧
    ((done s).face .zero (sideAt 0 .left)).skip = true ∧
    ((done s).face .zero (sideAt 0 .right)).isSettled 1 = true ∧ (s.vol .zero).opening < (s.vol .zero).leaves ∧
    1 < ((done s).setFace .zero ⟨0, .verso⟩ { FaceRecord.fresh with skip := true, declared := 2 } |>.face .zero
      (sideAt 0 .left)).declared ∧
    ((withVolume (fun v => { v with opening := 10 }) s).vol .zero).leaves ≤ 10 ∧
    s.cradle.downSwitch = false ∧ (book .settling).cradle.state = .settling ∧
    (book .ready).cradle.state = .ready := by decide +kernel
theorem test_witness_RunTakesItsFirstStep :
    (book .opened).TableClean ∧
    (damaged.leaf .zero (sideAt 3 .left).leaf).valid = false ∧
    ({ book .opened with run := { (book .opened).run with stopRequested := true } } : State).run.stopRequested = true ∧
    ((book .opened).cradle.state = .opened ∧ (book .opened).cradle.downSwitch = false) ∧
    ((book .settling).cradle.state ≠ .ready ∧ (book .settling).cradle.state ≠ .opened) ∧
    (running .preparing (withCradle (fun c => { c with settleTimer := some 300 })
      (book .settling))).cradle.settleTimer.isSome = true ∧
    ((running .preparing (book .settling)).cradle.upSwitch = false ∧
      (running .preparing (book .settling)).cradle.downSwitch = true) ∧
    ((running .preparing (book .raising)).cradle.state = .raising ∧
      (running .preparing (book .raising)).cradle.upSwitch = false ∧
      (running .preparing (book .raising)).cradle.grantPending = false) ∧
    ((exposed (.aborted .timeout)).run.state = .exposing ∧ (exposed (.aborted .timeout)).cradle.state = .ready ∧
      (exposed (.aborted .timeout)).run.slots.left = some 0 ∧
      (exposed (.aborted .timeout)).run.slots.right = none ∧
      ((exposed (.aborted .timeout)).head .left).capture = some { shot .normal 3 with outcome := .aborted .timeout }) ∧
    ((exposed (.ended (some .keep))).head .left).capture =
      some { shot .normal 3 with outcome := .ended (some .keep) } ∧
    (((flying .normal 3 .between).head .left).phase = .capturing ∧
      ((flying .normal 3 .between).head .right).phase = .idle ∧
      (flying .normal 3 .between).run.state ≠ .slotWait ∧ frame.correction.h ≤ 3) ∧
    (running .slotWait (book .ready)).run.state = .slotWait ∧
    ∃ a t, State.attemptExposure { book .ready with requests := 1 } [(.left, 1)] = (a, t) := by
  refine ⟨⟨rfl, rfl, rfl⟩, ?_, ?_, ?_, ?_, ?_, ?_, ?_, ?_, ?_, ?_, ?_, _, _, rfl⟩ <;> decide +kernel
/-- Both captures of a run's exposure aborted. -/
theorem test_witness_RunTakesItsFirstStep_both :
    let s := { exposed (.aborted .timeout) with
      run := { (exposed (.aborted .timeout)).run with slots := ⟨some 0, some 1⟩ }
      heads := (exposed (.aborted .timeout)).heads.set .right { (book .ready).heads.right with
        capture := some { shot .normal 0 with slot := some 1, outcome := .aborted .shortFrame } } }
    s.run.slots.get .right = some 1 ∧
    (s.head .right).capture = some { shot .normal 0 with slot := some 1, outcome := .aborted .shortFrame } := by
  decide +kernel

theorem test_witness_DeliverAndCancel :
    8 ≤ (8 : Word).toNat ∧ (7 : Word).toNat = (7 : SlotNo).val ∧ ((book .opened).slot 7).state ≠ .kept ∧
    ((withSlot .kept (book .opened)).slot 0).state = .kept ∧
    ((withSlot .kept (book .opened)).slot 0).queued = false ∧
    (({ book .opened with slots := (book .opened).slots.set 0 { held .kept with queued := true } } : State).slot
      0).queued = true ∧
    (delivering .header false [1]).delivery.current.isSome = true ∧
    ((withSlot .kept (book .opened)).delivery.current = none ∧
      (withSlot .kept (book .opened)).delivery.queue = [] ∧
      ((withSlot .kept (book .opened)).slot 0).owner = some someone ∧
      ((withSlot .kept (book .opened)).leaf .zero 3).valid = true ∧
      ((withSlot .kept (book .opened)).leaf .zero 3).errors = []) ∧
    (parcel .trailer false [1]).phase = .trailer ∧ (parcel .header true [1]).cancelled = true ∧
    (parcel .pixels false [1]).phase = .pixels ∧ (parcel .header false [1]).cancelled = false := by
  decide +kernel

theorem test_witness_PixelWordsAndTheirCrc :
    (delivering .pixels false []).delivery.current = some (parcel .pixels false []) ∧
    (({ delivering .pixels false [] with memoryErrors := [(0, .single), (1, .uncorrectable)] } :
      State).memoryErrors.map (·.1)).Nodup := by decide +kernel

theorem test_witness_ImagePortTakesWords :
    (delivering .header false [1]).run.state ≠ .slotWait ∧ (book .opened).delivery.current = none ∧
    (parcel .pixels false []).toTake = [] ∧ (parcel .header false [1, 2]).toTake = 1 :: [2] ∧
    ((parcel .header true [1]).toTake = 1 :: [] ∧ (parcel .header true [1]).cancelled = true) ∧
    (parcel .header false [1]).cancelled = false ∧ (parcel .trailer false [1]).phase = .trailer ∧
    (delivering .trailer false [1]).delivery.queue = [] ∧
    (¬(Format.w16.wordsPerLine 2 ≤ 1 + 1) ∧ Format.w16.wordsPerLine 2 ≤ 2 + 1 ∧
      (parcel .pixels false [1]).box.height ≤ 0 + 1) ∧
    (parcel .pixels false [1]).damaged = false ∧ (parcel .pixels false [1]).owner = someone ∧
    ((delivering .pixels false [1]).slot 0).owner = some someone ∧
    ((delivering .pixels false [1]).leaf .zero 3).valid = true ∧
    ((delivering .pixels false [1]).leaf .zero 3).errors = [] ∧
    ((delivering .pixels false [1]).vol .zero).state = .active ∧
    ((delivering .pixels false [1]).slot 0).generation =
      (((delivering .pixels false [1]).face .zero ⟨3, .verso⟩).panel 1).generation ∧
    (({ held .delivering with generation := 1 } : Slot)).generation ≠ 0 := by decide +kernel
/-- The last pixel word of a delivery of a DRAINING volume, a KEPT slot waiting behind it. -/
def lastWord (st : VolumeState) : State :=
  let s := withVolume (fun v => { v with state := st }) (delivering .pixels false [1])
  { s with
    slots := s.slots.set 1 (held .kept)
    delivery := { s.delivery with
      queue := [1], current := some { parcel .pixels false [1] with wordInLine := 2 } } }

theorem test_witness_ImagePort_ends :
    (lastWord .draining).TableClean ∧ (lastWord .draining).cleanLeaf .zero 3 ∧ someone.leaf ≤ 2047 ∧
    ((lastWord .draining).vol .zero).state = .draining ∧ ((lastWord .active).vol .zero).state = .active ∧
    ((lastWord .draining).slot 1).ownedBy .zero = true ∧
    (∀ j, j ≠ 0 → ((delivering .pixels false [1]).slot j).ownedBy .zero = false) ∧
    ((lastWord .active).skippedNow = [] ∧ (damaged.leaf .zero 3).valid = false ∧ damaged.skippedNow = []) ∧
    Format.w16.wordsPerLine 2 ≤ 2 + 1 ∧ ({ parcel .pixels false [1] with damaged := true } : Delivery).damaged = true ∧
    ((withFace { FaceRecord.fresh with panels := [⟨1, 0, .kept stats, none⟩] } (book .opened)).face .zero
      ⟨3, .verso⟩).panel 1 = ⟨1, 0, .kept stats, none⟩ ∧
    (lastWord .draining).delivery.queue = 1 :: [] ∧ ((lastWord .draining).slot 1).owner = some someone ∧
    (parcel .trailer false [1]).toTake = 1 :: [] := by
  refine ⟨⟨rfl, rfl, rfl⟩, ⟨by decide +kernel, by decide +kernel⟩, by decide, ?_⟩
  decide +kernel

/-- A damaged delivery's end: of a standing capture in a volume of either state, and under an invalid record. -/
theorem test_witness_ImagePort_damaged :
    (∀ st, (lastWord st).Canonical ∧ (lastWord st).TableClean ∧ (lastWord st).skippedNow = [] ∧
      ((lastWord st).slot 0).owner = some someone) ∧
    ((lastWord .draining).leaf .zero 3).valid = true ∧ ((lastWord .draining).leaf .zero 3).errors = [] ∧
    ((lastWord .draining).slot 0).generation = (((lastWord .draining).face .zero ⟨3, .verso⟩).panel 1).generation ∧
    (((lastWord .active).face .zero ⟨3, .verso⟩).skip = false ∧
      ((lastWord .active).face .zero ⟨3, .verso⟩).rescan = false ∧ ((lastWord .active).vol .zero).state = .active) :=
  ⟨fun _ => ⟨canonical_of_empty rfl rfl rfl, ⟨rfl, rfl, rfl⟩, rfl, rfl⟩, by decide +kernel, by decide +kernel,
    by decide +kernel, by decide +kernel⟩

/-! ### Premises of what every step keeps -/

theorem test_witness_invariants :
    ((book .ready).withQueue [.expose 3 1 1]).Canonical ∧
    ((book .ready).withQueue [.expose 3 1 1]).AccountInRange ∧
    ((book .ready).withQueue [.expose 3 1 1]).Interlocked ∧
    ∃ t, step ((book .ready).withQueue [.expose 3 1 1]) = .next t := by
  refine ⟨⟨by decide +kernel, by decide +kernel, by decide +kernel⟩, ⟨by decide +kernel, by decide +kernel,
    ⟨by decide +kernel, by decide +kernel, by decide +kernel, by decide +kernel⟩,
    ⟨by decide +kernel, by decide +kernel, by decide +kernel, by decide +kernel⟩, by decide +kernel, by decide +kernel⟩,
    interlocked_of_quiet rfl rfl rfl rfl (fun _ => rfl) rfl rfl rfl (by decide +kernel), _, rfl⟩
theorem test_witness_settingsInRange : ((book .ready).withQueue [.expose 3 1 1]).SettingsInRange where
  timers := ⟨by unfold Within; decide +kernel, by decide +kernel, by unfold Within; decide +kernel,
    by unfold Within; decide +kernel, by unfold Within; decide +kernel⟩
  light := ⟨fun b => by cases b <;> exact ⟨by decide +kernel, by decide +kernel⟩, by unfold Within; decide +kernel,
    by decide +kernel, by decide +kernel, by decide +kernel, by unfold Within; decide +kernel,
    by unfold Within; decide +kernel⟩
  left := ⟨⟨by unfold Within; decide +kernel, by decide +kernel, by unfold Within; decide +kernel,
      fun ch => by cases ch <;> decide +kernel, by decide +kernel, by decide +kernel, by decide +kernel⟩,
    ⟨by decide +kernel, by decide +kernel, by unfold Within; decide +kernel, by unfold Within; decide +kernel,
      by decide +kernel, by decide +kernel,
      by unfold Within; decide +kernel, by decide +kernel, by decide +kernel, by decide +kernel⟩⟩
  right := ⟨⟨by unfold Within; decide +kernel, by decide +kernel, by unfold Within; decide +kernel,
      fun ch => by cases ch <;> decide +kernel, by decide +kernel, by decide +kernel, by decide +kernel⟩,
    ⟨by decide +kernel, by decide +kernel, by unfold Within; decide +kernel, by unfold Within; decide +kernel,
      by decide +kernel, by decide +kernel,
      by unfold Within; decide +kernel, by decide +kernel, by decide +kernel, by decide +kernel⟩⟩

/-! ### Single steps -/

/-- The next state of a command, or the state itself. -/
def after (c : Instr) (s : State) : State :=
  match exec c s with
  | .next t => t
  | _ => s

theorem test_lower : (after .lower (block .opened)).cradle.state = .lowering ∧
    (after .lower (block .opened)).cradle.travelTimer = some 2000 := by decide +kernel
theorem test_raise : (after .raise (block .ready)).cradle.state = .raising := by decide +kernel
theorem test_raise_waits : (after .raise (flying .normal 0 .between)).cradle.raisePending = true := by decide +kernel
theorem test_turnRequest : (after (.turnRequest 0) (book .opened)).cradle.state = .turnGranted := by decide +kernel
theorem test_clear : ((after .clear (granted .forward 1)).vol .zero).opening = 1 ∧
    (after .clear (granted .forward 1)).cradle.state = .opened := by decide +kernel
theorem test_expose :
    let t := after (.expose 3 1 1) (book .ready)
    ((t.slot 0).state = .filling ∧ (t.slot 1).state = .filling ∧ t.inFlight = true ∧
      (t.vol .zero).dose = 5120000 ∧ t.links.station.response = [.status none, .data 3, .data 0, .data 1]) := by
  decide +kernel
theorem test_sample :
    (after (.sample .left 1000) (flying .normal 0 (.inLine 96))).heads.left.lineBuffer = [16000] := by
  decide +kernel
theorem test_frameEnd_early :
    (after (.frameEnd .left) (flying .normal 2 .between)).heads.left.flags.shortFrame = true := by decide +kernel
theorem test_deliver :
    ((after (.deliver 0) (withSlot .kept (book .opened))).slot 0).state = .delivering := by decide +kernel
theorem test_stopLine : (after .stopLineAsserted (book .ready)).cradle.state = .halted := by decide +kernel
theorem test_run : (after (.run 0) (book .opened)).run.state = .preparing ∧
    (after (.run 0) (book .opened)).cradle.state = .lowering := by decide +kernel
theorem test_markRescan : (after (.markRescan 3 1) (book .opened)).rescan = [⟨3, .verso⟩] := by decide +kernel
theorem test_initPassEnd : (after .initPassEnd State.reset).initRunning = false := by decide +kernel
theorem test_commandWord : (after (.commandWord .station 0x0052 (parityBit true 0x0052)) (book .ready)).links.station.rx
    = .collecting .expose [] := by decide +kernel
theorem test_decodeTableWord : decodeTableWord 16 0x0052 = none := by decide

end Sys2Proof.Tests
end

section
/-! SUPPORT. What a block sees when a command is handed to it on a table with no bit error: the link has taken
the words, and the account is as it was. Then SET CEILINGS (R15). -/
namespace Sys2Proof.Proofs
open Sys2Proof.Machine Sys2Proof.Laws

/-! ### The account while a command is taken (R188, R178) -/

@[simp] theorem taking_active (s : State) (link : MasterLink) (n : Nat) :
    (s.taking link n).active = s.active := rfl

theorem taking_tableClean {s : State} (hc : s.TableClean) (link : MasterLink) (n : Nat) :
    (s.taking link n).TableClean := ⟨hc.zero, hc.one, hc.rescan⟩

/-- On a clean table a command acts by its own meaning alone (R178, log 6). -/
theorem act_taking_of_clean {s : State} (hc : s.TableClean) (c : Cmd) (link : MasterLink) (ws : List Word) :
    c.act link ws (s.taking link ws.length) = c.perform link ws (s.taking link ws.length) := by
  rw [Cmd.act, readTable_of_clean (taking_tableClean hc link ws.length)]

/-- A block that answers and changes one volume record of a clean table: beside its link, that record alone is
written. -/
theorem handed_modVol_of_clean {s : State} {link : MasterLink} {c : Cmd} {ws : List Word} {r : Reply} {h : Handle}
    {f : Volume → Volume} (hc : s.TableClean)
    (ha : c.act link ws (s.taking link ws.length) = (r, (s.taking link ws.length).modVol h f)) :
    done (handed s link c ws) =
      .next { s.answered link ws.length r with vols := s.vols.set h (f (s.vol h)) } := by
  rw [handed_next ha, modVol_of_clean (vol_clean (taking_tableClean hc link ws.length) h)]
  cases link <;> rfl

/-! ### SET CEILINGS (R15) -/

/-- The larger of the volume ceiling received and the light the volume has received (R15). -/
def clampedVolumeCeiling (received : Nat) (v : Volume) : Nat := max received v.dose

/-- The smaller of the side ceiling received and the new volume ceiling, but no less than the highest side dose
(R15). -/
def clampedSideCeiling (receivedVolume receivedSide : Nat) (v : Volume) : Nat :=
  max (min receivedSide (clampedVolumeCeiling receivedVolume v)) v.highestSideDose

theorem setCeilings_of_noVolume {s : State} (ha : s.active = none) (vc sc : Nat) :
    setCeilings vc sc s = (.refused .noVolume, s) := by
  rw [setCeilings, ha]

theorem setCeilings_of_active {s : State} {h : Handle} (ha : s.active = some h) (vc sc : Nat) :
    setCeilings vc sc s =
      (.accepted (num48 (clampedVolumeCeiling vc (s.vol h)) ++ num32 (clampedSideCeiling vc sc (s.vol h))),
       s.modVol h fun v =>
        { v with
          volumeCeiling := clampedVolumeCeiling vc (s.vol h)
          sideCeiling := clampedSideCeiling vc sc (s.vol h) }) := by
  rw [setCeilings, ha]
  rfl

/-- SET CEILINGS is given the two values its five words spell (R15, R195). -/
theorem perform_setCeilings (vc : BitVec 48) (sc : BitVec 32) (link : MasterLink) (s : State) :
    Cmd.perform .setCeilings link (split48 vc ++ split32 sc) s = setCeilings vc.toNat sc.toNat s := by
  have hv : arg48 (split48 vc ++ split32 sc) 0 = vc.toNat := arg48_split48 vc
  have hd : arg32 (split48 vc ++ split32 sc) 3 = sc.toNat := arg32_split32 sc
  rw [Cmd.perform, hv, hd]

/-- SET CEILINGS, clocked whole on a clean table, acts by R15 on the state its words have come in to. -/
theorem act_setCeilings {s : State} (hc : s.TableClean) (vc : BitVec 48) (sc : BitVec 32) :
    Cmd.act .setCeilings .station (split48 vc ++ split32 sc) (s.taking .station 5) =
      setCeilings vc.toNat sc.toNat (s.taking .station 5) :=
  (act_taking_of_clean hc .setCeilings .station (split48 vc ++ split32 sc)).trans
    (perform_setCeilings vc sc .station _)

/-- The words of a SET CEILINGS row are handed to its block whole (R188). -/
theorem exec_setCeilings {s : State} (hi : s.initRunning = false) (vc : BitVec 48) (sc : BitVec 32) :
    exec (.setCeilings vc sc) s = done (handed s .station .setCeilings (split48 vc ++ split32 sc)) :=
  exec_action rfl rfl rfl (completes_of_arity (fun _ => rfl) rfl) hi

/-- Settles O15: a SET CEILINGS refused leaves the account alone, and one accepted writes both ceilings of the
ACTIVE volume, each clamped to the light received. -/
theorem setCeilingsClampsUpward : Obligations.SetCeilingsClampsUpward := by
  intro s vc sc hi hc
  rw [exec_setCeilings hi]
  refine ⟨fun hnone => ?refused, fun h hactive => ?accepted⟩
  case refused =>
    have hnone' : (s.taking .station 5).active = none := (taking_active s .station 5).trans hnone
    exact handed_answered ((act_setCeilings hc vc sc).trans (setCeilings_of_noVolume hnone' _ _))
  case accepted =>
    have hactive' : (s.taking .station 5).active = some h := (taking_active s .station 5).trans hactive
    exact handed_modVol_of_clean hc ((act_setCeilings hc vc sc).trans (setCeilings_of_active hactive' _ _))

end Sys2Proof.Proofs
end

section
/-! SUPPORT. SET OPENING (R78): each of its tests, and the pointer it sets. -/
namespace Sys2Proof.Proofs
open Sys2Proof.Machine Sys2Proof.Laws

/-! ### A run in progress (R153) -/

theorem runActive_of_idle {s : State} (hr : s.run.state = .idle) : s.runActive = false := by
  simp [State.runActive, hr]

theorem runActive_of_busy {s : State} (hr : s.run.state ≠ .idle) : s.runActive = true := decide_eq_true hr

/-! ### SET OPENING (R78) -/

/-- A word's number is sent back as the word itself (R195). -/
theorem num16_toNat (w : Word) : num16 w.toNat = [w] := by
  rw [num16, BitVec.ofNat_toNat, BitVec.setWidth_eq]

theorem setOpening_of_noVolume {s : State} (ha : s.active = none) (k : Nat) :
    setOpening k s = (.refused .noVolume, s) := by
  rw [setOpening, ha]

theorem setOpening_of_busy {s : State} {h : Handle} (ha : s.active = some h) (hr : s.run.state ≠ .idle) (k : Nat) :
    setOpening k s = (.refused .runActive, s) := by
  simp only [setOpening, ha, runActive_of_busy hr, if_true]

/-- A cradle that is OPEN or HALTED passes the test of the cradle state. -/
theorem not_moving {st : CradleState} (hs : st = .opened ∨ st = .halted) :
    ¬(st ≠ .opened ∧ st ≠ .halted) :=
  fun ⟨ho, hh⟩ => hs.elim ho hh

section PastRunAndParity
variable {s : State} {h : Handle} (ha : s.active = some h) (hr : s.run.state = .idle)
  (hp : s.cradle.parityGood = true)
include ha hr hp

theorem setOpening_of_moving (ho : s.cradle.state ≠ .opened) (hh : s.cradle.state ≠ .halted) (k : Nat) :
    setOpening k s = (.refused .cradleState, s) := by
  simp [setOpening, ha, runActive_of_idle hr, hp, ho, hh]

theorem setOpening_of_pastEnd (hs : s.cradle.state = .opened ∨ s.cradle.state = .halted) {k : Nat}
    (hk : (s.vol h).leaves < k) : setOpening k s = (.refused .badParam, s) := by
  simp only [setOpening, ha, runActive_of_idle hr, hp, if_neg (not_moving hs), if_pos hk, Bool.false_eq_true,
    Bool.true_eq_false, if_false]

theorem setOpening_of_within (hs : s.cradle.state = .opened ∨ s.cradle.state = .halted) {k : Nat}
    (hk : k ≤ (s.vol h).leaves) :
    setOpening k s =
      let t := s.modVol h fun v => { v with opening := k, uncertain := false }
      (.accepted (num16 k ++ [0]), if k = (s.vol h).opening then t else t.postStation .openingChanged) := by
  simp only [setOpening, ha, runActive_of_idle hr, hp, if_neg (not_moving hs), if_neg (Nat.not_lt_of_le hk),
    Bool.false_eq_true, Bool.true_eq_false, if_false]

end PastRunAndParity

/-- SET OPENING, clocked whole on a clean table, acts by R78 on the state its word has come in to. -/
theorem act_setOpening {s : State} (hc : s.TableClean) (w : Word) :
    Cmd.act .setOpening .station [w] (s.taking .station 1) = setOpening w.toNat (s.taking .station 1) :=
  act_taking_of_clean hc .setOpening .station [w]

theorem exec_setOpening {s : State} (hi : s.initRunning = false) (w : Word) :
    exec (.setOpening w) s = done (handed s .station .setOpening [w]) :=
  exec_action rfl rfl rfl (completes_of_arity (fun _ => rfl) rfl) hi

/-- A SET OPENING that its block carries out on a clean table writes the pointer and the flag of one record, and tells
the station when the pointer moves. -/
theorem handed_setOpening_of_within {s : State} (hc : s.TableClean) {h : Handle} {w : Word}
    (ha : setOpening w.toNat (s.taking .station 1) =
      let t := (s.taking .station 1).modVol h fun v => { v with opening := w.toNat, uncertain := false }
      (.accepted (num16 w.toNat ++ [0]), if w.toNat = (s.vol h).opening then t else t.postStation .openingChanged)) :
    let t : State :=
      { s.answered .station 1 (.accepted [w, 0]) with
        vols := s.vols.set h { s.vol h with opening := w.toNat, uncertain := false } }
    done (handed s .station .setOpening [w]) =
      .next (if w.toNat = (s.vol h).opening then t else t.postStation .openingChanged) := by
  rw [handed_next ((act_setOpening hc w).trans ha), num16_toNat,
    modVol_of_clean (vol_clean (taking_tableClean hc .station 1) h)]
  split <;> rfl

/-- Settles O17: each test refuses in its turn, and a SET OPENING that passes them writes the pointer and the flag of
the ACTIVE volume, telling the station when the pointer moves. -/
theorem setOpeningMovesThePointer : Obligations.SetOpeningMovesThePointer := by
  intro s w hi hc hp
  have refused {r : Reason} (ha : setOpening w.toNat (s.taking .station 1) = (.refused r, s.taking .station 1)) :
      done (handed s .station .setOpening [w]) = .next (s.answered .station 1 (.refused r)) :=
    handed_answered ((act_setOpening hc w).trans ha)
  rw [exec_setOpening hi]
  refine ⟨fun hnone => refused (setOpening_of_noVolume (s := s.taking .station 1) hnone _), fun h hactive =>
    ⟨fun hbusy => ?runActive, fun hidle hopen hhalted => ?cradleState, fun hidle hstill =>
      ⟨fun hpast => ?badParam, fun hwithin => ?accepted⟩⟩⟩
  case runActive => exact refused (setOpening_of_busy (s := s.taking .station 1) hactive hbusy _)
  case cradleState => exact refused (setOpening_of_moving (s := s.taking .station 1) hactive hidle hp hopen hhalted _)
  case badParam => exact refused (setOpening_of_pastEnd (s := s.taking .station 1) hactive hidle hp hstill hpast)
  case accepted =>
    exact handed_setOpening_of_within hc
      (setOpening_of_within (s := s.taking .station 1) hactive hidle hp hstill hwithin)

end Sys2Proof.Proofs
end

section
/-! SUPPORT. The turner's reports (R66 to R68, R73): PICKED, SWEPT, CLEAR and ABORTED, in a grant and outside it. -/
namespace Sys2Proof.Proofs
open Sys2Proof.Machine Sys2Proof.Laws

/-! ### The rows of the reports (R188) -/

theorem exec_picked {s : State} (hi : s.initRunning = false) (w : Word) :
    exec (.picked w) s = done (handed s .turner .picked [w]) :=
  exec_action rfl rfl rfl (completes_of_arity (fun _ => rfl) rfl) hi

theorem exec_swept {s : State} (hi : s.initRunning = false) :
    exec .swept s = done (handed s .turner .swept []) :=
  exec_action rfl rfl rfl (completes_of_arity (fun _ => rfl) rfl) hi

theorem exec_clear {s : State} (hi : s.initRunning = false) :
    exec .clear s = done (handed s .turner .clear []) :=
  exec_action rfl rfl rfl (completes_of_arity (fun _ => rfl) rfl) hi

theorem exec_aborted {s : State} (hi : s.initRunning = false) :
    exec .aborted s = done (handed s .turner .aborted []) :=
  exec_action rfl rfl rfl (completes_of_arity (fun _ => rfl) rfl) hi

theorem act_picked {s : State} (hc : s.TableClean) (w : Word) :
    Cmd.act .picked .turner [w] (s.taking .turner 1) = picked w.toNat (s.taking .turner 1) :=
  act_taking_of_clean hc .picked .turner [w]

theorem act_swept {s : State} (hc : s.TableClean) :
    Cmd.act .swept .turner [] (s.taking .turner 0) = swept (s.taking .turner 0) :=
  act_taking_of_clean hc .swept .turner []

theorem act_clear {s : State} (hc : s.TableClean) :
    Cmd.act .clear .turner [] (s.taking .turner 0) = clear (s.taking .turner 0) :=
  act_taking_of_clean hc .clear .turner []

theorem act_aborted {s : State} (hc : s.TableClean) :
    Cmd.act .aborted .turner [] (s.taking .turner 0) = aborted (s.taking .turner 0) :=
  act_taking_of_clean hc .aborted .turner []

/-! ### Reports outside a grant (R68) -/

/-- The state after a report of n parameter words that came in LATE: the refusal and the flag on the turner link, and
nothing else (R68). -/
def lateAnswered (s : State) (n : Nat) : State :=
  { s with
    links := ⟨s.links.station,
      { (s.links.turner.taking n).answer (.refused .late) with
        flags := { s.links.turner.brokenFlags with late := true } }⟩
    skippedNow := [] }

/-- A block that answers LATE comes to `lateAnswered`, whichever report it was given. -/
theorem handed_lateReport {s : State} {c : Cmd} {ws : List Word}
    (ha : c.act .turner ws (s.taking .turner ws.length) = lateReport (s.taking .turner ws.length)) :
    done (handed s .turner c ws) = .next (lateAnswered s ws.length) :=
  handed_next ha

theorem picked_late {s : State} (hg : s.turn.phase ≠ .granted) {n : Nat} (hn : n ≤ 2) :
    picked n s = lateReport s := by
  rw [picked, if_neg (Nat.not_lt_of_le hn), if_pos hg]

theorem swept_late {s : State} (hg : s.turn.phase ≠ .granted) : swept s = lateReport s := by
  rw [swept, if_pos hg]

theorem clear_late {s : State} (hg : s.turn.phase ≠ .granted) : clear s = lateReport s := by
  rw [clear, if_pos hg]

theorem aborted_late {s : State} (hg : s.turn.phase ≠ .granted) : aborted s = lateReport s := by
  rw [aborted, if_pos hg]

/-! ### PICKED and SWEPT in a grant (R66, R67) -/

theorem picked_of_above (s : State) {n : Nat} (hn : 2 < n) : picked n s = (.refused .badParam, s) := by
  rw [picked, if_pos hn]

theorem picked_of_granted {s : State} (hg : s.turn.phase = .granted) {n : Nat} (hn : n ≤ 2) :
    picked n s = (.accepted [], { s with turn := { s.turn with picked := some n } }) := by
  rw [picked, if_neg (Nat.not_lt_of_le hn), if_neg (not_not_intro hg)]

theorem swept_of_granted {s : State} (hg : s.turn.phase = .granted) :
    swept s = (.accepted [], { s with turn := { s.turn with swept := true } }) := by
  rw [swept, if_neg (not_not_intro hg)]

/-! ### The end of a grant (R56, R73) -/

/-- The cradle OPEN again, with the phase the turn ended in (R56, R69, R73). -/
def grantEnded (s : State) (p : TurnPhase) : State :=
  State.enter { s with turn := { s.turn with phase := p } } .opened

@[simp] theorem grantEnded_active (s : State) (p : TurnPhase) : (grantEnded s p).active = s.active := rfl

@[simp] theorem grantEnded_vol (s : State) (p : TurnPhase) (h : Handle) : (grantEnded s p).vol h = s.vol h := rfl

@[simp] theorem grantEnded_run (s : State) (p : TurnPhase) : (grantEnded s p).run = s.run := rfl

/-- Where the switches agree with OPEN, the end of a grant enters it (R57). -/
theorem endGrant_of_raised {s : State} (hu : s.cradle.upSwitch = true) (hd : s.cradle.downSwitch = false)
    (p : TurnPhase) : s.endGrant p = grantEnded s p := by
  simp [State.endGrant, State.enterChecked, grantEnded, State.enter, switchesAgree, hu, hd]

/-- A turn that no run asked for leaves the run controller alone (R161, R162). -/
theorem turnEnded_of_unwanted {s : State} (hr : s.run.state = .idle ∨ s.run.wanted = none) (doubted : Bool) :
    s.turnEnded doubted = s := by
  have unwanted : ¬((s.runActive && s.run.wanted.isSome) = true) := by
    rcases hr with hidle | hnone
    · simp [runActive_of_idle hidle]
    · simp [hnone]
  rw [State.turnEnded, if_neg unwanted]

/-- A change of the counters of a record without a single error. -/
theorem count_of_clean {s : State} {h : Handle} (hc : (s.vol h).errors.single = 0)
    (f : VolumeCounters → VolumeCounters) :
    s.count h f = { s with vols := s.vols.set h { s.vol h with counters := f (s.vol h).counters } } :=
  modVol_of_clean hc _

section AbortedInAGrant
variable {s : State} (hg : s.turn.phase = .granted) (hp : s.cradle.parityGood = true)
  (hu : s.cradle.upSwitch = true) (hd : s.cradle.downSwitch = false)
  (hr : s.run.state = .idle ∨ s.run.wanted = none)
include hg hp hu hd hr

theorem aborted_of_noVolume (ha : s.active = none) : aborted s = (.accepted [], grantEnded s .aborted) := by
  simp only [aborted, hg, hp, endGrant_of_raised hu hd, grantEnded_active, ha, ne_eq, not_true_eq_false,
    Bool.true_eq_false, if_false]
  rw [turnEnded_of_unwanted (by simpa using hr)]

theorem aborted_of_active {h : Handle} (ha : s.active = some h) (hv : (s.vol h).errors.single = 0) :
    aborted s = (.accepted [],
      { grantEnded s .aborted with
        vols := s.vols.set h { s.vol h with
          counters := { (s.vol h).counters with misfires := (s.vol h).counters.misfires + 1 } } }) := by
  simp only [aborted, hg, hp, endGrant_of_raised hu hd, grantEnded_active, ha, ne_eq, not_true_eq_false,
    Bool.true_eq_false, if_false]
  rw [turnEnded_of_unwanted (by simpa using hr), count_of_clean (s := grantEnded s .aborted) hv]
  rfl

end AbortedInAGrant

/-! ### The obligation -/

/-- Settles O33: PICKED and SWEPT by the phase of the turn, each report outside a grant by the one LATE answer, and
ABORTED by the end of its grant. -/
theorem reportsDuringAGrant : Obligations.ReportsDuringAGrant := by
  refine ⟨fun s w hi hc => ?reports, fun s hi hc hp hg hu hd hr => ?aborted⟩
  case reports =>
    rw [exec_picked hi, exec_swept hi, exec_clear hi, exec_aborted hi]
    refine ⟨fun habove => ?above, fun hcount hgrant => ?picked, fun hgrant => ?swept,
      fun hlate => ⟨fun hcount => ?pickedLate, ?sweptLate, ?clearLate, ?abortedLate⟩⟩
    case above => exact handed_answered ((act_picked hc w).trans (picked_of_above _ habove))
    case picked =>
      exact handed_next ((act_picked hc w).trans (picked_of_granted (s := s.taking .turner 1) hgrant hcount))
    case swept => exact handed_next ((act_swept hc).trans (swept_of_granted (s := s.taking .turner 0) hgrant))
    case pickedLate =>
      exact handed_lateReport ((act_picked hc w).trans (picked_late (s := s.taking .turner 1) hlate hcount))
    case sweptLate => exact handed_lateReport ((act_swept hc).trans (swept_late (s := s.taking .turner 0) hlate))
    case clearLate => exact handed_lateReport ((act_clear hc).trans (clear_late (s := s.taking .turner 0) hlate))
    case abortedLate => exact handed_lateReport ((act_aborted hc).trans (aborted_late (s := s.taking .turner 0) hlate))
  case aborted =>
    rw [exec_aborted hi]
    refine ⟨fun hnone => ?noVolume, fun h hactive => ?active⟩
    case noVolume =>
      exact handed_next ((act_aborted hc).trans
        (aborted_of_noVolume (s := s.taking .turner 0) hg hp hu hd hr hnone))
    case active =>
      exact handed_next ((act_aborted hc).trans
        (aborted_of_active (s := s.taking .turner 0) hg hp hu hd hr hactive (vol_clean hc h)))

end Sys2Proof.Proofs
end

section
/-! SUPPORT. CLEAR COUNTERS (R33, R100, R121, R136, R169) and CLEAR FAULTS (R186): what each clears, and that a
command which reads no account memory acts by its block's rule alone. -/
namespace Sys2Proof.Proofs
open Sys2Proof.Machine Sys2Proof.Laws

/-! ### What the two commands clear -/

/-- A state with every count and flag cleared that CLEAR COUNTERS names (R33, R100, R121, R136, R169). -/
def countersCleared (s : State) : State :=
  { s with
    requests := 0, full := false, overlap := false
    heads := ⟨s.heads.left.clearCounters, s.heads.right.clearCounters⟩
    light := { s.light with holds := ⟨0, 0⟩ }
    delivery := { s.delivery with emptyDeliver := false } }

/-- CLEAR COUNTERS is accepted in every state, with no result word. -/
theorem clearCounters_eq (s : State) : clearCounters s = (.accepted [], countersCleared s) := rfl

/-- CLEAR FAULTS is accepted in every state, with result word 0 (R186). -/
theorem clearFaults_eq (s : State) :
    clearFaults s = (.accepted [0], { s with faults := FaultReport.reset }) := rfl

/-- An empty fault report counts no fault of any class (R186). -/
theorem faultReport_reset_counts (c : FaultClass) : FaultReport.reset.counts[c.place] = 0 :=
  Vector.getElem_replicate c.place.isLt

/-! ### The two rows (R188, R178) -/

/-- A command that reads neither a volume record nor the rescan list acts by its own meaning in every state, with or
without bit errors in them (R178, log 6). -/
theorem act_of_reads_none {c : Cmd} {link : MasterLink} {ws : List Word} {s : State}
    (hv : c.volumesRead ws s = []) (hr : c.readsRescan = false) : c.act link ws s = c.perform link ws s := by
  rw [Cmd.act, readTable_none hv hr]

theorem exec_clearCounters {s : State} (hi : s.initRunning = false) :
    exec .clearCounters s = done (handed s .station .clearCounters []) :=
  exec_action rfl rfl rfl (completes_of_arity (fun _ => rfl) rfl) hi

theorem exec_clearFaults {s : State} (hi : s.initRunning = false) :
    exec .clearFaults s = done (handed s .station .clearFaults []) :=
  exec_action rfl rfl rfl (completes_of_arity (fun _ => rfl) rfl) hi

theorem act_clearCounters (s : State) :
    Cmd.act .clearCounters .station [] s = (.accepted [], countersCleared s) :=
  (act_of_reads_none rfl rfl).trans (clearCounters_eq s)

theorem act_clearFaults (s : State) :
    Cmd.act .clearFaults .station [] s = (.accepted [0], { s with faults := FaultReport.reset }) :=
  (act_of_reads_none rfl rfl).trans (clearFaults_eq s)

/-- CLEAR COUNTERS, clocked whole: beside the answer on the station link, the counters alone are written. -/
theorem exec_clearCounters_eq {s : State} (hi : s.initRunning = false) :
    exec .clearCounters s = .next (countersCleared (s.answered .station 0 (.accepted []))) :=
  (exec_clearCounters hi).trans (handed_next (act_clearCounters _))

/-- CLEAR FAULTS, clocked whole: beside the answer on the station link, the fault report alone is written. -/
theorem exec_clearFaults_eq {s : State} (hi : s.initRunning = false) :
    exec .clearFaults s = .next { s.answered .station 0 (.accepted [0]) with faults := FaultReport.reset } :=
  (exec_clearFaults hi).trans (handed_next (act_clearFaults _))

/-- Settles O38: each of the two commands answers and writes what it clears, and the empty fault report holds no
record and no count. -/
theorem countersAndFaultsAreCleared : Obligations.CountersAndFaultsAreCleared := by
  intro s hi
  refine ⟨?counters, _, exec_clearFaults_eq hi, ?record, ?counts, ?skipped, ?frame⟩
  case counters => exact exec_clearCounters_eq hi
  case record => rfl
  case counts => exact faultReport_reset_counts
  case skipped => rfl
  case frame => rfl

end Sys2Proof.Proofs
end

section
/-! SUPPORT. A line's edges as the outer ends of its outermost bright runs (R143): the scan of `edgesFrom` keeps, column
by column, the outermost runs of the columns behind it. -/
namespace Sys2Proof.Proofs
open Sys2Proof.Machine

/-! ### Runs of bright columns (R143) -/

/-- Columns x to x + k - 1 of a line are bright. -/
def BrightRun (threshold : Nat) (grays : List Nat) (x k : Nat) : Prop :=
  ∀ j < k, threshold ≤ grays.getD (x + j) 0

/-- A bright run of a given length starts at column x and ends within the first n columns. -/
def RunWithin (threshold runLength : Nat) (grays : List Nat) (n x : Nat) : Prop :=
  x + runLength ≤ n ∧ BrightRun threshold grays x runLength

/-- The longest bright run that ends the first n columns is of length `run`. -/
def TrailingRun (threshold : Nat) (grays : List Nat) (n run : Nat) : Prop :=
  ∀ k, k ≤ run ↔ k ≤ n ∧ BrightRun threshold grays (n - k) k

/-- The outer ends of the outermost of the runs that start where `starts` says; none when there is no run. -/
def OuterEnds (runLength : Nat) (starts : Nat → Prop) : Option (Nat × Nat) → Prop
  | none => ∀ x, ¬starts x
  | some (l, r) => starts l ∧ (∀ x, starts x → l ≤ x) ∧ runLength ≤ r + 1 ∧ starts (r + 1 - runLength) ∧
      ∀ x, starts x → x + runLength ≤ r + 1

/-- The edges once a run of the given length ends at column n, with the edges found before it. -/
def widenedTo (runLength n : Nat) : Option (Nat × Nat) → Nat × Nat
  | none => (n + 1 - runLength, n)
  | some (l, _) => (l, n)

section Scan
variable {threshold runLength n run : Nat} {grays : List Nat} {e : Option (Nat × Nat)}

theorem brightRun_zero (x : Nat) : BrightRun threshold grays x 0 := fun j hj => absurd hj (Nat.not_lt_zero j)

theorem brightRun_succ {x k : Nat} :
    BrightRun threshold grays x (k + 1) ↔ BrightRun threshold grays x k ∧ threshold ≤ grays.getD (x + k) 0 :=
  Nat.forall_lt_succ_right

theorem trailingRun_zero : TrailingRun threshold grays 0 0 := by
  intro k
  refine ⟨fun hk => ⟨hk, ?_⟩, And.left⟩
  obtain rfl := Nat.le_zero.1 hk
  exact brightRun_zero _

/-- A bright column lengthens the run behind it by one; any other ends it. -/
theorem trailingRun_succ (ht : TrailingRun threshold grays n run) :
    TrailingRun threshold grays (n + 1) (if threshold ≤ grays.getD n 0 then run + 1 else 0) := by
  intro k
  cases k with
  | zero => exact iff_of_true (Nat.zero_le _) ⟨Nat.zero_le _, brightRun_zero _⟩
  | succ k =>
    have column (hk : k ≤ n) : BrightRun threshold grays (n - k) (k + 1) ↔
        BrightRun threshold grays (n - k) k ∧ threshold ≤ grays.getD n 0 := by
      rw [brightRun_succ, Nat.sub_add_cancel hk]
    rw [Nat.add_sub_add_right, Nat.add_le_add_iff_right]
    split
    next hbright =>
      rw [Nat.add_le_add_iff_right, ht k]
      exact and_congr_right fun hk => by simp only [column hk, hbright, and_true]
    next hdark =>
      exact iff_of_false (Nat.not_succ_le_zero k) fun ⟨hk, hrun⟩ => hdark ((column hk).1 hrun).2

/-- One column more lets in at most one run: the one that ends there. -/
theorem runWithin_succ (ht : TrailingRun threshold grays (n + 1) run) {x : Nat} :
    RunWithin threshold runLength grays (n + 1) x ↔
      RunWithin threshold runLength grays n x ∨ x + runLength = n + 1 ∧ runLength ≤ run := by
  have hends (hx : x + runLength = n + 1) : runLength ≤ run ↔ BrightRun threshold grays x runLength := by
    rw [ht runLength, ← hx, Nat.add_sub_cancel, and_iff_right (Nat.le_add_left _ _)]
  constructor
  · rintro ⟨hle, hrun⟩
    obtain hlt | heq := Nat.lt_or_eq_of_le hle
    · exact .inl ⟨Nat.le_of_lt_succ hlt, hrun⟩
    · exact .inr ⟨heq, (hends heq).2 hrun⟩
  · rintro (⟨hle, hrun⟩ | ⟨heq, hlen⟩)
    · exact ⟨Nat.le_succ_of_le hle, hrun⟩
    · exact ⟨Nat.le_of_eq heq, (hends heq).1 hlen⟩

/-! ### The scan keeps the outermost runs -/

/-- When the run behind a column is too short, the column changes no run. -/
theorem outerEnds_of_short (ht : TrailingRun threshold grays (n + 1) run) (hshort : ¬runLength ≤ run)
    (he : OuterEnds runLength (RunWithin threshold runLength grays n) e) :
    OuterEnds runLength (RunWithin threshold runLength grays (n + 1)) e := by
  have hsame : RunWithin threshold runLength grays (n + 1) = RunWithin threshold runLength grays n :=
    funext fun x => propext ((runWithin_succ ht).trans (or_iff_left fun h => hshort h.2))
  rwa [hsame]

/-- When the run behind a column is long enough, the column is the right edge; a left edge found before stays. -/
theorem outerEnds_of_long (ht : TrailingRun threshold grays (n + 1) run) (hlong : runLength ≤ run)
    (he : OuterEnds runLength (RunWithin threshold runLength grays n) e) :
    OuterEnds runLength (RunWithin threshold runLength grays (n + 1)) (some (widenedTo runLength n e)) := by
  have hfit : runLength ≤ n + 1 := ((ht runLength).1 hlong).1
  have hlast : RunWithin threshold runLength grays (n + 1) (n + 1 - runLength) :=
    (runWithin_succ ht).2 (.inr ⟨Nat.sub_add_cancel hfit, hlong⟩)
  cases e with
  | none =>
    refine ⟨hlast, fun x hx => ?_, hfit, hlast, fun x hx => hx.1⟩
    obtain hold | ⟨hnew, -⟩ := (runWithin_succ ht).1 hx
    · exact absurd hold (he x)
    · omega
  | some lr =>
    obtain ⟨hfirst, hleast, -⟩ := he
    refine ⟨(runWithin_succ ht).2 (.inl hfirst), fun x hx => ?_, hfit, hlast, fun x hx => hx.1⟩
    obtain hold | ⟨hnew, -⟩ := (runWithin_succ ht).1 hx
    · exact hleast x hold
    · have := hfirst.1
      omega

theorem edgesFrom_cons (g : Nat) (gs : List Nat) :
    edgesFrom threshold runLength (g :: gs) n run e =
      edgesFrom threshold runLength gs (n + 1) (if threshold ≤ g then run + 1 else 0)
        (if runLength ≤ (if threshold ≤ g then run + 1 else 0) then some (widenedTo runLength n e) else e) := by
  cases e <;> rfl

/-- A scan that has come past the columns `pre` with their outermost runs comes to the line's end with the line's. -/
theorem edgesFrom_outerEnds {pre gs : List Nat} (hline : pre ++ gs = grays)
    (ht : TrailingRun threshold grays pre.length run)
    (he : OuterEnds runLength (RunWithin threshold runLength grays pre.length) e) :
    OuterEnds runLength (RunWithin threshold runLength grays grays.length)
      (edgesFrom threshold runLength gs pre.length run e) := by
  induction gs generalizing pre run e with
  | nil =>
    rw [List.append_nil] at hline
    exact hline ▸ he
  | cons g gs ih =>
    have hcolumn : grays.getD pre.length 0 = g := by
      simp only [← hline, List.getD_eq_getElem?_getD, Option.getD_some,
        List.getElem?_append_right (Nat.le_refl _), Nat.sub_self, List.getElem?_cons_zero]
    have hpast : (pre ++ [g]).length = pre.length + 1 := List.length_append
    have ht' := trailingRun_succ ht
    rw [hcolumn] at ht'
    rw [edgesFrom_cons, ← hpast]
    generalize (if threshold ≤ g then run + 1 else 0) = behind at ht' ⊢
    refine ih ((List.append_assoc pre [g] gs).trans hline) (hpast ▸ ht') (hpast ▸ ?_)
    split
    next hlong => exact outerEnds_of_long ht' hlong he
    next hshort => exact outerEnds_of_short ht' hshort he

end Scan

/-! ### The edges of a line (R143) -/

/-- The runs of a length that start where `starts` says have one pair of outer ends at most. -/
theorem outerEnds_unique {runLength : Nat} {starts : Nat → Prop} {e e' : Option (Nat × Nat)}
    (he : OuterEnds runLength starts e) (he' : OuterEnds runLength starts e') : e = e' := by
  match e, e', he, he' with
  | none, none, _, _ => rfl
  | none, some (l, _), hnone, ⟨hfirst, _⟩ => exact absurd hfirst (hnone l)
  | some (l, _), none, ⟨hfirst, _⟩, hnone => exact absurd hfirst (hnone l)
  | some (l, r), some (l', r'), ⟨hfirst, hleast, hfit, hlast, hgreatest⟩,
      ⟨hfirst', hleast', hfit', hlast', hgreatest'⟩ =>
    have hl : l = l' := Nat.le_antisymm (hleast _ hfirst') (hleast' _ hfirst)
    have hr : r = r' := by
      have := hgreatest _ hlast'
      have := hgreatest' _ hlast
      omega
    rw [hl, hr]

/-- The edges of a line are the outer ends of its outermost bright runs (R143). -/
theorem lineEdges_eq_iff {m : Measurement} (hlen : 1 ≤ m.runLength) (grays : List Nat) (e : Option (Nat × Nat)) :
    lineEdges m grays = e ↔
      OuterEnds m.runLength (RunWithin m.threshold m.runLength grays grays.length) e := by
  have hempty (x : Nat) : ¬RunWithin m.threshold m.runLength grays 0 x := fun ⟨hfit, _⟩ => by omega
  have hscan : OuterEnds m.runLength (RunWithin m.threshold m.runLength grays grays.length) (lineEdges m grays) :=
    edgesFrom_outerEnds (pre := []) rfl trailingRun_zero hempty
  exact ⟨fun h => h ▸ hscan, outerEnds_unique hscan⟩

end Sys2Proof.Proofs
end

section
/-! SUPPORT. The measurement of a line (R139, R142, R144), the end of a measurement (R142 to R150) and the running dark
update (R126). -/
namespace Sys2Proof.Proofs
open Sys2Proof.Machine Sys2Proof.Laws

/-! ### A line taken into the working record (R139, R142, R144) -/

/-- The first columns of a line sum to their gray values, a column past its end counting 0. -/
theorem sum_take_eq (grays : List Nat) (n : Nat) :
    (grays.take n).sum = ((List.range n).map fun x => grays.getD x 0).sum := by
  induction n generalizing grays with
  | zero => rfl
  | succ n ih =>
    rw [List.range_succ_eq_map, List.map_cons, List.map_map, List.sum_cons]
    cases grays with
    | nil => exact (congrArg List.sum List.take_nil.symm).trans ((ih []).trans (Nat.zero_add _).symm)
    | cons g gs =>
      rw [List.take_succ_cons, List.sum_cons, ih gs]
      rfl

theorem windowSum_eq (window : Box) (grays : List Nat) :
    windowSum window grays = ((List.range window.width).map fun x => grays.getD (window.left + x) 0).sum := by
  simp only [windowSum, sum_take_eq, List.getD_eq_getElem?_getD, List.getElem?_drop]

/-- What a complete line adds to the working record, whether or not it holds content (R139, R142). -/
def metered (w : WorkRecord) (l : Nat) (grays : List Nat) : WorkRecord :=
  { w with
    linesMeasured := w.linesMeasured + 1
    sum := w.sum + if w.window.top ≤ l ∧ l < w.window.top + w.window.height then
      ((List.range w.window.width).map fun x => grays.getD (w.window.left + x) 0).sum else 0 }

theorem sum_of_measure (w : WorkRecord) (l : Nat) (grays : List Nat) :
    (if decide (w.window.top ≤ l) && decide (l < w.window.top + w.window.height)
      then w.sum + windowSum w.window grays else w.sum) = (metered w l grays).sum := by
  simp only [metered, ← windowSum_eq, ← Bool.decide_and, decide_eq_true_eq]
  split <;> rfl

theorem measure_of_noEdges {w : WorkRecord} {m : Measurement} {l : Nat} {grays : List Nat}
    (h : lineEdges m grays = none) : w.measure m l grays = metered w l grays := by
  simp only [WorkRecord.measure, h, sum_of_measure]
  rfl

theorem measure_of_edges {w : WorkRecord} {m : Measurement} {l : Nat} {grays : List Nat} {e : Nat × Nat}
    (h : lineEdges m grays = some e) : w.measure m l grays = (metered w l grays).content l e := by
  simp only [WorkRecord.measure, h, sum_of_measure]
  rfl

/-! ### The end of a measurement (R142 to R150) -/

section Finished
variable (w : WorkRecord) (snap : Snapshot) (clips : Nat)

theorem finishRecord_blank_iff : (finishRecord w snap clips).blank = true ↔
    w.contentLines = 0 ∨ w.contentLines < snap.measurement.blankMinimum := by
  simp only [finishRecord, WorkRecord.isBlank, Bool.or_eq_true, decide_eq_true_eq]

theorem finishRecord_crop : (finishRecord w snap clips).crop =
    if (finishRecord w snap clips).blank then none
    else some (cropBox w snap.measurement snap.correction.w snap.correction.h) := rfl

theorem finishRecord_failedMotion_iff : (finishRecord w snap clips).failedMotion = true ↔
    snap.keep.motionTest = true ∧ w.motion = true := Bool.and_eq_true_iff

theorem finishRecord_failedClip_iff : (finishRecord w snap clips).failedClip = true ↔
    snap.measurement.clipLimit < clips := decide_eq_true_iff

theorem finishRecord_failedDegraded_iff : (finishRecord w snap clips).failedDegraded = true ↔
    snap.keep.degradedTest = true ∧ w.degraded = true := Bool.and_eq_true_iff

end Finished

/-- A capture is kept in GATE alone, and only when no test fails (R149). -/
theorem verdictOf_eq_keep_iff (k : KeepSettings) (motion clip degraded : Bool) :
    verdictOf k motion clip degraded = .keep ↔
      k.mode = .gate ∧ motion = false ∧ clip = false ∧ degraded = false := by
  unfold verdictOf
  split
  next hgate => simp only [hgate, true_and, Bool.or_eq_true, ite_eq_right_iff, reduceCtorEq, imp_false, not_or,
      Bool.not_eq_true, and_assoc]
  next hall => simp only [hall, reduceCtorEq, false_and]

/-! ### The running dark update (R126) -/

/-- R126's step, an eighth of the way rounded toward minus infinity, never takes the running dark below 0. -/
theorem darkStep_eq (v cand : Nat) : darkStep v cand = ((v : Int) + ((cand : Int) - v) / 8).toNat := by
  unfold darkStep
  split <;> omega

/-- The figures of the three channels of a head at a frame's end. -/
def darkFigures (u : HeadUnit) (c : Correction) : PerChannel DarkFigure :=
  u.darkSums.map fun ch sum => darkFigure c sum (u.running.get ch)

/-- A head with its running dark updated. -/
def darkUpdated (u : HeadUnit) (f : PerChannel DarkFigure) : HeadUnit :=
  { u with
    running := ⟨f.r.after, f.g.after, f.b.after⟩
    driftCount := min (u.driftCount + heldCount f) 65535
    lastDarkUpdate := some f }

theorem darkFigure_eq (c : Correction) (sum v : Nat) :
    let n := 32 * c.h
    let mean := (sum + n / 2) / n
    let cand := min mean 1023
    let held := decide (cand < c.winLo ∨ c.winHi < cand)
    darkFigure c sum v = ⟨mean, cand, v, if held then v else ((v : Int) + ((cand : Int) - v) / 8).toNat, held⟩ := by
  intro n mean cand held
  have hheld : (decide (cand < c.winLo) || decide (c.winHi < cand)) = held := (Bool.decide_or _ _).symm
  rw [← hheld, ← darkStep_eq]
  rfl

theorem heldCount_eq (f : PerChannel DarkFigure) : heldCount f = [f.r, f.g, f.b].countP (·.held) := by
  simp only [heldCount, List.countP_cons, List.countP_nil]
  omega

/-- The update whole: the head alone is written, and the station told when a channel is held. -/
theorem updateDark_eq (s : State) (h : Head) (snap : Snapshot) :
    let f := darkFigures (s.head h) snap.correction
    s.updateDark h snap =
      { s with
        heads := s.heads.set h (darkUpdated (s.head h) f)
        links := if heldCount f = 0 then s.links else { s.links with station := { s.links.station with
          notices := addNotice s.links.station.notices StationNotice.darkDrift.place } } } := by
  intro f
  have hunfold : s.updateDark h snap =
      if 0 < heldCount f then (s.modHead h fun u => darkUpdated u f).postStation .darkDrift
      else s.modHead h fun u => darkUpdated u f := rfl
  rw [hunfold]
  by_cases hnone : heldCount f = 0
  · rw [if_neg (by omega), if_pos hnone]
    rfl
  · rw [if_pos (by omega), if_neg hnone]
    rfl

theorem updateDark_head (s : State) (h : Head) (snap : Snapshot) :
    (s.updateDark h snap).head h = darkUpdated (s.head h) (darkFigures (s.head h) snap.correction) := by
  rw [updateDark_eq]
  exact PerHead_get_set_same _ _ _

/-- Settles O47: the edges by the scan's invariant, a line's and a frame's measurement field by field, and the running
dark by its figures. -/
theorem measurementAndRunningDark : Obligations.MeasurementAndRunningDark := by
  refine ⟨⟨?window, ?edges, ?line, ?frame⟩, ?dark⟩
  case window => exact fun m w h => ⟨_, _, rfl, rfl, rfl⟩
  case edges =>
    intro m grays hlen
    exact ⟨lineEdges_eq_iff hlen grays none, fun l r => lineEdges_eq_iff hlen grays (some (l, r))⟩
  case line =>
    intro w m l grays
    refine ⟨measure_of_noEdges, fun a b hedges => ?_⟩
    rw [measure_of_edges hedges]
    simp only [WorkRecord.content, metered]
    cases w.leastLeft <;> cases w.greatestRight <;>
      simp only [Option.getD_none, Option.getD_some, Nat.min_self, Nat.max_self]
  case frame =>
    intro w snap clips m r n
    refine ⟨rfl, rfl, rfl, rfl, rfl, rfl, rfl, rfl, finishRecord_blank_iff w snap clips, ?blank, ?crop, rfl, rfl, rfl,
      finishRecord_failedMotion_iff w snap clips, finishRecord_failedClip_iff w snap clips,
      finishRecord_failedDegraded_iff w snap clips, verdictOf_eq_keep_iff snap.keep _ _ _⟩
    case blank => exact fun hblank => (finishRecord_crop w snap clips).trans (if_pos hblank)
    case crop =>
      intro a b f g hblank ha hb hf hg
      refine (finishRecord_crop w snap clips).trans ((if_neg (Bool.eq_false_iff.1 hblank)).trans ?_)
      simp only [cropBox, ha, hb, hf, hg, Option.getD_some]
      rfl
  case dark =>
    intro s h snap u t n figure f held
    have hf : f = darkFigures u snap.correction :=
      congr (congr (congrArg PerChannel.mk (darkFigure_eq ..).symm) (darkFigure_eq ..).symm) (darkFigure_eq ..).symm
    have hheld : held = heldCount (darkFigures u snap.correction) := by rw [heldCount_eq, ← hf]
    have hhead : t.head h = darkUpdated u (darkFigures u snap.correction) := updateDark_head s h snap
    rw [hhead, hheld, hf]
    exact ⟨rfl, updateDark_eq s h snap⟩

end Sys2Proof.Proofs
end

section
/-! SUPPORT. Lists and conditions: facts of core Lean's lists and `if` that its own library does not state. -/
namespace Sys2Proof.Proofs

theorem ite_of_iff {α : Sort _} {p q : Prop} [Decidable p] [Decidable q] {x y u v : α} (hpq : p ↔ q) (hx : x = u)
    (hy : y = v) : (if p then x else y) = if q then u else v :=
  ite_congr (propext hpq) (fun _ => hx) fun _ => hy

/-- Two folds that take the same steps at the elements of the list come to the same. -/
theorem foldl_of_steps {α β : Type _} (f g : α → β → α) (a : α) {l : List β} (hfg : ∀ a, ∀ b ∈ l, f a b = g a b) :
    l.foldl f a = l.foldl g a := by
  induction l generalizing a with
  | nil => rfl
  | cons b l ih =>
    rw [List.foldl_cons, List.foldl_cons, hfg a b List.mem_cons_self]
    exact ih _ fun a b hb => hfg a b (List.mem_cons_of_mem _ hb)

/-- A function that tells the elements of a list apart keeps them different. -/
theorem nodup_map_of_inj {α β : Type _} {f : α → β} {l : List α} (hf : ∀ x ∈ l, ∀ y ∈ l, f x = f y → x = y)
    (hl : l.Nodup) : (l.map f).Nodup :=
  List.pairwise_map.2 (List.Pairwise.imp_of_mem (fun hx hy hne e => hne (hf _ hx _ hy e)) hl)

/-- Of a list whose images are different, elements with one image are one. -/
theorem eq_of_nodup_map {α β : Type _} {f : α → β} {l : List α} (hl : (l.map f).Nodup) {x y : α} (hx : x ∈ l)
    (hy : y ∈ l) (e : f x = f y) : x = y := by
  induction l with
  | nil => cases hx
  | cons a l ih =>
    obtain ⟨ha, hl⟩ := List.nodup_cons.1 hl
    rcases List.mem_cons.1 hx with ex | hx <;> rcases List.mem_cons.1 hy with ey | hy
    · exact ex.trans ey.symm
    · exact absurd (List.mem_map.2 ⟨y, hy, by rw [← e, ex]⟩) ha
    · exact absurd (List.mem_map.2 ⟨x, hx, by rw [e, ey]⟩) ha
    · exact ih hl hx hy

end Sys2Proof.Proofs
end

section
/-! SUPPORT. What every step keeps: every command and event of the table keeps the queue, the canonical form, the
ranges and the interlock, by the one lemma for each (`Laws.Keeps`); a step is one of them or idles. -/
namespace Sys2Proof.Proofs
open Sys2Proof.Machine Sys2Proof.Laws

/-! ### Every command and event -/

/-- What an outcome of `exec` comes to: a next state that is kept, with its event ended. -/
def CompletesKeeping (s : State) (r : Result) : Prop :=
  ∃ t : State, r = .next t ∧ Keeps s t ∧ t.skippedNow = []

/-- The end of an event keeps what the event keeps (log 20). -/
theorem completesKeeping_done {s t : State} (a : Keeps s t) : CompletesKeeping s (done t) :=
  ⟨{ t with skippedNow := [] }, rfl, a.trans (keeps_of_watched rfl), rfl⟩

/-- A row that names a whole command keeps what its words on their link keep. -/
theorem completesKeeping_spelled {i : Instr} {link : MasterLink} {c : Cmd} {ws : List Word} (s : State)
    (h : i.spelled = some (link, c, ws)) : CompletesKeeping s (exec i s) :=
  exec_spelled s h ▸ completesKeeping_done (keeps_transact s link c ws)

/-- Every command and event answers a next state that keeps what `Keeps` says. -/
theorem exec_completesKeeping (i : Instr) (s : State) : CompletesKeeping s (exec i s) := by
  cases hi : i.spelled with
  | some row => exact completesKeeping_spelled s hi
  | none =>
    cases i with
    | commandWord link data parity => exact completesKeeping_done (keeps_commandWord s link data parity)
    | parameterWord link data parity => exact completesKeeping_done (keeps_otherWord s link data parity)
    | fillerWord link data parity => exact completesKeeping_done (keeps_otherWord s link data parity)
    | partialWordDiscard link bits => exact completesKeeping_done (Keeps.refl s)
    | pinReset => exact completesKeeping_done (keeps_pinReset s)
    | initPassEnd => exact completesKeeping_done (keeps_initPassEnd s)
    | stopLineAsserted => exact completesKeeping_done (keeps_stopLineAsserted s)
    | stopLineReleased => exact completesKeeping_done (keeps_stopLineReleased s)
    | pedalAsserted => exact completesKeeping_done (keeps_pedalAsserted s)
    | pedalReleased => exact completesKeeping_done (keeps_pedalReleased s)
    | downSwitchAsserted => exact completesKeeping_done (keeps_downSwitchAsserted s)
    | upSwitchAsserted => exact completesKeeping_done (keeps_upSwitchAsserted s)
    | switchCleared w => exact completesKeeping_done (keeps_switchCleared w s)
    | pressureLost => exact completesKeeping_done (keeps_pressureLost s)
    | pressureReturned => exact completesKeeping_done (keeps_pressureReturned s)
    | travelTimerExpiry => exact completesKeeping_done (keeps_travelTimerExpiry s)
    | settleTimerExpiry => exact completesKeeping_done (keeps_settleTimerExpiry s)
    | grantTimerExpiry => exact completesKeeping_done (keeps_grantTimerExpiry s)
    | frameTimerExpiry h => exact completesKeeping_done (keeps_frameTimerExpiry h s)
    | strobePulseEnd b => exact completesKeeping_done (keeps_strobePulseEnd b s)
    | lineStart h => exact completesKeeping_done (keeps_lineStart h s)
    | sample h v => exact completesKeeping_done (keeps_sample h v.toNat s)
    | lineEnd h => exact completesKeeping_done (keeps_lineEnd h s)
    | frameEnd h => exact completesKeeping_done (keeps_frameEnd h s)
    | imagePortWordTaken => exact completesKeeping_done (keeps_imagePortWord s)
    | _ => exact absurd hi (Option.some_ne_none _)

/-- Settles O2: every command and event answers by its own lemma of `Keeps`, whose first part is the queue. -/
theorem everyCommandCompletes : Obligations.EveryCommandCompletes := by
  intro c s
  obtain ⟨t, hnext, hkeeps, hended⟩ := exec_completesKeeping c s
  exact ⟨t, hnext, hkeeps.pending, hended⟩

/-! ### Every step -/

/-- The queue is no part of what the invariants speak of. -/
theorem canonical_withQueue {s : State} (h : s.Canonical) (q : List Instr) : (s.withQueue q).Canonical :=
  ⟨h.memory, h.leaves, h.gain⟩

theorem accountInRange_withQueue {s : State} (h : s.AccountInRange) (q : List Instr) :
    (s.withQueue q).AccountInRange :=
  ⟨h.oneActive, h.serial, h.zero, h.one, h.rescan, h.corrected⟩

theorem settingsInRange_withQueue {s : State} (h : s.SettingsInRange) (q : List Instr) :
    (s.withQueue q).SettingsInRange :=
  ⟨h.timers, h.light, h.left, h.right⟩

theorem interlocked_withQueue {s : State} (h : s.Interlocked) (q : List Instr) :
    (s.withQueue q).Interlocked :=
  ⟨h.travel, h.settle, h.grant, h.strobes, h.captures, h.raisePending, h.pending, h.grantPending, h.granted⟩

/-- A step idles, or keeps what `Keeps` says of the state with its front command taken off the queue. -/
theorem step_keeps {s t : State} (h : step s = .next t) : t = s ∨ ∃ q, Keeps (s.withQueue q) t := by
  unfold step at h
  split at h
  next => exact .inl (Host.Outcome.next.inj h).symm
  next c rest _ =>
    obtain ⟨u, hnext, hkeeps, -⟩ := exec_completesKeeping c (s.withQueue rest)
    have hu : u = t := Host.Outcome.next.inj (hnext.symm.trans h)
    exact .inr ⟨rest, hu ▸ hkeeps⟩

/-- A predicate that the queue does not touch and that every `Keeps` keeps holds after a step. -/
theorem step_invariant {P : State → Prop} (hq : ∀ {s : State}, P s → ∀ q, P (s.withQueue q))
    (hk : ∀ {s t : State}, Keeps s t → P s → P t) {s t : State} (hs : P s) (h : step s = .next t) : P t := by
  obtain rfl | ⟨q, hkeeps⟩ := step_keeps h
  · exact hs
  · exact hk hkeeps (hq hs q)

/-- Settles O57, by what every command and event keeps. -/
theorem canonicalFormIsKept : Obligations.CanonicalFormIsKept :=
  fun _ _ => step_invariant canonical_withQueue fun a => a.canonical

/-- Settles O58, by what every command and event keeps. -/
theorem accountStaysInRange : Obligations.AccountStaysInRange :=
  fun _ _ => step_invariant accountInRange_withQueue fun a => a.account

/-- Settles O59, by what every command and event keeps. -/
theorem settingsStayInRange : Obligations.SettingsStayInRange :=
  fun _ _ => step_invariant settingsInRange_withQueue fun a => a.settings

/-- Settles O60, by what every command and event keeps. -/
theorem interlockIsKept : Obligations.InterlockIsKept :=
  fun _ _ => step_invariant interlocked_withQueue fun a => a.interlock

end Sys2Proof.Proofs
end

section
/-! SUPPORT. The queue, the resets and the coding of link words (R187 to R189, R193, R137). -/
namespace Sys2Proof.Proofs
open Sys2Proof.Machine Sys2Proof.Laws

/-! ### The queue -/

/-- Settles O1: the two branches of a step. -/
theorem stepRunsTheFrontCommand : Obligations.StepRunsTheFrontCommand := by
  refine ⟨fun s c rest hq => ?front, fun s hq => ?idle⟩
  case front => rw [step, hq]
  case idle => rw [step, hq]

/-! ### The resets (R193, R137) -/

/-- A pin reset writes the state of R193 whatever went before. -/
theorem exec_pinReset (s : State) : exec .pinReset s = .next (pinReset s) := rfl

@[simp] theorem slot_pinReset (s : State) (i : SlotNo) : (pinReset s).slot i = Slot.cleared :=
  Vector.getElem_replicate i.isLt

theorem head_pinReset (s : State) (h : Head) : (pinReset s).head h = HeadUnit.reset := by
  cases h <;> rfl

theorem link_pinReset (s : State) (link : MasterLink) : (pinReset s).link link = Link.reset := by
  cases link <;> rfl

/-- Settles O3: what stands for each block at a reset is that block's reset value. -/
theorem pinResetPutsEveryBlockInItsResetState : Obligations.PinResetPutsEveryBlockInItsResetState := by
  intro s
  refine ⟨pinReset s, exec_pinReset s, ?_⟩
  simp only [head_pinReset, link_pinReset, slot_pinReset]
  have hcounts : ∀ c : FaultClass, (pinReset s).faults.counts[c.place] = 0 := faultReport_reset_counts
  simp only [hcounts]
  simp only [pinReset, State.reset, Cradle.reset, Cradle.downDrive, Cradle.upDrive, Timers.default, TurnRecord.reset,
    Lighting.reset, LightingSettings.default, Lighting.dark, HeadUnit.reset, Correction.default, Measurement.default,
    WorkRecord.cleared, KeepSettings.default, RunRecord.reset, DeliveryUnit.reset, FaultReport.reset, Link.reset,
    Link.attention, WordErrors.clean, implies_true, and_self, bne_self_eq_false]

theorem canonical_reset : State.reset.Canonical := ⟨rfl, rfl, rfl⟩

theorem pinReset_reset : pinReset State.reset = State.reset := rfl

theorem interlocked_stateReset : State.reset.Interlocked := pinReset_reset ▸ interlocked_reset State.reset

/-- Settles O4: the starting state is a pin reset's, and the invariants hold of it. -/
theorem resetIsTheStateAfterAPinReset : Obligations.ResetIsTheStateAfterAPinReset :=
  ⟨rfl, rfl, canonical_reset, accountInRange_reset, settingsInRange_reset, interlocked_stateReset, fun _ => rfl⟩

/-- Settles O5: with the pass running its end writes the gain entries and leaf records and tells both masters; with
none running there is no end of one. -/
theorem initialisationPassEnds : Obligations.InitialisationPassEnds := by
  intro s
  refine ⟨fun hrunning => ?ends, fun hidle => ?none⟩
  case ends =>
    have hnext : exec .initPassEnd s = done
        (({ s with initRunning := false, leaves := [], gain := [] }.postStation .initDone).postTurner .initDone) :=
      congrArg done (if_pos hrunning)
    exact ⟨_, hnext, rfl, fun _ => rfl, fun _ _ => rfl, rfl, rfl, rfl⟩
  case none =>
    have hsame : initPassEnd s = s := by rw [initPassEnd, hidle]; rfl
    exact congrArg done hsame

/-! ### Words on a link (R187, R188, R189) -/

/-- The parity of some flags, on top of one met before them. -/
theorem foldl_xor (f : Nat → Bool) (l : List Nat) (b : Bool) :
    l.foldl (fun odd i => xor odd (f i)) b = xor b (l.foldl (fun odd i => xor odd (f i)) false) := by
  induction l generalizing b with
  | nil => rw [List.foldl_nil, List.foldl_nil, Bool.xor_false]
  | cons i l ih => rw [List.foldl_cons, List.foldl_cons, ih, ih (xor false (f i)), Bool.false_xor, Bool.xor_assoc]

section Frame
variable (kind : Bool) (data : Word)

/-- The bits of a word sent, from its parity bit up through its data to its kind. -/
theorem frameWord_bit (i : Nat) : (frameWord kind data).getLsbD i =
    if i < 1 then (BitVec.ofBool (parityBit kind data)).getLsbD i
    else if i - 1 < 16 then data.getLsbD (i - 1) else (BitVec.ofBool kind).getLsbD (i - 1 - 16) :=
  BitVec.getLsbD_append.trans (congrArg (ite _ _) BitVec.getLsbD_append)

theorem frameWord_parity : (frameWord kind data).getLsbD 0 = parityBit kind data := by
  rw [frameWord_bit]
  simp

theorem frameWord_data {i : Nat} (hi : i < 16) : (frameWord kind data).getLsbD (i + 1) = data.getLsbD i := by
  rw [frameWord_bit, if_neg (Nat.not_lt_of_le (Nat.le_add_left 1 i)), Nat.add_sub_cancel, if_pos hi]

theorem frameWord_kind : (frameWord kind data).getLsbD 17 = kind := by
  rw [frameWord_bit]
  simp

/-- The 18 bits of a word sent hold an even number of ones: its parity bit makes up for the other 17. -/
theorem frameWord_even :
    (List.range 18).foldl (fun odd i => xor odd ((frameWord kind data).getLsbD i)) false = false := by
  have hplaces : List.range 18 = 0 :: ((List.range 16).map Nat.succ ++ [17]) := rfl
  have hdata : (List.range 16).foldl (fun odd i => xor odd ((frameWord kind data).getLsbD i.succ)) false =
      oddOnes data :=
    foldl_of_steps _ _ _ fun odd i hi => by rw [frameWord_data kind data (List.mem_range.1 hi)]
  rw [hplaces, List.foldl_cons, List.foldl_append, List.foldl_map, List.foldl_cons, List.foldl_nil,
    foldl_xor (fun i => (frameWord kind data).getLsbD i.succ), hdata, frameWord_parity, frameWord_kind, parityBit]
  cases kind <;> cases oddOnes data <;> rfl

theorem frameWord_extract : (frameWord kind data).extractLsb' 1 16 = data := by
  ext i hi
  rw [← BitVec.getLsbD_eq_getElem, ← BitVec.getLsbD_eq_getElem, BitVec.getLsbD_extractLsb', decide_eq_true hi,
    Bool.true_and, Nat.add_comm, frameWord_data kind data hi]

end Frame

/-- A code names one command: the one of that code. -/
theorem word_of_ofCode {w : Word} {c : Cmd} (h : Cmd.ofCode w = some c) : w = c.word := by
  have hcode : c.code = w.toNat := of_decide_eq_true (List.find?_some (p := fun c : Cmd => decide (c.code = w.toNat)) h)
  rw [Cmd.word, hcode, BitVec.ofNat_toNat, BitVec.setWidth_eq]

theorem statusWord_refused (r : Reason) (notices : Bool) :
    (statusWord (some r) notices).toNat = 32768 + (if notices then 256 else 0) + r.number := by
  cases r <;> cases notices <;> rfl

/-- Settles O7: the frame of a word by its bits, the status words by their fields, the codes by the table. -/
theorem linkWordsAreCoded : Obligations.LinkWordsAreCoded := by
  refine ⟨fun kind data => ⟨frameWord_even kind data, frameWord_kind kind data, frameWord_extract kind data⟩,
    ⟨fun notices => ?none, fun notices => ?accepted, statusWord_refused, ?numbers⟩,
    ofCode_word, fun w c => word_of_ofCode, ?codes⟩
  case none => cases notices <;> rfl
  case accepted => cases notices <;> rfl
  case numbers => exact ⟨rfl, rfl, rfl, rfl, rfl, rfl, rfl, rfl, rfl, rfl, rfl, rfl, rfl, rfl, rfl, rfl, rfl, rfl, rfl,
    rfl, rfl⟩
  case codes => exact ⟨rfl, rfl, rfl, rfl, rfl, rfl, rfl, rfl, rfl, rfl, rfl, rfl, rfl, rfl, rfl, rfl, rfl, rfl, rfl,
    rfl, rfl, rfl⟩

end Sys2Proof.Proofs
end

section
/-! SUPPORT. The link controllers (R187 to R192): a command word, a parameter word and a filler by the state of their
link, the refusals a link makes itself, and the notice sets. -/
namespace Sys2Proof.Proofs
open Sys2Proof.Machine Sys2Proof.Laws

/-! ### Command words (R188 to R191) -/

/-- A command has all its words at its command word exactly when it calls for none (R189). -/
theorem complete_nil (c : Cmd) : c.complete [] = decide (c.arity = 0) := by cases c <;> rfl

theorem setLink_eq (s : State) (link : MasterLink) (x : Link) :
    s.setLink link x = { s with links := s.links.set link x } := rfl

/-- What a command word leaves of its link before the link acts on it. -/
theorem beginWord_eq (s : State) (link : MasterLink) :
    s.beginWord link = s.setLink link
      { s.link link with
        rx := .idle, response := [], flags := (s.link link).brokenFlags
        lastSent := some (s.link link).outgoing } := rfl

theorem setLink_setLink (s : State) (link : MasterLink) (x y : Link) :
    (s.setLink link x).setLink link y = s.setLink link y := by cases link <;> rfl

@[simp] theorem link_setLink (s : State) (link : MasterLink) (x : Link) : (s.setLink link x).link link = x := by
  cases link <;> rfl

theorem modLink_setLink (s : State) (link : MasterLink) (x : Link) (f : Link → Link) :
    (s.setLink link x).modLink link f = s.setLink link (f x) := by cases link <;> rfl

@[simp] theorem initRunning_beginWord (s : State) (link : MasterLink) :
    (s.beginWord link).initRunning = s.initRunning := rfl

theorem parityHolds_iff {kind : Bool} {data : Word} {parity : Bool} :
    parityHolds kind data parity = true ↔ parity = parityBit kind data := beq_iff_eq

/-- What the link's own refusal of a command word leaves (R191). -/
def linkRefusal (l : Link) (flags : LinkFlags) (r : Reason) : Link :=
  { rx := .discarding, response := [.status (some r)], notices := l.notices, flags := flags
    lastSent := some l.outgoing }

theorem commandWord_of_badParity {s : State} {link : MasterLink} {data : Word} {parity : Bool}
    (hp : parity ≠ parityBit true data) :
    s.commandWord link data parity =
      s.setLink link
        (linkRefusal (s.link link) { (s.link link).brokenFlags with parity := true } .linkError) := by
  rw [State.commandWord, if_neg (mt parityHolds_iff.1 hp), beginWord_eq, modLink_setLink]
  rfl

theorem commandWord_of_good {s : State} {link : MasterLink} {data : Word} {parity : Bool}
    (hp : parity = parityBit true data) :
    s.commandWord link data parity = (s.beginWord link).takeCommandWord link data := by
  rw [State.commandWord, if_pos (parityHolds_iff.2 hp)]

theorem commandWord_of_unknown {s : State} {link : MasterLink} {data : Word} {parity : Bool}
    (hp : parity = parityBit true data) (hc : Cmd.ofCode data = none) :
    s.commandWord link data parity =
      s.setLink link
        (linkRefusal (s.link link) { (s.link link).brokenFlags with unknown := true } .badParam) := by
  rw [commandWord_of_good hp, State.takeCommandWord, hc, beginWord_eq]
  exact modLink_setLink _ _ _ _

theorem commandWord_of_otherLinks {s : State} {link : MasterLink} {data : Word} {parity : Bool} {c : Cmd}
    (hp : parity = parityBit true data) (hc : Cmd.ofCode data = some c) (ho : c.ownedBy link = false) :
    s.commandWord link data parity =
      s.setLink link
        (linkRefusal (s.link link) { (s.link link).brokenFlags with wrongLink := true } .notOwner) := by
  rw [commandWord_of_good hp, State.takeCommandWord, hc, beginWord_eq]
  simp only [ho, Bool.false_eq_true, if_false]
  exact modLink_setLink _ _ _ _

/-- Settles O9: the three refusals a link makes at a command word, each by its test. -/
theorem linkRefusesBadCommandWords : Obligations.LinkRefusesBadCommandWords := by
  intro link data parity s
  refine ⟨fun hp => ?parity, fun hp hc => ?unknown, fun c hp hc ho => ?otherLinks⟩
  case parity => exact congrArg done (commandWord_of_badParity hp)
  case unknown => exact congrArg done (commandWord_of_unknown hp hc)
  case otherLinks => exact congrArg done (commandWord_of_otherLinks hp hc ho)

/-- Settles O8: a command word with parameters to come leaves its link collecting; one without hands the command to
its block. -/
theorem commandWordStartsATransaction : Obligations.CommandWordStartsATransaction := by
  intro link c s ho hi
  have hword : exec (.commandWord link c.word (parityBit true c.word)) s =
      done (if c.complete [] then handed s link c [] else s.modLink link (collectingLink · c [])) :=
    congrArg done (commandWord_owned ho (.inl hi))
  rw [hword, complete_nil]
  refine ⟨fun hwords => ?collects, fun hnone => ?taken⟩
  case collects =>
    rw [if_neg (mt of_decide_eq_true hwords)]
    rfl
  case taken =>
    rw [if_pos (decide_eq_true hnone)]
    rfl

/-! ### The initialisation pass (R137, R191) -/

/-- A link's own command word during the pass is refused INITIALIZING. -/
theorem commandWord_of_initialising {s : State} {link : MasterLink} {c : Cmd} (hi : s.initRunning = true)
    (hc : c ≠ .readStatus) (ho : c.ownedBy link = true) :
    s.commandWord link c.word (parityBit true c.word) =
      s.setLink link (linkRefusal (s.link link) (s.link link).brokenFlags .initializing) := by
  have htest : ((s.beginWord link).initRunning && !(c == .readStatus)) = true := by simp [hi, hc]
  rw [commandWord_of_good rfl, State.takeCommandWord, ofCode_word]
  simp only [ho, htest, if_true]
  rw [beginWord_eq, modLink_setLink]
  rfl

/-- A link that discards words, with the notice set it had, and a state that is otherwise as it was. -/
structure Discards (link : MasterLink) (s t : State) : Prop where
  rx : (t.link link).rx = .discarding
  notices : (t.link link).notices = (s.link link).notices
  frame : t = s.setLink link (t.link link)

/-- A word that comes while its link discards is drawn against the response alone. -/
theorem otherWord_of_discarding {s : State} {link : MasterLink} {w : Word} (h : (s.link link).rx = .discarding) :
    s.otherWord link w (parityBit false w) = s.modLink link Link.clockOut := by
  rw [State.otherWord, if_pos (parityHolds_parityBit false w), h]

theorem Discards.otherWord {link : MasterLink} {s t : State} (a : Discards link s t) (w : Word) :
    Discards link s (t.otherWord link w (parityBit false w)) := by
  rw [otherWord_of_discarding a.rx]
  refine ⟨?rx, ?notices, ?frame⟩
  case rx => rw [link_modLink]; exact a.rx
  case notices => rw [link_modLink]; exact a.notices
  case frame =>
    rw [link_modLink, State.modLink]
    conv => lhs; rw [a.frame]
    rw [setLink_setLink, link_setLink]

theorem Discards.clockWords {link : MasterLink} {s t : State} (a : Discards link s t) (ws : List Word) :
    Discards link s (t.clockWords link ws) := by
  rw [State.clockWords]
  induction ws generalizing t with
  | nil => exact a
  | cons w ws ih => exact ih (a.otherWord w)

/-- A row names a command of its own link (R189). -/
theorem ownedBy_of_spelled {i : Instr} {link : MasterLink} {c : Cmd} {ws : List Word}
    (h : i.spelled = some (link, c, ws)) : c.ownedBy link = true := by
  cases i <;> cases h <;> rfl

/-- Settles O6: the command word is refused, and the words after it are discarded one by one. -/
theorem commandsAreRefusedDuringInitialisation : Obligations.CommandsAreRefusedDuringInitialisation := by
  refine ⟨fun link c s hi hc ho => ?word, fun i link c ws s hrow hc hi => ?row⟩
  case word =>
    have hnext := congrArg done (commandWord_of_initialising hi hc ho)
    refine ⟨_, hnext, ?_⟩
    cases link <;> exact ⟨rfl, rfl, rfl⟩
  case row =>
    have hword := commandWord_of_initialising hi hc (ownedBy_of_spelled hrow)
    have hbegun : Discards link s (s.commandWord link c.word (parityBit true c.word)) := by
      rw [hword]
      exact ⟨by rw [link_setLink]; rfl, by rw [link_setLink]; rfl, by rw [link_setLink]⟩
    obtain ⟨hrx, hnotices, hframe⟩ := hbegun.clockWords ws
    rw [exec_spelled s hrow]
    exact ⟨_, rfl, hrx, hnotices, congrArg (fun u : State => { u with skippedNow := [] }) hframe⟩

/-! ### Words that are no command words (R187, R188, R190, R191) -/

/-- A link once a whole word has been clocked. -/
theorem modLink_clockOut (s : State) (link : MasterLink) :
    s.modLink link Link.clockOut = s.setLink link (s.link link).clockOut := rfl

section OtherWord
variable {s : State} {link : MasterLink} {data : Word} {parity : Bool} {c : Cmd} {ws : List Word}

theorem otherWord_of_collecting (hrx : (s.link link).rx = .collecting c ws) (hp : parity = parityBit false data) :
    s.otherWord link data parity = (s.setLink link (s.link link).clockOut).collect link c (ws ++ [data]) := by
  rw [State.otherWord, if_pos (parityHolds_iff.2 hp), hrx, modLink_clockOut]

theorem otherWord_of_badParity (hrx : (s.link link).rx = .collecting c ws) (hp : parity ≠ parityBit false data) :
    s.otherWord link data parity = s.setLink link
      { (s.link link).clockOut with
        rx := .discarding, response := [.status (some .linkError)]
        flags := { (s.link link).flags with parity := true } } := by
  rw [State.otherWord, if_neg (mt parityHolds_iff.1 hp), hrx, modLink_clockOut]
  simp only [modLink_setLink]
  rfl

theorem otherWord_of_filler (hrx : ∀ c ws, (s.link link).rx ≠ .collecting c ws) :
    s.otherWord link data parity = s.setLink link
      { (s.link link).clockOut with
        flags := if parity = parityBit false data then (s.link link).flags
          else { (s.link link).flags with parity := true } } := by
  rw [State.otherWord, modLink_clockOut]
  by_cases hp : parity = parityBit false data
  · rw [if_pos (parityHolds_iff.2 hp), if_pos hp]
    cases h : (s.link link).rx with
    | collecting c ws => exact absurd h (hrx c ws)
    | idle => rfl
    | discarding => rfl
  · rw [if_neg (mt parityHolds_iff.1 hp), if_neg hp, modLink_setLink]
    cases h : (s.link link).rx with
    | collecting c ws => exact absurd h (hrx c ws)
    | idle => rfl
    | discarding => rfl

/-- A parameter word of an action command that lacks more words is kept. -/
theorem collect_more (hs : c.isSetting = false) (hc : c.complete ws = false) :
    s.collect link c ws = s.modLink link fun l => { l with rx := .collecting c ws } := by
  rw [State.collect, headRefused_action hs, applyField_action hs, hc]
  rfl

/-- The last parameter word of an action command hands it to its block. -/
theorem collect_last (hs : c.isSetting = false) (hc : c.complete ws = true) :
    s.collect link c ws = s.takeCommand link c ws := by
  rw [State.collect, headRefused_action hs, applyField_action hs, hc]
  rfl

/-- A settings command's word is applied as a field. -/
theorem collect_field (hr : c.headRefused ws = false) (hc : c.complete ws = false) :
    s.collect link c ws = (c.applyField ws s).modLink link fun l => { l with rx := .collecting c ws } := by
  rw [State.collect, hr, hc]
  rfl

end OtherWord

/-- Settles O10: a parameter word by the command its link collects, a filler, and a word cut off. -/
theorem parameterAndFillerWords : Obligations.ParameterAndFillerWords := by
  refine ⟨fun link data parity s => ⟨fun c ws hrx hs hp => ⟨fun hc => ?kept, fun hc => ?last⟩,
    fun c ws hrx hs hp hr hc => ?field, fun c ws hrx hp => ?badParity, fun hrx => ?filler⟩,
    fun link bits s _ => ⟨_, rfl, rfl, ?cutOff⟩⟩
  case kept =>
    refine congrArg done ((otherWord_of_collecting hrx hp).trans ((collect_more hs hc).trans ?_))
    exact modLink_setLink _ _ _ _
  case last =>
    refine congrArg done ((otherWord_of_collecting hrx hp).trans ((collect_last hs hc).trans ?_))
    rw [State.takeCommand, modLink_setLink]
    rfl
  case field =>
    refine congrArg done ((otherWord_of_collecting hrx hp).trans ((collect_field hr hc).trans ?_))
    rw [← applyField_modLink, modLink_setLink]
    rfl
  case badParity => exact congrArg done (otherWord_of_badParity hrx hp)
  case filler => exact congrArg done (otherWord_of_filler hrx)
  case cutOff => cases link <;> rfl

/-! ### The notice sets (R192) and the link flags (R191) -/

theorem getLsbD_place {place i : Nat} (hi : i < 16) : (BitVec.ofNat 16 (2 ^ place)).getLsbD i = (i == place) := by
  rw [BitVec.getLsbD_ofNat, decide_eq_true hi, Bool.true_and, Nat.testBit_two_pow]
  exact Bool.eq_iff_iff.2 (by rw [decide_eq_true_iff, beq_iff_eq, eq_comm])

theorem getLsbD_addNotice (set : Word) (place : Nat) {i : Nat} (hi : i < 16) :
    (addNotice set place).getLsbD i = (set.getLsbD i || i == place) := by
  rw [addNotice, BitVec.getLsbD_or, getLsbD_place hi]

theorem getLsbD_removeNotice (set : Word) (place : Nat) {i : Nat} (hi : i < 16) :
    (removeNotice set place).getLsbD i = (set.getLsbD i && !(i == place)) := by
  rw [removeNotice, BitVec.getLsbD_and, BitVec.getLsbD_not, decide_eq_true hi, Bool.true_and, getLsbD_place hi]

theorem addNotice_twice (set : Word) (place : Nat) : addNotice (addNotice set place) place = addNotice set place := by
  rw [addNotice, addNotice, BitVec.or_assoc, BitVec.or_self]

theorem attention_iff (l : Link) : l.attention = true ↔ ∃ i < 16, l.notices.getLsbD i = true := by
  rw [Link.attention, bne_iff_ne]
  refine ⟨fun hset => ?_, fun ⟨i, _, hbit⟩ hempty => ?_⟩
  · refine Classical.byContradiction fun hnone => ?_
    refine hset (BitVec.eq_of_getLsbD_eq fun i hi => ?_)
    have : l.notices.getLsbD i ≠ true := fun hbit => hnone ⟨i, hi, hbit⟩
    exact (eq_false_of_ne_true this).trans BitVec.getLsbD_zero.symm
  · rw [hempty] at hbit
    exact Bool.false_ne_true (BitVec.getLsbD_zero.symm.trans hbit)

theorem exec_takeNotices {s : State} (hi : s.initRunning = false) (link : MasterLink) :
    exec (.takeNotices link) s = done (handed s link .takeNotices []) :=
  exec_action rfl rfl rfl (completes_of_arity (fun _ => rfl) rfl) hi

theorem exec_clearLinkFlags {s : State} (hi : s.initRunning = false) (link : MasterLink) :
    exec (.clearLinkFlags link) s = done (handed s link .clearLinkFlags []) :=
  exec_action rfl rfl rfl (completes_of_arity (fun _ => rfl) rfl) hi

/-- Settles O11: the two commands by what they answer and write, and a notice set by its bits. -/
theorem takeNoticesAndClearLinkFlags : Obligations.TakeNoticesAndClearLinkFlags := by
  refine ⟨fun link s hi => ⟨⟨_, ?take, rfl, ?released⟩, ?clear⟩, rfl, rfl,
    fun set place i _ hi => ⟨getLsbD_addNotice set place hi, getLsbD_removeNotice set place hi⟩,
    fun set place _ => addNotice_twice set place, attention_iff⟩
  case take =>
    rw [exec_takeNotices hi, handed_next rfl]
    cases link <;> rfl
  case released => cases link <;> rfl
  case clear =>
    rw [exec_clearLinkFlags hi, handed_next rfl]
    cases link <;> rfl

end Sys2Proof.Proofs
end

section
/-! SUPPORT. READ STATUS (R196): the nine words as sums of their fields, and each field read back from its word. -/
namespace Sys2Proof.Proofs
open Sys2Proof.Machine Sys2Proof.Laws

/-! ### Fields of a word -/

/-- A flag stands in its word as 0 or 1 times its place. -/
theorem bitAt_eq (i : Nat) (b : Bool) : bitAt i b = b.toNat * 2 ^ i := by cases b <;> simp [bitAt]

theorem iff_of_toNat {n : Nat} {b : Bool} (h : n = b.toNat) : n = 1 ↔ b = true := by rw [h, Bool.toNat_eq_one]

theorem toNat_ofNat_of_lt {n : Nat} (h : n < 65536) : (BitVec.ofNat 16 n).toNat = n := by
  rw [BitVec.toNat_ofNat]
  exact Nat.mod_eq_of_lt h

theorem cradlePlace_lt (c : CradleState) : c.place < 8 := by cases c <;> decide
theorem haltPlace_lt (c : HaltCause) : c.place < 8 := by cases c <;> decide
theorem turnPlace_lt (p : TurnPhase) : p.place < 8 := by cases p <;> decide
theorem runPlace_lt (r : RunState) : r.place < 8 := by cases r <;> decide
theorem slotPlace_lt (x : SlotState) : x.place < 8 := by cases x <;> decide
theorem handlePlace_lt (h : Handle) : h.place < 2 := by cases h <;> decide

theorem activePlace_lt (a : Option Handle) : (a.map Handle.place).getD 0 < 2 := by
  rcases a with - | h
  · exact Nat.two_pos
  · exact handlePlace_lt h

theorem optDirection_lt (d : Option Direction) : optPlace Direction.place d < 4 := by
  rcases d with - | (- | -) <;> decide

theorem optRunKind_lt (k : Option RunKind) : optPlace RunKind.place k < 4 := by
  rcases k with - | (- | -) <;> decide

theorem optEndReason_lt (e : Option EndReason) : optPlace EndReason.place e < 16 := by
  rcases e with - | e
  · decide
  · cases e <;> decide

theorem optPicked_lt {n : Option Nat} (h : n.getD 0 ≤ 2) : optPlace id n < 4 := by
  rcases n with - | n
  · decide
  · exact Nat.succ_lt_succ (Nat.lt_succ_of_le h)

/-! ### The words (R196) -/

section Words
variable {s : State} {w : Word}

theorem statusWord1_lt : s.statusWord1 < 65536 := by
  simp only [State.statusWord1, bitAt_eq, fieldAt]
  have := activePlace_lt s.active
  have := cradlePlace_lt s.cradle.state
  have := haltPlace_lt s.cradle.haltCause
  have := s.initRunning.toNat_le
  have := s.active.isSome.toNat_le
  have := s.cradle.raisePending.toNat_le
  have := s.cradle.grantPending.toNat_le
  have := s.cradle.upSwitch.toNat_le
  have := s.cradle.downSwitch.toNat_le
  have := s.cradle.pressure.toNat_le
  have := s.cradle.stopLine.toNat_le
  have := s.cradle.pedal.toNat_le
  omega

theorem activePlace_eq_one_iff {a : Option Handle} : (a.map Handle.place).getD 0 = 1 ↔ a = some .one := by
  rcases a with - | (- | -) <;> simp [Handle.place]

/-- Each field of word 1, from its place in the word. -/
theorem statusWord1_fields (hw : w.toNat = s.statusWord1) :
    (w.toNat / 32768 % 2 = 1 ↔ s.initRunning = true) ∧
    (w.toNat / 16384 % 2 = 1 ↔ s.active.isSome = true) ∧
    (w.toNat / 8192 % 2 = 1 ↔ s.active = some .one) ∧
    w.toNat / 1024 % 8 = s.cradle.state.place ∧ w.toNat / 128 % 8 = s.cradle.haltCause.place ∧
    (w.toNat / 64 % 2 = 1 ↔ s.cradle.raisePending = true) ∧
    (w.toNat / 32 % 2 = 1 ↔ s.cradle.grantPending = true) ∧
    (w.toNat / 16 % 2 = 1 ↔ s.cradle.upSwitch = true) ∧
    (w.toNat / 8 % 2 = 1 ↔ s.cradle.downSwitch = true) ∧
    (w.toNat / 4 % 2 = 1 ↔ s.cradle.pressure = true) ∧
    (w.toNat / 2 % 2 = 1 ↔ s.cradle.stopLine = true) ∧ (w.toNat % 2 = 1 ↔ s.cradle.pedal = true) := by
  simp only [State.statusWord1, bitAt_eq, fieldAt] at hw
  have := activePlace_lt s.active
  have := cradlePlace_lt s.cradle.state
  have := haltPlace_lt s.cradle.haltCause
  have := s.active.isSome.toNat_le
  have := s.cradle.raisePending.toNat_le
  have := s.cradle.grantPending.toNat_le
  have := s.cradle.upSwitch.toNat_le
  have := s.cradle.downSwitch.toNat_le
  have := s.cradle.pressure.toNat_le
  have := s.cradle.stopLine.toNat_le
  have := s.cradle.pedal.toNat_le
  have := s.initRunning.toNat_le
  have hactive : w.toNat / 8192 % 2 = (s.active.map Handle.place).getD 0 := by omega
  refine ⟨iff_of_toNat ?_, iff_of_toNat ?_, hactive ▸ activePlace_eq_one_iff, ?_, ?_, iff_of_toNat ?_, iff_of_toNat ?_,
    iff_of_toNat ?_, iff_of_toNat ?_, iff_of_toNat ?_, iff_of_toNat ?_, iff_of_toNat ?_⟩ <;> omega

/-- Whether the ACTIVE volume, if there is one, is uncertain. -/
theorem activeUncertain_iff :
    (s.active.map fun h => (s.vol h).uncertain).getD false = true ↔
      ∃ h, s.active = some h ∧ (s.vol h).uncertain = true := by
  cases s.active with
  | none => simp
  | some h => simp

theorem statusWord2_lt (hp : s.turn.picked.getD 0 ≤ 2) : s.statusWord2 < 65536 := by
  simp only [State.statusWord2, bitAt_eq, fieldAt]
  have := turnPlace_lt s.turn.phase
  have := optDirection_lt s.turn.direction
  have := optPicked_lt hp
  have := runPlace_lt s.run.state
  have := optDirection_lt s.run.wanted
  have := s.cradle.settleTimer.isSome.toNat_le
  have := s.turn.swept.toNat_le
  have := ((s.active.map fun h => (s.vol h).uncertain).getD false).toNat_le
  have := s.overlap.toNat_le
  omega

/-- Each field of word 2, from its place in the word. -/
theorem statusWord2_fields (hp : s.turn.picked.getD 0 ≤ 2) (hw : w.toNat = s.statusWord2) :
    (w.toNat / 32768 % 2 = 1 ↔ s.cradle.settleTimer.isSome = true) ∧
    w.toNat / 4096 % 8 = s.turn.phase.place ∧
    w.toNat / 1024 % 4 = optPlace Direction.place s.turn.direction ∧
    w.toNat / 256 % 4 = optPlace id s.turn.picked ∧
    (w.toNat / 128 % 2 = 1 ↔ s.turn.swept = true) ∧
    (w.toNat / 64 % 2 = 1 ↔ ∃ h, s.active = some h ∧ (s.vol h).uncertain = true) ∧
    w.toNat / 8 % 8 = s.run.state.place ∧
    w.toNat / 2 % 4 = optPlace Direction.place s.run.wanted ∧
    (w.toNat % 2 = 1 ↔ s.overlap = true) := by
  simp only [State.statusWord2, bitAt_eq, fieldAt] at hw
  rw [← activeUncertain_iff]
  have := turnPlace_lt s.turn.phase
  have := optDirection_lt s.turn.direction
  have := optPicked_lt hp
  have := runPlace_lt s.run.state
  have := optDirection_lt s.run.wanted
  have := s.cradle.settleTimer.isSome.toNat_le
  have := s.turn.swept.toNat_le
  have := ((s.active.map fun h => (s.vol h).uncertain).getD false).toNat_le
  have := s.overlap.toNat_le
  refine ⟨iff_of_toNat ?_, ?_, ?_, ?_, iff_of_toNat ?_, iff_of_toNat ?_, ?_, ?_, iff_of_toNat ?_⟩ <;> omega

theorem statusWord4_lt (hq : s.delivery.queue.length ≤ 8) (hl : s.rescan.length ≤ 64) : s.statusWord4 < 65536 := by
  simp only [State.statusWord4, bitAt_eq, fieldAt]
  have := s.delivery.emptyDeliver.toNat_le
  have := s.full.toNat_le
  have := (decide (s.heads.left.phase = .capturing)).toNat_le
  have := (decide (s.heads.right.phase = .capturing)).toNat_le
  omega

/-- Each field of word 4, from its place in the word. -/
theorem statusWord4_fields (hq : s.delivery.queue.length ≤ 8) (hl : s.rescan.length ≤ 64)
    (hw : w.toNat = s.statusWord4) :
    (w.toNat / 32768 % 2 = 1 ↔ s.delivery.emptyDeliver = true) ∧
    (w.toNat / 16384 % 2 = 1 ↔ s.full = true) ∧
    (w.toNat / 8192 % 2 = 1 ↔ (s.head .left).phase = .capturing) ∧
    (w.toNat / 4096 % 2 = 1 ↔ (s.head .right).phase = .capturing) ∧
    w.toNat / 256 % 16 = s.delivery.queue.length ∧ w.toNat % 128 = s.rescan.length := by
  simp only [State.statusWord4, bitAt_eq, fieldAt] at hw
  have := s.delivery.emptyDeliver.toNat_le
  have := s.full.toNat_le
  have := (decide (s.heads.left.phase = .capturing)).toNat_le
  have := (decide (s.heads.right.phase = .capturing)).toNat_le
  refine ⟨iff_of_toNat ?_, iff_of_toNat ?_,
    (iff_of_toNat (b := decide (s.heads.left.phase = .capturing)) ?_).trans decide_eq_true_iff,
    (iff_of_toNat (b := decide (s.heads.right.phase = .capturing)) ?_).trans decide_eq_true_iff, ?_, ?_⟩ <;> omega

theorem statusWord5_lt : s.statusWord5 < 65536 := by
  rw [State.statusWord5]
  cases s.active with
  | none => exact Nat.succ_pos _
  | some h => exact Nat.lt_succ_of_le (Nat.min_le_right _ _)

/-- Slot states in three bits each: below the place past the last, and each read back from its place. -/
theorem slotStateBits_lt (l : List Slot) : slotStateBits l < 8 ^ l.length := by
  induction l with
  | nil => decide
  | cons x l ih =>
    rw [slotStateBits, List.length_cons, Nat.pow_succ]
    have := slotPlace_lt x.state
    omega

theorem slotStateBits_field (l : List Slot) (i : Nat) (hi : i < l.length) :
    slotStateBits l / 8 ^ i % 8 = l[i].state.place := by
  induction l generalizing i with
  | nil => exact absurd hi (Nat.not_lt_zero i)
  | cons x l ih =>
    rw [slotStateBits]
    have := slotPlace_lt x.state
    cases i with
    | zero =>
      rw [Nat.pow_zero, Nat.div_one, List.getElem_cons_zero]
      omega
    | succ i =>
      have hrest : (x.state.place + 8 * slotStateBits l) / 8 = slotStateBits l := by omega
      rw [Nat.pow_succ', ← Nat.div_div_eq_div_mul, hrest, List.getElem_cons_succ]
      exact ih i (Nat.lt_of_succ_lt_succ hi)

theorem statusWord7_lt : s.statusWord7 < 65536 := by
  rw [State.statusWord7, fieldAt, fieldAt]
  have : slotStateBits ([5, 6, 7].map s.slot) < 8 ^ 3 := slotStateBits_lt ([5, 6, 7].map s.slot)
  have := optRunKind_lt s.run.kind
  have := optEndReason_lt (s.run.lastEnd.map (·.reason))
  omega

/-- The run's fields of word 7, from their places in the word, and the slot states below them. -/
theorem statusWord7_fields (hw : w.toNat = s.statusWord7) :
    w.toNat % 512 = slotStateBits ([5, 6, 7].map s.slot) ∧
    w.toNat / 512 % 4 = optPlace RunKind.place s.run.kind ∧
    w.toNat / 2048 % 16 = optPlace EndReason.place (s.run.lastEnd.map (·.reason)) := by
  rw [State.statusWord7, fieldAt, fieldAt] at hw
  have : slotStateBits ([5, 6, 7].map s.slot) < 8 ^ 3 := slotStateBits_lt ([5, 6, 7].map s.slot)
  have := optRunKind_lt s.run.kind
  have := optEndReason_lt (s.run.lastEnd.map (·.reason))
  omega

/-- Three bits below a place are those of the number cut off there. -/
theorem lowField {n i : Nat} (hi : i < 3) : n % 512 / 8 ^ i % 8 = n / 8 ^ i % 8 := by
  match i, hi with
  | 0, _ => omega
  | 1, _ => omega
  | 2, _ => omega

theorem statusWord9_lt (l : Link) : l.statusWord9 < 65536 := by
  simp only [Link.statusWord9, LinkFlags.bits, bitAt_eq]
  have := l.flags.parity.toNat_le
  have := l.flags.abandoned.toNat_le
  have := l.flags.unknown.toNat_le
  have := l.flags.wrongLink.toNat_le
  have := l.flags.late.toNat_le
  have := l.attention.toNat_le
  omega

/-- Each field of word 9, from its place in the word. -/
theorem statusWord9_fields {l : Link} (hw : w.toNat = l.statusWord9) :
    (w.toNat % 2 = 1 ↔ l.flags.parity = true) ∧ (w.toNat / 2 % 2 = 1 ↔ l.flags.abandoned = true) ∧
    (w.toNat / 4 % 2 = 1 ↔ l.flags.unknown = true) ∧ (w.toNat / 8 % 2 = 1 ↔ l.flags.wrongLink = true) ∧
    (w.toNat / 16 % 2 = 1 ↔ l.flags.late = true) ∧ (w.toNat / 32768 % 2 = 1 ↔ l.notices ≠ 0) := by
  simp only [Link.statusWord9, LinkFlags.bits, bitAt_eq] at hw
  have := l.flags.parity.toNat_le
  have := l.flags.abandoned.toNat_le
  have := l.flags.unknown.toNat_le
  have := l.flags.wrongLink.toNat_le
  have := l.flags.late.toNat_le
  have := l.attention.toNat_le
  refine ⟨iff_of_toNat ?_, iff_of_toNat ?_, iff_of_toNat ?_, iff_of_toNat ?_, iff_of_toNat ?_,
    (iff_of_toNat (b := l.attention) ?_).trans bne_iff_ne⟩ <;> omega

end Words

/-! ### The command (R188) -/

/-- READ STATUS is handed to its block during the pass too (R191). -/
theorem exec_readStatus (s : State) (link : MasterLink) :
    exec (.readStatus link) s = done (handed s link .readStatus []) := by
  rw [exec_spelled s rfl, transact_action rfl (.inr rfl) rfl (completes_of_arity (fun _ => rfl) rfl)]

theorem exec_readStatus_of_clean {s : State} (hc : s.TableClean) (link : MasterLink) :
    exec (.readStatus link) s = .next (s.answered link 0 (.accepted
      ([s.statusWord1, s.statusWord2, s.openingNow, s.statusWord4, s.statusWord5,
        slotStateBits ([0, 1, 2, 3, 4].map s.slot), s.statusWord7, s.requests.toNat,
        ((s.link link).taking 0).statusWord9].map (BitVec.ofNat 16)))) := by
  have hlink : (s.taking link 0).link link = (s.link link).taking 0 := link_modLink s link (·.taking 0)
  have hact := act_taking_of_clean hc .readStatus link []
  rw [exec_readStatus]
  refine handed_answered (hact.trans ?_)
  rw [← hlink]
  rfl

/-- Settles O12: the nine words are the sums of their fields, each read back from its place. -/
theorem readStatusReportsTheState : Obligations.ReadStatusReportsTheState := by
  intro link s hc hp hq hl ho
  have hbits : slotStateBits ([0, 1, 2, 3, 4].map s.slot) < 8 ^ 5 := slotStateBits_lt _
  have hslots : slotStateBits ([0, 1, 2, 3, 4].map s.slot) < 65536 := Nat.lt_trans hbits (by decide)
  obtain ⟨a1, a2, a3, a4, a5, a6, a7, a8, a9, a10, a11, a12⟩ := statusWord1_fields (toNat_ofNat_of_lt (@statusWord1_lt s))
  obtain ⟨b1, b2, b3, b4, b5, b6, b7, b8, b9⟩ := statusWord2_fields hp (toNat_ofNat_of_lt (statusWord2_lt hp))
  obtain ⟨d1, d2, d3, d4, d5, d6⟩ := statusWord4_fields hq hl (toNat_ofNat_of_lt (statusWord4_lt hq hl))
  obtain ⟨g1, g2, g3⟩ := statusWord7_fields (toNat_ofNat_of_lt (@statusWord7_lt s))
  obtain ⟨i1, i2, i3, i4, i5, i6⟩ := statusWord9_fields (toNat_ofNat_of_lt (statusWord9_lt ((s.link link).taking 0)))
  refine ⟨_, _, _, _, _, _, _, _, _, exec_readStatus_of_clean hc link, a1, a2, a3, a4, a5, a6, a7, a8, a9, a10, a11, a12,
    b1, b2, ?direction, ?picked, b5, b6, b7, ?wanted, b9, ?opening, d1, d2, d3, d4, d5, d6, ?overflow, ?low, ?high, ?kind,
    ?reason, ?requests, i1, i2, i3, i4, i5, i6⟩
  case direction => rw [b3]; rcases s.turn.direction with - | (- | -) <;> rfl
  case picked => rw [b4]; cases s.turn.picked <;> rfl
  case wanted => rw [b8]; rcases s.run.wanted with - | (- | -) <;> rfl
  case opening => exact (toNat_ofNat_of_lt (Nat.lt_succ_of_le ho)).trans (by unfold State.openingNow; cases s.active <;> rfl)
  case overflow => exact toNat_ofNat_of_lt statusWord5_lt
  case low =>
    intro i
    rw [toNat_ofNat_of_lt hslots, slotStateBits_field ([0, 1, 2, 3, 4].map s.slot) i.val i.isLt, List.getElem_map]
    match i with
    | 0 | 1 | 2 | 3 | 4 => rfl
  case high =>
    intro i
    rw [← lowField i.isLt, g1, slotStateBits_field ([5, 6, 7].map s.slot) i.val i.isLt, List.getElem_map]
    match i with
    | 0 | 1 | 2 => rfl
  case kind => rw [g2]; cases s.run.kind <;> rfl
  case reason => rw [g3]; cases s.run.lastEnd <;> rfl
  case requests => exact BitVec.ofNat_toNat _ _ ▸ BitVec.setWidth_eq _

end Sys2Proof.Proofs
end

section
/-! SUPPORT. The volume commands (R6 to R11): OPEN VOLUME, CLOSE VOLUME and FORGET VOLUME by their tests and effects,
over what a write and an erasure of leaf records leave. -/
namespace Sys2Proof.Proofs
open Sys2Proof.Machine Sys2Proof.Laws

/-! ### Leaf records by handle and number (R16) -/

theorem leafKey_div (h : Handle) {n : Nat} (hn : n ≤ 2047) : leafKey h n / Config.leavesPerHandle = h.place := by
  simp only [leafKey, Config.leavesPerHandle]
  omega

/-- A leaf record read after one was written. -/
theorem leaf_setLeaf {s : State} (c : s.Canonical) {h h' : Handle} {n n' : Nat} (hn : n ≤ 2047) (hn' : n' ≤ 2047)
    (r : LeafRecord) : (s.setLeaf h n r).leaf h' n' = if h = h' ∧ n = n' then r else s.leaf h' n' := by
  rw [State.leaf, State.setLeaf, get_set _ _ _ c.leaves]
  by_cases hk : leafKey h n = leafKey h' n'
  · rw [if_pos hk, if_pos (leafKey_inj hn hn' hk)]
  · rw [if_neg hk, if_neg fun e => hk (by rw [e.1, e.2])]
    rfl

theorem canonical_setLeaf {s : State} (c : s.Canonical) (h : Handle) (n : Nat) (r : LeafRecord) :
    (s.setLeaf h n r).Canonical := ⟨c.memory, wf_set _ _ c.leaves, c.gain⟩

/-- All leaf records of a handle erased. -/
def leavesErased (s : State) (h : Handle) : State :=
  { s with leaves := Sparse.erase s.leaves fun k => k / Config.leavesPerHandle = h.place }

theorem canonical_leavesErased {s : State} (c : s.Canonical) (h : Handle) : (leavesErased s h).Canonical :=
  ⟨c.memory, wf_erase (fun k => decide (k / Config.leavesPerHandle = h.place)) c.leaves, c.gain⟩

theorem place_inj {h h' : Handle} (e : h.place = h'.place) : h = h' := by
  cases h <;> cases h' <;> first | rfl | exact absurd e (by decide)

theorem leaf_leavesErased (s : State) (h h' : Handle) {n : Nat} (hn : n ≤ 2047) :
    (leavesErased s h).leaf h' n = if h' = h then LeafRecord.fresh .leaf else s.leaf h' n := by
  rw [State.leaf, leavesErased, get_erase, leafKey_div h' hn]
  by_cases hh : h' = h
  · rw [if_pos (decide_eq_true (congrArg Handle.place hh)), if_pos hh]
  · rw [if_neg (mt of_decide_eq_true (mt place_inj hh)), if_neg hh]
    rfl

/-- The leaf records of a volume just opened (R7, R16). -/
theorem leaf_freshLeaves {s : State} (c : s.Canonical) (h h' : Handle) {leaves n : Nat} (hl : leaves ≤ 2046)
    (hn : n ≤ 2047) :
    (s.freshLeaves h leaves).leaf h' n =
      if h' = h then
        LeafRecord.fresh (if n = 0 then .frontBoard else if n = leaves + 1 then .backBoard else .leaf)
      else s.leaf h' n := by
  have ce := canonical_leavesErased c h
  change (((leavesErased s h).setLeaf h 0 _).setLeaf h (leaves + 1) _).leaf h' n = _
  rw [leaf_setLeaf (canonical_setLeaf ce _ _ _) (by omega) hn, leaf_setLeaf ce (by omega) hn, leaf_leavesErased s h h' hn]
  by_cases hh : h' = h
  · subst hh
    by_cases h0 : n = 0
    · subst h0
      simp
    · by_cases hb : leaves + 1 = n
      · simp [← hb]
      · simp [h0, hb, Ne.symm h0, Ne.symm hb]
  · simp [hh, Ne.symm hh]

/-! ### OPEN VOLUME (R6, R7) -/

/-- The words of an OPEN VOLUME. -/
def openWords (part leaves : Word) (vc : BitVec 48) (sc : BitVec 32) (length : Word) (chars : List Word) : List Word :=
  [part, leaves] ++ split48 vc ++ split32 sc ++ [length] ++ chars

/-- What the words of an OPEN VOLUME with its characters carry. -/
theorem ofWords_openWords {part leaves length : Word} {vc : BitVec 48} {sc : BitVec 32} {chars : List Word} :
    OpenRequest.ofWords (openWords part leaves vc sc length chars) =
      { partSequence := part.toNat, leaves := leaves.toNat, volumeCeiling := vc.toNat, sideCeiling := sc.toNat
        length := length.toNat, chars := chars.take length.toNat } := by
  have hvc : arg48 (openWords part leaves vc sc length chars) 2 = vc.toNat := arg48_split48 vc
  have hsc : arg32 (openWords part leaves vc sc length chars) 5 = sc.toNat := arg32_split32 sc
  rw [OpenRequest.ofWords, hvc, hsc]
  rfl

theorem length_openWords (part leaves : Word) (vc : BitVec 48) (sc : BitVec 32) (length : Word) (chars : List Word) :
    (openWords part leaves vc sc length chars).length = 8 + chars.length := by
  simp only [openWords, split48, split32, List.length_append, List.length_cons, List.length_nil]

theorem exec_openVolume {s : State} (hi : s.initRunning = false) {part leaves length : Word} {vc : BitVec 48}
    {sc : BitVec 32} {chars : List Word} (hf : charsFit length chars = true) :
    exec (.openVolume part leaves vc sc length chars) s =
      done (handed s .station .openVolume (openWords part leaves vc sc length chars)) :=
  exec_action rfl rfl rfl (openVolume_completes hf) hi

theorem charOk_iff {w : Word} : charOk w = true ↔ 0x20 ≤ w.toNat ∧ w.toNat ≤ 0x7E := by
  rw [charOk, Bool.and_eq_true, decide_eq_true_iff, decide_eq_true_iff]

theorem openRequest_ok_iff {r : OpenRequest} :
    r.ok = true ↔ (1 ≤ r.leaves ∧ r.leaves ≤ 2046) ∧ r.partSequence ≤ 999 ∧ (1 ≤ r.length ∧ r.length ≤ 40) ∧
      ∀ c ∈ r.chars, 0x20 ≤ c.toNat ∧ c.toNat ≤ 0x7E := by
  simp only [OpenRequest.ok, Bool.and_eq_true, decide_eq_true_iff, List.all_eq_true, charOk_iff, and_assoc]

section OpenTests
variable {s : State} {r : OpenRequest}

theorem openVolume_of_busy (ha : s.active ≠ none) : openVolume r s = (.refused .busy, s) := by
  rw [openVolume, if_pos (Option.isSome_iff_ne_none.2 ha)]

variable (ha : s.active = none)
include ha

theorem openVolume_of_full (he : s.emptyHandle = none) : openVolume r s = (.refused .tableFull, s) := by
  simp [openVolume, ha, he]

variable {h : Handle} (he : s.emptyHandle = some h) (hp : s.cradle.parityGood = true)
include he hp

theorem openVolume_of_moving (ho : s.cradle.state ≠ .opened) (hh : s.cradle.state ≠ .halted) :
    openVolume r s = (.refused .cradleState, s) := by
  simp [openVolume, ha, he, hp, ho, hh]

variable (hs : s.cradle.state = .opened ∨ s.cradle.state = .halted)
include hs

theorem openVolume_of_bad (hr : ¬r.ok = true) : openVolume r s = (.refused .badParam, s) := by
  simp only [openVolume, ha, he, hp, if_neg (not_moving hs), if_neg hr, Option.isSome_none, Bool.false_eq_true,
    Bool.true_eq_false, if_false]

theorem openVolume_of_ok (hr : r.ok = true) :
    openVolume r s = (.accepted (num16 h.place ++ num16 (nextSerial s.serial)), s.openIn h r) := by
  simp only [openVolume, ha, he, hp, if_neg (not_moving hs), if_pos hr, Option.isSome_none, Bool.false_eq_true,
    Bool.true_eq_false, if_false]

end OpenTests

/-- The handle OPEN VOLUME takes is the lower of the EMPTY ones (R6). -/
theorem emptyHandle_of_lowest {s : State} {h : Handle} (he : (s.vol h).state = .empty)
    (hl : h = .one → s.vols.zero.state ≠ .empty) : s.emptyHandle = some h := by
  cases h with
  | zero => exact if_pos he
  | one => rw [State.emptyHandle, if_neg (hl rfl)]; exact if_pos he

theorem emptyHandle_eq_none {s : State} (hz : s.vols.zero.state ≠ .empty) (ho : s.vols.one.state ≠ .empty) :
    s.emptyHandle = none := by rw [State.emptyHandle, if_neg hz, if_neg ho]

theorem emptyHandle_of_some_empty {s : State} (he : s.vols.zero.state = .empty ∨ s.vols.one.state = .empty) :
    ∃ h, s.emptyHandle = some h := by
  by_cases hz : s.vols.zero.state = .empty
  · exact ⟨.zero, if_pos hz⟩
  · exact ⟨.one, by rw [State.emptyHandle, if_neg hz, if_pos (he.resolve_left hz)]⟩

/-- Characters that fit their length word are all taken, or the length word is out of range. -/
theorem chars_taken {length : Word} {chars : List Word} (hf : charsFit length chars = true) :
    chars.take length.toNat = chars := by
  rw [charsFit] at hf
  split at hf
  next => exact List.take_of_length_le (Nat.le_of_eq (of_decide_eq_true hf))
  next => rw [List.length_eq_zero_iff.1 (of_decide_eq_true hf), List.take_nil]

/-- OPEN VOLUME, clocked whole on a clean table, acts by R6 on the state its words have come in to. -/
theorem act_openVolume {s : State} (hc : s.TableClean) {part leaves length : Word} {vc : BitVec 48}
    {sc : BitVec 32} {chars : List Word} (hf : charsFit length chars = true) :
    Cmd.act .openVolume .station (openWords part leaves vc sc length chars)
        (s.taking .station (openWords part leaves vc sc length chars).length) =
      openVolume ⟨part.toNat, leaves.toNat, vc.toNat, sc.toNat, length.toNat, chars⟩
        (s.taking .station (8 + chars.length)) := by
  rw [act_taking_of_clean hc, length_openWords]
  exact (congrArg (openVolume · _) (ofWords_openWords.trans (by rw [chars_taken hf])))

theorem nextSerial_eq {n : Nat} (hn : n ≤ 65535) : nextSerial n = if n = 65535 then 1 else n + 1 := by
  rw [nextSerial]
  by_cases h : n = 65535
  · rw [if_neg (by omega), if_pos h]
  · rw [if_pos (by omega), if_neg h]

/-- Settles O13: OPEN VOLUME's tests each in its place, and what the one that passes them writes. -/
protected theorem openVolume : Obligations.OpenVolume := by
  refine ⟨fun s part leaves length vc sc chars h hi hcanon hc ha hp hs he hlow hl1 hl2 hpart hn1 hn2 hlen hchars =>
    ?opens, fun s part leaves length vc sc chars hi hc hp hf => ?refuses⟩
  case opens =>
    intro serial hserial
    have hf : charsFit length chars = true := by
      rw [charsFit, if_pos ⟨hn1, hn2⟩]
      exact decide_eq_true hlen
    have hok : (OpenRequest.mk part.toNat leaves.toNat vc.toNat sc.toNat length.toNat chars).ok = true :=
      openRequest_ok_iff.2 ⟨⟨hl1, hl2⟩, hpart, ⟨hn1, hn2⟩, hchars⟩
    have hnext : nextSerial s.serial = serial := nextSerial_eq hserial
    have hact := (act_openVolume (part := part) (leaves := leaves) (vc := vc) (sc := sc) hc hf).trans
      (openVolume_of_ok (s := s.taking .station (8 + chars.length)) ha (emptyHandle_of_lowest he hlow) hp hs hok)
    refine ⟨_, (exec_openVolume hi hf).trans (handed_next hact), ?volume, ?leaf, ?otherLeaf, ?frame⟩
    case volume =>
      rw [← hnext]
      cases h <;> rfl
    case leaf =>
      intro n hn
      have hleaf := leaf_freshLeaves hcanon h h hl2 hn
      rw [if_pos rfl] at hleaf
      exact hleaf
    case otherLeaf =>
      intro h' n hne hn
      have hleaf := leaf_freshLeaves hcanon h h' hl2 hn
      rw [if_neg hne] at hleaf
      exact hleaf
    case frame =>
      rw [← hnext]
      cases h <;> rfl
  case refuses =>
    have refused {r : Reason}
        (hr : openVolume ⟨part.toNat, leaves.toNat, vc.toNat, sc.toNat, length.toNat, chars⟩
          (s.taking .station (8 + chars.length)) = (.refused r, s.taking .station (8 + chars.length))) :
        exec (.openVolume part leaves vc sc length chars) s =
          .next (s.answered .station (8 + chars.length) (.refused r)) := by
      rw [exec_openVolume hi hf, ← length_openWords part leaves vc sc length chars]
      rw [← length_openWords part leaves vc sc length chars] at hr
      refine handed_answered ((act_openVolume hc hf).trans ?_)
      rwa [← length_openWords part leaves vc sc length chars]
    refine ⟨fun ha => refused (openVolume_of_busy ha),
      fun ha hz ho => refused (openVolume_of_full (s := s.taking .station _) ha (emptyHandle_eq_none hz ho)),
      fun ha he hno hnh => ?cradleState, fun ha he hs hbad => ?badParam⟩
    case cradleState =>
      obtain ⟨h, hh⟩ := emptyHandle_of_some_empty he
      exact refused (openVolume_of_moving (s := s.taking .station _) ha hh hp hno hnh)
    case badParam =>
      obtain ⟨h, hh⟩ := emptyHandle_of_some_empty he
      refine refused (openVolume_of_bad (s := s.taking .station _) ha hh hp hs fun hok => ?_)
      obtain ⟨hleaves, hpart, hlength, hchars⟩ := openRequest_ok_iff.1 hok
      obtain hb | hb | hb | ⟨c, hcmem, hb⟩ := hbad
      · exact hb hleaves
      · exact Nat.not_lt_of_le hpart hb
      · exact hb hlength
      · have := hchars c hcmem
        omega

end Sys2Proof.Proofs
end

section
/-! SUPPORT. CLOSE VOLUME and FORGET VOLUME (R8, R11): whose slots are whose, and the tests and effects of the two. -/
namespace Sys2Proof.Proofs
open Sys2Proof.Machine Sys2Proof.Laws

/-! ### Handles and slots (R1, R26) -/

theorem handleOf_of_ge {n : Nat} (hn : 2 ≤ n) : handleOf n = none := by
  match n, hn with
  | n + 2, _ => rfl

theorem handleOf_place (h : Handle) : handleOf h.place = some h := by cases h <;> rfl

theorem mem_allSlots (i : SlotNo) : i ∈ allSlots := by
  revert i
  decide

theorem slot_ownedBy_iff {x : Slot} {h : Handle} :
    x.ownedBy h = true ↔ x.state ≠ .free ∧ ∃ o, x.owner = some o ∧ o.handle = h := by
  rw [Slot.ownedBy]
  cases x.owner with
  | none => simp
  | some o => simp

/-- A volume owns a slot when some slot that is not FREE names it. -/
theorem ownsSlot_iff {s : State} {h : Handle} :
    s.ownsSlot h = true ↔ ∃ i o, (s.slot i).state ≠ .free ∧ (s.slot i).owner = some o ∧ o.handle = h := by
  rw [State.ownsSlot, List.any_eq_true]
  constructor
  · rintro ⟨i, -, hi⟩
    obtain ⟨hfree, o, hown, hh⟩ := slot_ownedBy_iff.1 hi
    exact ⟨i, o, hfree, hown, hh⟩
  · rintro ⟨i, o, hfree, hown, hh⟩
    exact ⟨i, mem_allSlots i, slot_ownedBy_iff.2 ⟨hfree, o, hown, hh⟩⟩

theorem ownsHeld_iff {s : State} {h : Handle} :
    s.ownsHeld h = true ↔ ∃ i o, (s.slot i).state = .provisional ∧ (s.slot i).owner = some o ∧ o.handle = h := by
  rw [State.ownsHeld, List.any_eq_true]
  constructor
  · rintro ⟨i, -, hi⟩
    obtain ⟨hstate, hown⟩ := Bool.and_eq_true_iff.1 hi
    obtain ⟨-, o, ho, hh⟩ := slot_ownedBy_iff.1 hown
    exact ⟨i, o, of_decide_eq_true hstate, ho, hh⟩
  · rintro ⟨i, o, hstate, ho, hh⟩
    have hfree : (s.slot i).state ≠ .free := by simp [hstate]
    exact ⟨i, mem_allSlots i, Bool.and_eq_true_iff.2
      ⟨decide_eq_true hstate, slot_ownedBy_iff.2 ⟨hfree, o, ho, hh⟩⟩⟩

theorem normalInFlight_iff {s : State} :
    s.normalInFlight = true ↔
      ∃ p c, (s.head p).phase = .capturing ∧ (s.head p).capture = some c ∧ c.kind = .normal := by
  have one (p : Head) : (decide ((s.head p).phase = .capturing) &&
      (match (s.head p).capture with
       | some c => decide (c.kind = .normal)
       | none => false)) = true ↔
      ∃ c, (s.head p).phase = .capturing ∧ (s.head p).capture = some c ∧ c.kind = .normal := by
    cases (s.head p).capture <;> simp
  rw [State.normalInFlight, List.any_eq_true]
  constructor
  · rintro ⟨p, -, hp⟩
    exact ⟨p, (one p).1 hp⟩
  · rintro ⟨p, hp⟩
    exact ⟨p, by cases p <;> simp, (one p).2 hp⟩

/-! ### CLOSE VOLUME (R8) -/

section Close
variable {s : State}

theorem closeVolume_of_noVolume (ha : s.active = none) : closeVolume s = (.refused .noVolume, s) := by
  rw [closeVolume, ha]

variable {h : Handle} (ha : s.active = some h)
include ha

theorem closeVolume_of_running (hr : s.run.state ≠ .idle) : closeVolume s = (.refused .runActive, s) := by
  simp only [closeVolume, ha, runActive_of_busy hr, if_true]

variable (hr : s.run.state = .idle)
include hr

theorem closeVolume_of_flying (hf : s.normalInFlight = true) : closeVolume s = (.refused .exposureInFlight, s) := by
  simp only [closeVolume, ha, runActive_of_idle hr, hf, Bool.false_eq_true, if_false, if_true]

variable (hf : s.normalInFlight = false)
include hf

theorem closeVolume_of_held (ho : s.ownsHeld h = true) : closeVolume s = (.refused .undecided, s) := by
  simp only [closeVolume, ha, runActive_of_idle hr, hf, ho, Bool.false_eq_true, if_false, if_true]

theorem closeVolume_of_free (ho : s.ownsHeld h = false) :
    closeVolume s = (.accepted (s.retiredState h).word,
      (s.modVol h fun v => { v with state := s.retiredState h }).emptyRescan) := by
  simp only [closeVolume, ha, runActive_of_idle hr, hf, ho, Bool.false_eq_true, if_false]

end Close

theorem act_closeVolume {s : State} (hc : s.TableClean) :
    Cmd.act .closeVolume .station [] (s.taking .station 0) = closeVolume (s.taking .station 0) :=
  act_taking_of_clean hc .closeVolume .station []

theorem exec_closeVolume {s : State} (hi : s.initRunning = false) :
    exec .closeVolume s = done (handed s .station .closeVolume []) :=
  exec_action rfl rfl rfl (completes_of_arity (fun _ => rfl) rfl) hi

/-- The state a volume that leaves ACTIVE takes is the one of DRAINING and CLOSED that fits its slots (R8). -/
theorem retiredState_eq {s : State} {h : Handle} {after : VolumeState}
    (hd : after = .draining ↔
      ∃ st, st ≠ SlotState.free ∧ ∃ i o, (s.slot i).state = st ∧ (s.slot i).owner = some o ∧ o.handle = h)
    (hp : after = .draining ∨ after = .closed) : s.retiredState h = after := by
  rw [State.retiredState]
  by_cases ho : s.ownsSlot h = true
  · obtain ⟨i, o, hfree, hown, hh⟩ := ownsSlot_iff.1 ho
    rw [if_pos ho, hd.2 ⟨_, hfree, i, o, rfl, hown, hh⟩]
  · have hnot : after ≠ .draining := fun e => by
      obtain ⟨st, hfree, i, o, hst, hown, hh⟩ := hd.1 e
      exact ho (ownsSlot_iff.2 ⟨i, o, hst ▸ hfree, hown, hh⟩)
    rw [if_neg ho, hp.resolve_left hnot]

/-- A CLOSE VOLUME that its block carries out on a clean table writes one record and empties the list. -/
theorem handed_closeVolume {s : State} (hc : s.TableClean) {h : Handle} {after : VolumeState} {r : Reply}
    (hact : closeVolume (s.taking .station 0) =
      (r, ((s.taking .station 0).modVol h fun v => { v with state := after }).emptyRescan)) :
    done (handed s .station .closeVolume []) = .next
      { s.answered .station 0 r with
        vols := s.vols.set h { s.vol h with state := after }, rescan := [], rescanErrors := ⟨0, 0⟩ } := by
  rw [handed_next ((act_closeVolume hc).trans hact), modVol_of_clean (vol_clean (taking_tableClean hc .station 0) h)]
  rfl

/-! ### FORGET VOLUME (R11) -/

theorem act_forgetVolume {s : State} (hc : s.TableClean) (w : Word) :
    Cmd.act .forgetVolume .station [w] (s.taking .station 1) = forgetVolume w.toNat (s.taking .station 1) :=
  act_taking_of_clean hc .forgetVolume .station [w]

theorem exec_forgetVolume {s : State} (hi : s.initRunning = false) (w : Word) :
    exec (.forgetVolume w) s = done (handed s .station .forgetVolume [w]) :=
  exec_action rfl rfl rfl (completes_of_arity (fun _ => rfl) rfl) hi

theorem forgetVolume_of_noHandle {n : Nat} (hn : 2 ≤ n) (s : State) :
    forgetVolume n s = (.refused .badParam, s) := by
  rw [forgetVolume, handleOf_of_ge hn]

theorem forgetVolume_eq (h : Handle) (s : State) :
    forgetVolume h.place s = match (s.vol h).state with
      | .empty => (.refused .noVolume, s)
      | .active | .draining => (.refused .busy, s)
      | .closed => (.accepted [], s.putVol h Volume.empty) := by
  rw [forgetVolume, handleOf_place] <;> rfl

/-- Settles O14: the tests of the two commands each in its place, and what each writes. -/
theorem closeAndForgetVolume : Obligations.CloseAndForgetVolume := by
  refine ⟨fun s hi hc => ?close, fun s w hi hc => ?forget⟩
  case close =>
    have refused {r : Reason} (ha : closeVolume (s.taking .station 0) = (.refused r, s.taking .station 0)) :
        exec .closeVolume s = .next (s.answered .station 0 (.refused r)) :=
      (exec_closeVolume hi).trans (handed_answered ((act_closeVolume hc).trans ha))
    refine ⟨fun ha => refused (closeVolume_of_noVolume (s := s.taking .station 0) ha), fun h ha =>
      ⟨fun hr => refused (closeVolume_of_running (s := s.taking .station 0) ha hr),
       fun hr hf => refused (closeVolume_of_flying (s := s.taking .station 0) ha hr (normalInFlight_iff.2 hf)),
       fun hr hf ho => ?undecided, fun hr hf ho after hd hp => ?accepted⟩⟩
    case undecided =>
      have hflying : s.normalInFlight = false := eq_false_of_ne_true (mt normalInFlight_iff.1 hf)
      exact refused (closeVolume_of_held (s := s.taking .station 0) ha hr hflying (ownsHeld_iff.2 ho))
    case accepted =>
      have hflying : s.normalInFlight = false := eq_false_of_ne_true (mt normalInFlight_iff.1 hf)
      have hheld : s.ownsHeld h = false := eq_false_of_ne_true (mt ownsHeld_iff.1 ho)
      have hstate : (s.taking .station 0).retiredState h = after := retiredState_eq (s := s.taking .station 0) hd hp
      have hact := closeVolume_of_free (s := s.taking .station 0) ha hr hflying hheld
      rw [hstate] at hact
      exact (exec_closeVolume hi).trans (handed_closeVolume hc hact)
  case forget =>
    have refused {r : Reason} (ha : forgetVolume w.toNat (s.taking .station 1) = (.refused r, s.taking .station 1)) :
        exec (.forgetVolume w) s = .next (s.answered .station 1 (.refused r)) :=
      (exec_forgetVolume hi w).trans (handed_answered ((act_forgetVolume hc w).trans ha))
    refine ⟨fun hn => refused (forgetVolume_of_noHandle hn _), fun h hw => ?_⟩
    have heq := forgetVolume_eq h (s.taking .station 1)
    have hvol : (s.taking .station 1).vol h = s.vol h := rfl
    rw [← hw, hvol] at heq
    refine ⟨fun he => ?empty, fun he => ?busy, fun he => ?closed⟩
    case empty => exact refused (by rw [heq, he])
    case busy => exact refused (by rcases he with he | he <;> rw [heq, he])
    case closed =>
      rw [he] at heq
      rw [exec_forgetVolume hi, handed_next ((act_forgetVolume hc w).trans heq)]
      rfl

end Sys2Proof.Proofs
end

section
/-! SUPPORT. Reads through check codes (R178, R179) with what each corrects and counts, and the side summary (R20). -/
namespace Sys2Proof.Proofs
open Sys2Proof.Machine Sys2Proof.Laws

/-! ### The fault counts (R186, R198) -/

/-- The class of a place. -/
def classAt (i : Fin 13) : FaultClass :=
  [.recoveredAccount, .recoveredGain, .recoveredCapture, .leafDamage, .gainSubstitute, .dataDamage, .headError,
    .headTimeout, .travelTimeout, .turnTimeout, .turner, .stop, .interlockCheck][i]

theorem classAt_place (c : FaultClass) : classAt c.place = c := by cases c <;> rfl

theorem faultPlace_inj {c d : FaultClass} (h : c.place = d.place) : c = d :=
  (Function.LeftInverse.injective classAt_place) h

/-- A class's count after another, or the same, was raised. -/
theorem count_raise (f : FaultReport) (c d : FaultClass) (k : Nat) :
    (f.raise c k).counts[d.place] = if d = c then min (f.counts[d.place] + k) 65535 else f.counts[d.place] := by
  by_cases h : d = c
  · subst h
    rw [if_pos rfl]
    exact Vector.getElem_set_self _
  · have hne : c.place.val ≠ d.place.val := fun e => h (faultPlace_inj (Fin.ext e.symm))
    rw [if_neg h]
    exact Vector.getElem_set_ne c.place.isLt d.place.isLt hne

/-! ### Reading a leaf record (R178, R179) -/

theorem leaf_setLeaf_same {s : State} (c : s.Canonical) (h : Handle) (n : Nat) (r : LeafRecord) :
    (s.setLeaf h n r).leaf h n = r := by
  rw [State.leaf, State.setLeaf, get_set _ _ _ c.leaves, if_pos rfl]

theorem readLeaf_of_invalid {s : State} {h : Handle} {n : Nat} (hv : (s.leaf h n).valid = false)
    (ws : List LeafWord) : s.readLeaf h n ws = (false, s) := by
  simp [State.readLeaf, hv]

/-- A read of a record with no bit error changes nothing. -/
theorem readLeaf_of_clean {s : State} {h : Handle} {n : Nat} (hv : (s.leaf h n).valid = true)
    (he : (s.leaf h n).errors = []) (ws : List LeafWord) : s.readLeaf h n ws = (true, s) := by
  simp [State.readLeaf, hv, he]

/-- Some of the words read cannot be corrected. -/
def meetsUncorrectable (r : LeafRecord) (ws : List LeafWord) : Prop :=
  ∃ e ∈ r.errors, e.1 ∈ ws ∧ e.2 = .uncorrectable

theorem any_uncorrectable_iff {r : LeafRecord} {ws : List LeafWord} :
    r.errors.any (fun e => e.2 == .uncorrectable && ws.contains e.1) = true ↔ meetsUncorrectable r ws := by
  simp only [List.any_eq_true, Bool.and_eq_true, beq_iff_eq, List.contains_iff_mem, meetsUncorrectable, and_comm]

theorem readLeaf_of_bad {s : State} {h : Handle} {n : Nat} {ws : List LeafWord} (hv : (s.leaf h n).valid = true)
    (hb : meetsUncorrectable (s.leaf h n) ws) : s.readLeaf h n ws = (false, s.damageLeaf h n) := by
  rw [State.readLeaf]
  simp only [hv, any_uncorrectable_iff.2 hb, Bool.not_true, Bool.false_eq_true, if_false, if_true]

/-- What a record found uncorrectable leaves, on a table without bit errors. -/
theorem damageLeaf_of_clean {s : State} {h : Handle} (hv : (s.vol h).errors.single = 0) (n : Nat) :
    s.damageLeaf h n = State.report
      { s.setLeaf h n { s.leaf h n with valid := false } with
        vols := s.vols.set h { s.vol h with
          counters := { (s.vol h).counters with damagedLeaves := (s.vol h).counters.damagedLeaves + 1 } } }
      { FaultRecord.plain .leafDamage with volume := some (h, (s.vol h).serial), leaf := some n } := by
  rw [State.damageLeaf, count_of_clean (s := s.setLeaf h n _) hv]
  rfl

/-- The state in which the single errors among some words of a record have been corrected and counted. -/
def leafCorrected (s : State) (h : Handle) (n : Nat) (ws : List LeafWord) : State :=
  if (s.leaf h n).errors.countP (fun e => ws.contains e.1) = 0 then s
  else
    (s.setLeaf h n
      { s.leaf h n with errors := (s.leaf h n).errors.filter fun e => !ws.contains e.1 }).recovered .recoveredAccount
      ((s.leaf h n).errors.countP fun e => ws.contains e.1)

theorem leafCorrected_of_some {s : State} {h : Handle} {n : Nat} {ws : List LeafWord}
    (hw : (s.leaf h n).errors.countP (fun e => ws.contains e.1) ≠ 0) :
    leafCorrected s h n ws = (s.setLeaf h n
      { s.leaf h n with errors := (s.leaf h n).errors.filter fun e => !ws.contains e.1 }).recovered .recoveredAccount
      ((s.leaf h n).errors.countP fun e => ws.contains e.1) := if_neg hw

theorem readLeaf_of_good {s : State} {h : Handle} {n : Nat} {ws : List LeafWord} (hv : (s.leaf h n).valid = true)
    (hb : ¬meetsUncorrectable (s.leaf h n) ws) : s.readLeaf h n ws = (true, leafCorrected s h n ws) := by
  rw [State.readLeaf, leafCorrected]
  simp only [hv, eq_false_of_ne_true (mt any_uncorrectable_iff.1 hb), Bool.not_true, Bool.false_eq_true,
    if_false]
  by_cases hw : (s.leaf h n).errors.any (fun e => ws.contains e.1) = true
  · have hpos : (s.leaf h n).errors.countP (fun e => ws.contains e.1) ≠ 0 :=
      Nat.ne_of_gt (List.countP_pos_iff.2 (List.any_eq_true.1 hw))
    rw [if_pos hw, if_neg hpos]
  · have hzero : (s.leaf h n).errors.countP (fun e => ws.contains e.1) = 0 :=
      Nat.eq_zero_of_not_pos fun hpos => hw (List.any_eq_true.2 (List.countP_pos_iff.1 hpos))
    rw [if_neg hw, if_pos hzero]

/-- What a correction leaves of the record it read. -/
theorem leaf_leafCorrected {s : State} (c : s.Canonical) (h : Handle) (n : Nat) (ws : List LeafWord) :
    (leafCorrected s h n ws).leaf h n =
      { s.leaf h n with errors := (s.leaf h n).errors.filter fun e => !ws.contains e.1 } := by
  rw [leafCorrected]
  split
  next hzero =>
    have hnone := List.countP_eq_zero.1 hzero
    have hall : (s.leaf h n).errors.filter (fun e => !ws.contains e.1) = (s.leaf h n).errors :=
      List.filter_eq_self.2 fun e he => by simpa using hnone e he
    rw [hall]
  next => exact leaf_setLeaf_same c h n _

/-! ### Reading a volume record and the rescan list (R178, log 6) -/

/-- A fault report in which so many corrections in the account have been counted, and that is otherwise another. -/
def Counted (f g : FaultReport) (k : Nat) : Prop :=
  g.record = f.record ∧ g.skipped = f.skipped ∧
    ∀ c : FaultClass, g.counts[c.place] =
      if c = .recoveredAccount then min (f.counts[c.place] + k) 65535 else f.counts[c.place]

theorem counted_raise (f : FaultReport) (k : Nat) : Counted f (f.raise .recoveredAccount k) k :=
  ⟨rfl, rfl, fun c => count_raise f .recoveredAccount c k⟩

theorem readVolume_of_errors {s : State} {h : Handle} (he : 0 < (s.vol h).errors.single) :
    s.readVolume h = { s with
      vols := s.vols.set h { s.vol h with errors := ⟨0, (s.vol h).errors.uncorrectable⟩ }
      faults := s.faults.raise .recoveredAccount (s.vol h).errors.single } := by
  rw [State.readVolume, if_neg (Nat.ne_of_gt he)]
  rfl

theorem modVol_of_errors {s : State} {h : Handle} (he : 0 < (s.vol h).errors.single) (g : Volume → Volume) :
    s.modVol h g = { s with
      vols := s.vols.set h (g { s.vol h with errors := ⟨0, (s.vol h).errors.uncorrectable⟩ })
      faults := s.faults.raise .recoveredAccount (s.vol h).errors.single } := by
  rw [State.modVol, readVolume_of_errors he]
  cases h <;> rfl

theorem readRescan_of_errors {s : State} (he : 0 < s.rescanErrors.single) :
    s.readRescan = { s with
      rescanErrors := ⟨0, s.rescanErrors.uncorrectable⟩
      faults := s.faults.raise .recoveredAccount s.rescanErrors.single } := by
  rw [State.readRescan, if_neg (Nat.ne_of_gt he)]
  rfl

theorem exec_readVolume {s : State} (hi : s.initRunning = false) (w : Word) :
    exec (.readVolume w) s = done (handed s .station .readVolume [w]) :=
  exec_action rfl rfl rfl (completes_of_arity (fun _ => rfl) rfl) hi

theorem exec_rescanHead {s : State} (hi : s.initRunning = false) (link : MasterLink) :
    exec (.rescanHead link) s = done (handed s link .rescanHead []) :=
  exec_action rfl rfl rfl (completes_of_arity (fun _ => rfl) rfl) hi

theorem readVolume_of_present {s : State} {h : Handle} (he : (s.vol h).state ≠ .empty) :
    Machine.readVolume h.place s = (.accepted ((s.vol h).words h), s) := by
  rw [Machine.readVolume, handleOf_place]
  exact if_neg he

@[simp] theorem active_readRescan (s : State) : s.readRescan.active = s.active := by
  rw [State.readRescan]
  split <;> rfl

theorem rescanHead_of_active {s : State} {h : Handle} (ha : s.active = some h) :
    rescanHead s = (.accepted (s.rescanWords h ++ optWords rescanEntryWords s.rescan.head?), s) := by
  rw [rescanHead, ha]

/-- READ VOLUME reads the record it names before its block answers. -/
theorem act_readVolume {s : State} {h : Handle} {w : Word} (hw : w.toNat = h.place) :
    Cmd.act .readVolume .station [w] s = Machine.readVolume h.place (s.readVolume h) := by
  have hread : Cmd.readTable .readVolume [w] s = s.readVolume h := by
    have hone : Cmd.volumesRead .readVolume [w] s = [h] :=
      (congrArg (fun n => (handleOf n).toList) hw).trans (by rw [handleOf_place]; rfl)
    rw [Cmd.readTable, hone]
    rfl
  rw [Cmd.act, hread, ← hw]
  rfl

/-- RESCAN HEAD reads the ACTIVE volume's record and the list before its block answers. -/
theorem act_rescanHead {s : State} {h : Handle} (ha : s.active = some h) (hv : (s.vol h).errors.single = 0)
    (link : MasterLink) : Cmd.act .rescanHead link [] s = rescanHead s.readRescan := by
  have hread : Cmd.readTable .rescanHead [] s = s.readRescan := by
    have hone : Cmd.volumesRead .rescanHead [] s = [h] := congrArg Option.toList ha
    rw [Cmd.readTable, hone, List.foldl_cons, List.foldl_nil, readVolume_of_clean hv]
    rfl
  rw [Cmd.act, hread]
  rfl

/-! ### The side summary (R20) -/

section Summary
variable {f : FaceRecord}

/-- What is asked of a panel's settled part, asked of the entry the list holds. -/
theorem panel_settled_iff (hu : ∀ e ∈ f.panels, ∀ e' ∈ f.panels, e.number = e'.number → e = e')
    {q : Settled → Bool} (hq : q .none = false) (p : Nat) :
    q (f.panel p).settled = true ↔ ∃ e ∈ f.panels, e.number = p ∧ q e.settled = true := by
  rw [FaceRecord.panel, FaceRecord.panel?]
  cases hfind : f.panels.find? (fun e => e.number = p) with
  | none =>
    have hnone := List.find?_eq_none.1 hfind
    refine iff_of_false ?_ fun ⟨e, he, hp, _⟩ => hnone e he (decide_eq_true hp)
    exact fun h => Bool.false_ne_true (hq.symm.trans h)
  | some e =>
    have hmem := List.mem_of_find?_eq_some hfind
    have hnum : e.number = p := of_decide_eq_true (List.find?_some (p := fun e : PanelEntry => decide (e.number = p)) hfind)
    refine ⟨fun h => ⟨e, hmem, hnum, h⟩, fun ⟨e', hmem', hnum', h⟩ => ?_⟩
    rw [hu e' hmem' e hmem (hnum'.trans hnum.symm)] at h
    exact h

theorem isSettled_iff {x : Settled} : x.isSettled = true ↔ x ≠ .none := by cases x <;> simp [Settled.isSettled]

theorem isDelivered_iff {x : Settled} : x.isDelivered = true ↔ ∃ c, x = .delivered c := by
  cases x <;> simp [Settled.isDelivered]

/-- What is asked of the panel numbers is asked of 1 to the declared count. -/
theorem numbers_all_iff {q : Nat → Bool} :
    f.numbers.all q = true ↔ ∀ p, 1 ≤ p → p ≤ f.declared → q p = true := by
  simp only [FaceRecord.numbers, List.all_map, List.all_eq_true, List.mem_range]
  refine ⟨fun h p h1 h2 => ?_, fun h i hi => h (i + 1) (by omega) (by omega)⟩
  have := h (p - 1) (by omega)
  rwa [Function.comp_apply, Nat.sub_add_cancel h1] at this

theorem anySettled_iff :
    f.panels.any (fun e => e.settled.isSettled) = true ↔ ∃ p, ∃ e ∈ f.panels, e.number = p ∧ e.settled ≠ .none := by
  simp only [List.any_eq_true, isSettled_iff]
  exact ⟨fun ⟨e, he, h⟩ => ⟨_, e, he, rfl, h⟩, fun ⟨_, e, he, _, h⟩ => ⟨e, he, h⟩⟩

variable (hu : ∀ e ∈ f.panels, ∀ e' ∈ f.panels, e.number = e'.number → e = e')
include hu

theorem allSettled_iff :
    f.allSettled = true ↔
      ∀ p, 1 ≤ p → p ≤ f.declared → ∃ e ∈ f.panels, e.number = p ∧ e.settled ≠ .none := by
  rw [FaceRecord.allSettled, numbers_all_iff]
  simp only [FaceRecord.isSettled, panel_settled_iff hu (q := Settled.isSettled) rfl, isSettled_iff]

theorem allDelivered_iff :
    f.numbers.all (fun p => (f.panel p).settled.isDelivered) = true ↔
      ∀ p, 1 ≤ p → p ≤ f.declared → ∃ e ∈ f.panels, e.number = p ∧ ∃ c, e.settled = .delivered c := by
  rw [numbers_all_iff]
  simp only [panel_settled_iff hu (q := Settled.isDelivered) rfl, isDelivered_iff]

end Summary

/-- Settles O18: a leaf read by what its words hold, a table read by its count of single errors, and the summary by
the rows of R20's table. -/
theorem readingARecordAndItsSummary : Obligations.ReadingARecordAndItsSummary := by
  refine ⟨fun s h n ws hcanon hc => ⟨readLeaf_of_invalid (ws := ws), fun hv hb => ?damaged, fun hv hb => ?corrected⟩,
    fun s k => ⟨fun h hk => ?volume, fun hk => ?rescan⟩, fun f _ hu hd => ?summary⟩
  case damaged =>
    refine ⟨_, readLeaf_of_bad hv hb, ?_, ?_, ?_, ?_, ?_, ?_⟩ <;> rw [damageLeaf_of_clean (vol_clean hc h)]
    · exact leaf_setLeaf_same hcanon h n _
    · exact PerHandle_get_set_same _ _ _
    · rfl
    · exact (count_raise s.faults .leafDamage .leafDamage 1).trans (if_pos rfl)
    · rfl
    · cases h <;> rfl
  case corrected =>
    have hleaf := leaf_leafCorrected hcanon h n ws
    by_cases hz : (s.leaf h n).errors.countP (fun e => ws.contains e.1) = 0
    · have hsame : leafCorrected s h n ws = s := if_pos hz
      exact ⟨_, readLeaf_of_good hv hb, hleaf, by rw [hsame], by rw [hsame, if_pos hz], by rw [hsame]⟩
    · refine ⟨_, readLeaf_of_good hv hb, hleaf, ?_, ?_, ?_⟩ <;> rw [leafCorrected_of_some hz]
      · rfl
      · rw [if_neg hz]
        exact (count_raise s.faults .recoveredAccount .recoveredAccount _).trans (if_pos rfl)
      · rfl
  case volume =>
    subst hk
    refine ⟨fun h0 => readVolume_of_clean h0, fun hpos => ⟨_, counted_raise _ _, readVolume_of_errors hpos⟩,
      fun g => ?part, fun w hw hi hstate hpos => ?command⟩
    case part =>
      rcases Nat.eq_zero_or_pos (s.vol h).errors.single with h0 | hpos
      · refine ⟨s.faults, fun _ => rfl, fun hpos => absurd h0 (Nat.ne_of_gt hpos), ?_⟩
        rw [modVol_of_clean h0, ← errors_of_clean h0]
      · exact ⟨_, fun h0 => absurd h0 (Nat.ne_of_gt hpos), fun _ => counted_raise _ _, modVol_of_errors hpos g⟩
    case command =>
      have hread := readVolume_of_errors (s := s.taking .station 1) (h := h) hpos
      have hact := (act_readVolume (s := s.taking .station 1) hw).trans (readVolume_of_present (by
        rw [hread]
        exact fun e => hstate ((congrArg Volume.state (PerHandle_get_set_same s.vols h (s.vol h).corrected)).symm.trans e)))
      refine ⟨_, s.faults.raise .recoveredAccount (s.vol h).errors.single,
        (exec_readVolume hi w).trans (handed_next hact), counted_raise _ _, rfl, ?_⟩
      rw [hread]
      rfl
  case rescan =>
    subst hk
    refine ⟨fun h0 => readRescan_of_clean h0, fun hpos => ⟨_, counted_raise _ _, readRescan_of_errors hpos⟩,
      fun h link ha hv hi hpos => ?_⟩
    have hread := readRescan_of_errors (s := s.taking link 0) hpos
    have hact := (act_rescanHead (s := s.taking link 0) ha hv link).trans
      (rescanHead_of_active ((active_readRescan _).trans ha))
    rw [hread] at hact
    refine ⟨_, s.faults.raise .recoveredAccount s.rescanErrors.single,
      (exec_rescanHead hi link).trans (handed_next hact), counted_raise _ _, ?_⟩
    cases link <;> rfl
  case summary =>
    have hany := @anySettled_iff f
    have hall := allSettled_iff hu
    have hdel := allDelivered_iff hu
    have hsettles (hd : ∀ p, 1 ≤ p → p ≤ f.declared → ∃ e ∈ f.panels, e.number = p ∧ ∃ c, e.settled = .delivered c) :
        ∀ p, 1 ≤ p → p ≤ f.declared → ∃ e ∈ f.panels, e.number = p ∧ e.settled ≠ .none := fun p h1 h2 => by
      obtain ⟨e, he, hp, c, hc⟩ := hd p h1 h2
      exact ⟨e, he, hp, by simp [hc]⟩
    refine ⟨fun hs => ?_, fun hs hno hm => ?_, fun hs hno hm => ?_, fun hs hsome hno => ?_, fun hs ha hno => ?_,
      fun hs hdelivered => ?_⟩ <;> rw [FaceRecord.summary, hs]
    · rfl
    · simp [eq_false_of_ne_true (mt hany.1 hno), hm]
    · simp [eq_false_of_ne_true (mt hany.1 hno), hm]
    · simp [hany.2 hsome, eq_false_of_ne_true (mt hall.1 hno)]
    · simp [hany.2 ⟨1, ha 1 (Nat.le_refl 1) hd⟩, hall.2 ha, eq_false_of_ne_true (mt hdel.1 hno)]
    · simp [hany.2 ⟨1, hsettles hdelivered 1 (Nat.le_refl 1) hd⟩, hall.2 (hsettles hdelivered), hdel.2 hdelivered]

end Sys2Proof.Proofs
end

section
/-! SUPPORT. The readouts of the account (R12, R13, R22): their refusals, and every result word. -/
namespace Sys2Proof.Proofs
open Sys2Proof.Machine Sys2Proof.Laws

/-! ### READ LEAF (R22) -/

theorem exec_readLeaf {s : State} (hi : s.initRunning = false) (link : MasterLink) (w l : Word) :
    exec (.readLeaf link w l) s = done (handed s link .readLeaf [w, l]) :=
  exec_action rfl (by cases link <;> rfl) rfl (completes_of_arity (fun _ => rfl) rfl) hi

theorem act_readLeaf {s : State} (hc : s.TableClean) (link : MasterLink) (w l : Word) :
    Cmd.act .readLeaf link [w, l] (s.taking link 2) = Machine.readLeaf w.toNat l.toNat (s.taking link 2) :=
  act_taking_of_clean hc .readLeaf link [w, l]

section ReadLeaf
variable {s : State} {l : Nat}

theorem readLeaf_of_noHandle {n : Nat} (hn : 2 ≤ n) : Machine.readLeaf n l s = (.refused .badParam, s) := by
  rw [Machine.readLeaf, handleOf_of_ge hn]

variable {h : Handle}

theorem readLeaf_of_empty (he : (s.vol h).state = .empty) :
    Machine.readLeaf h.place l s = (.refused .noVolume, s) := by
  rw [Machine.readLeaf, handleOf_place]
  exact if_pos he

variable (he : (s.vol h).state ≠ .empty)
include he

theorem readLeaf_of_pastEnd (hl : (s.vol h).leaves + 1 < l) :
    Machine.readLeaf h.place l s = (.refused .badParam, s) := by
  rw [Machine.readLeaf, handleOf_place]
  exact (if_neg he).trans (if_pos hl)

variable (hl : l ≤ (s.vol h).leaves + 1)
include hl

theorem readLeaf_of_damaged (hv : (s.leaf h l).valid = false) :
    Machine.readLeaf h.place l s = (.refused .recordDamaged, s) := by
  rw [Machine.readLeaf, handleOf_place]
  simp only [if_neg he, if_neg (Nat.not_lt_of_le hl), readLeaf_of_invalid hv]

theorem readLeaf_of_whole (hv : (s.leaf h l).valid = true) (hno : (s.leaf h l).errors = []) :
    Machine.readLeaf h.place l s = (.accepted ((s.leaf h l).words l), s) := by
  rw [Machine.readLeaf, handleOf_place]
  simp only [if_neg he, if_neg (Nat.not_lt_of_le hl), readLeaf_of_clean hv hno]

end ReadLeaf

/-! ### READ VOLUME and READ SUMMARY (R12, R13) -/

theorem act_readVolume_of_clean {s : State} (hc : s.TableClean) (w : Word) :
    Cmd.act .readVolume .station [w] (s.taking .station 1) = Machine.readVolume w.toNat (s.taking .station 1) :=
  act_taking_of_clean hc .readVolume .station [w]

theorem exec_readSummary {s : State} (hi : s.initRunning = false) (w : Word) :
    exec (.readSummary w) s = done (handed s .station .readSummary [w]) :=
  exec_action rfl rfl rfl (completes_of_arity (fun _ => rfl) rfl) hi

theorem act_readSummary {s : State} (hc : s.TableClean) (w : Word) :
    Cmd.act .readSummary .station [w] (s.taking .station 1) = readSummary w.toNat (s.taking .station 1) :=
  act_taking_of_clean hc .readSummary .station [w]

theorem readVolume_of_noHandle {n : Nat} (hn : 2 ≤ n) (s : State) :
    Machine.readVolume n s = (.refused .badParam, s) := by
  rw [Machine.readVolume, handleOf_of_ge hn]

theorem readVolume_of_empty {s : State} {h : Handle} (he : (s.vol h).state = .empty) :
    Machine.readVolume h.place s = (.refused .noVolume, s) := by
  rw [Machine.readVolume, handleOf_place]
  exact if_pos he

theorem readSummary_of_noHandle {n : Nat} (hn : 2 ≤ n) (s : State) :
    readSummary n s = (.refused .badParam, s) := by
  rw [readSummary, handleOf_of_ge hn]

theorem readSummary_of_empty {s : State} {h : Handle} (he : (s.vol h).state = .empty) :
    readSummary h.place s = (.refused .noVolume, s) := by
  simp only [readSummary, handleOf_place, he]

theorem readSummary_of_active {s : State} {h : Handle} (he : (s.vol h).state = .active) :
    readSummary h.place s = (.refused .busy, s) := by
  simp only [readSummary, handleOf_place, he]

/-- The faces of the valid records among some leaves of a volume. -/
def validSides (s : State) (h : Handle) (leaves : List Nat) : List FaceRecord :=
  leaves.flatMap fun n => if (s.leaf h n).valid then (s.leaf h n).kind.faces.map (s.leaf h n).face else []

/-- The summary of leaves that read clean takes in the faces of the valid ones and changes nothing. -/
theorem foldl_summarise {s : State} {h : Handle} {leaves : List Nat}
    (hclean : ∀ n ∈ leaves, (s.leaf h n).valid = true → (s.leaf h n).errors = []) (m : SideCounts) :
    leaves.foldl (State.summarise h) (m, s) = ((validSides s h leaves).foldl SideCounts.add m, s) := by
  induction leaves generalizing m with
  | nil => rfl
  | cons n leaves ih =>
    have hrest := ih fun k hk => hclean k (List.mem_cons_of_mem n hk)
    rw [List.foldl_cons, validSides, List.flatMap_cons, List.foldl_append]
    cases hv : (s.leaf h n).valid with
    | false =>
      have hone : State.summarise h (m, s) n = (m, s) := by simp only [State.summarise, readLeaf_of_invalid hv]
      rw [hone, hrest]
      rfl
    | true =>
      have hno := hclean n List.mem_cons_self hv
      have hone : State.summarise h (m, s) n =
          (((s.leaf h n).kind.faces.map (s.leaf h n).face).foldl SideCounts.add m, s) := by
        simp only [State.summarise, readLeaf_of_clean hv hno, List.foldl_map]
      rw [hone, hrest]
      rfl

/-- The counts over some sides, each by the sides that have its property (R13). -/
theorem foldl_add (fs : List FaceRecord) (m : SideCounts) :
    fs.foldl SideCounts.add m =
      { complete := m.complete + fs.countP fun f => f.summary == .complete
        skipped := m.skipped + fs.countP fun f => f.summary == .skipped
        incomplete := m.incomplete + fs.countP fun f => !(f.summary == .complete) && !(f.summary == .skipped)
        rescan := m.rescan + fs.countP (·.rescan)
        blank := m.blank + fs.countP (·.blank) } := by
  induction fs generalizing m with
  | nil => rfl
  | cons f fs ih =>
    rw [List.foldl_cons, ih]
    simp only [SideCounts.add, List.countP_cons, SideCounts.mk.injEq]
    refine ⟨?_, ?_, ?_, ?_, ?_⟩
    · by_cases hf : f.summary = .complete <;> simp [hf] <;> omega
    · by_cases hf : f.summary = .skipped <;> simp [hf] <;> omega
    · cases f.summary <;> simp <;> omega
    · cases f.rescan <;> simp <;> omega
    · cases f.blank <;> simp <;> omega

theorem readSummary_of_left {s : State} {h : Handle} (he : (s.vol h).state = .draining ∨ (s.vol h).state = .closed)
    (hclean : ∀ n, n ≤ (s.vol h).leaves + 1 → (s.leaf h n).valid = true → (s.leaf h n).errors = []) :
    readSummary h.place s =
      let sides := validSides s h (List.range ((s.vol h).leaves + 2))
      (.accepted
        (num16 (sides.countP fun f => f.summary == .complete) ++ num16 (sides.countP fun f => f.summary == .skipped) ++
          num16 (sides.countP fun f => !(f.summary == .complete) && !(f.summary == .skipped)) ++
          num16 (sides.countP (·.rescan)) ++ num16 (sides.countP (·.blank)) ++
          split32 (s.vol h).counters.damagedLeaves ++ num48 (s.vol h).dose ++ num16 (s.vol h).serial ++
          flagWord (s.vol h).discarded), s) := by
  have hfold := foldl_summarise (m := SideCounts.zero) (leaves := List.range ((s.vol h).leaves + 2)) fun n hn =>
    hclean n (Nat.le_of_lt_succ (List.mem_range.1 hn))
  rw [foldl_add] at hfold
  rcases he with he | he <;> simp only [readSummary, handleOf_place, he, hfold] <;> simp only [SideCounts.zero, Nat.zero_add]

/-! ### The words (R195, R197) -/

theorem num16_eq (n : Nat) : num16 n = [n].map (BitVec.ofNat 16) := rfl

theorem num32_eq (n : Nat) : num32 n = [n / 65536, n].map (BitVec.ofNat 16) := rfl

theorem num48_eq (n : Nat) : num48 n = [n / 2 ^ 32, n / 2 ^ 16, n].map (BitVec.ofNat 16) := rfl

theorem flagWord_eq (b : Bool) : flagWord b = [if b then 1 else 0].map (BitVec.ofNat 16) := by cases b <;> rfl

/-- A list of one-word numbers, mapped word by word. -/
theorem flatMap_words {α : Type} {figures : α → List Nat} {words : α → List Word}
    (h : ∀ a, words a = (figures a).map (BitVec.ofNat 16)) (l : List α) :
    l.flatMap words = (l.flatMap figures).map (BitVec.ofNat 16) := by
  rw [List.map_flatMap, funext h]

theorem flagBits_eq (c : CaptureStats) :
    c.flagBits = (if c.blank then 1 else 0) + (if c.degraded then 2 else 0) + (if c.motion then 4 else 0) +
      (if c.overlong then 8 else 0) + if c.crop.isSome then 16 else 0 := rfl

theorem markBits_eq (f : FaceRecord) :
    f.markBits = (if f.skip then 1 else 0) + (if f.missed then 2 else 0) + (if f.rescan then 4 else 0) +
      if f.blank then 8 else 0 := rfl

/-- Settles O19: each readout's tests in order, and its words field by field. -/
theorem accountReadouts : Obligations.AccountReadouts := by
  refine ⟨fun s link w l hi hc => ?leaf, fun s w hi hc => ?volume⟩
  case leaf =>
    intro refused stats panel face words
    have answer {r : Reply} (ha : Machine.readLeaf w.toNat l.toNat (s.taking link 2) = (r, s.taking link 2)) :
        exec (.readLeaf link w l) s = .next (s.answered link 2 r) :=
      (exec_readLeaf hi link w l).trans (handed_answered ((act_readLeaf hc link w l).trans ha))
    have hstats (c : CaptureStats) : c.words = (stats c).map (BitVec.ofNat 16) := by
      simp only [CaptureStats.words, stats, flagBits_eq]
      cases c.crop <;> rfl
    have hpanel (e : PanelEntry) : e.words = (panel e).map (BitVec.ofNat 16) := by
      simp only [PanelEntry.words, panel]
      rcases e.settled with - | c | c <;> rcases e.pending with - | ⟨- | -, i⟩ <;>
        simp only [Settled.stats, Settled.place, pendingWords, hstats, num16, List.map_append, List.map_cons,
          List.map_nil, List.append_nil, List.append_assoc, List.cons_append, List.nil_append] <;> rfl
    have hface (f : FaceRecord) : f.words = (face f).map (BitVec.ofNat 16) := by
      simp only [FaceRecord.words, face, listWords, flatMap_words hpanel, markBits_eq, fieldAt, List.map_append]
      rfl
    have hwords (r : LeafRecord) : r.words l.toNat = (words r).map (BitVec.ofNat 16) := by
      simp only [LeafRecord.words, words]
      cases r.kind <;> simp only [LeafKind.faces, LeafRecord.face, List.flatMap_cons, List.flatMap_nil, hface,
        List.map_append, List.append_nil, List.append_assoc] <;> rfl
    refine ⟨fun hw => answer (readLeaf_of_noHandle hw), fun h hw => ?_⟩
    rw [hw] at answer
    refine ⟨fun he => answer (readLeaf_of_empty he), fun he hl => answer (readLeaf_of_pastEnd he hl), fun he hl =>
      ⟨fun hv => answer (readLeaf_of_damaged he hl hv), fun hv hno => ?_⟩⟩
    rw [← hwords]
    exact answer (readLeaf_of_whole (s := s.taking link 2) he hl hv hno)
  case volume =>
    intro refusedV refusedS hi32 n48 flag
    have answerV {r : Reply} (ha : Machine.readVolume w.toNat (s.taking .station 1) = (r, s.taking .station 1)) :
        exec (.readVolume w) s = .next (s.answered .station 1 r) :=
      (exec_readVolume hi w).trans (handed_answered ((act_readVolume_of_clean hc w).trans ha))
    have answerS {r : Reply} (ha : readSummary w.toNat (s.taking .station 1) = (r, s.taking .station 1)) :
        exec (.readSummary w) s = .next (s.answered .station 1 r) :=
      (exec_readSummary hi w).trans (handed_answered ((act_readSummary hc w).trans ha))
    refine ⟨fun hw => ⟨answerV (readVolume_of_noHandle hw _), answerS (readSummary_of_noHandle hw _)⟩, fun h hw => ?_⟩
    rw [hw] at answerV answerS
    refine ⟨fun he => ⟨answerV (readVolume_of_empty he), answerS (readSummary_of_empty he)⟩,
      fun he => answerS (readSummary_of_active he), fun he => ?record, fun he hclean => ?summary⟩
    case record =>
      have hwords : (s.vol h).words h = (([h.place, (s.vol h).state.place, (s.vol h).serial, (s.vol h).shelfMark.length] ++
          (s.vol h).shelfMark.map BitVec.toNat ++ [(s.vol h).partSequence, (s.vol h).leaves, (s.vol h).opening,
            flag (s.vol h).uncertain, flag (s.vol h).discarded] ++ n48 (s.vol h).dose ++ n48 (s.vol h).volumeCeiling ++
          [(s.vol h).sideCeiling / 2 ^ 16, (s.vol h).sideCeiling] ++
          [(s.vol h).highestSideDose / 2 ^ 16, (s.vol h).highestSideDose]).map (BitVec.ofNat 16) ++
          (s.vol h).counters.words) := by
        have hchars (l : List Byte) : l.flatMap charWord = (l.map BitVec.toNat).map (BitVec.ofNat 16) := by
          induction l with
          | nil => rfl
          | cons b l ih =>
            rw [List.flatMap_cons, ih, charWord, ← BitVec.ofNat_toNat]
            rfl
        simp only [Volume.words, listWords, hchars, num16_eq, num32_eq, num48_eq, flagWord_eq, List.map_append]
        simp only [List.append_assoc, List.map_cons, List.map_nil, List.cons_append, List.nil_append]
        rfl
      exact hwords ▸ answerV (readVolume_of_present (s := s.taking .station 1) he)
    case summary =>
      refine (answerS (readSummary_of_left (s := s.taking .station 1) he hclean)).trans ?_
      simp only [num16_eq, num48_eq, flagWord_eq, split32, List.append_assoc, List.map_cons, List.map_nil,
        List.cons_append, List.nil_append, List.map_append]
      rfl

end Sys2Proof.Proofs
end

section
/-! SUPPORT. SET SIDE MARKS, MARK RESCAN and RESCAN HEAD (R21, R80 to R83): the tests of each, and what a side's marks
and its place on the rescan list become. -/
namespace Sys2Proof.Proofs
open Sys2Proof.Machine Sys2Proof.Laws

/-! ### An action command on a clean table (R178, R188) -/

/-- A command whose block only answers. -/
theorem exec_of_answer {s : State} (hc : s.TableClean) {i : Instr} {c : Cmd} {link : MasterLink} {ws : List Word}
    {r : Reply} (hx : exec i s = done (handed s link c ws))
    (ha : c.perform link ws (s.taking link ws.length) = (r, s.taking link ws.length)) :
    exec i s = .next (s.answered link ws.length r) :=
  hx.trans (handed_answered ((act_taking_of_clean hc c link ws).trans ha))

/-- A command whose block answers and changes the state otherwise. -/
theorem exec_of_effect {s t : State} (hc : s.TableClean) {i : Instr} {c : Cmd} {link : MasterLink} {ws : List Word}
    {r : Reply} (hx : exec i s = done (handed s link c ws))
    (ha : c.perform link ws (s.taking link ws.length) = (r, t)) :
    exec i s = .next { t.modLink link (·.answer r) with skippedNow := [] } :=
  hx.trans (handed_next ((act_taking_of_clean hc c link ws).trans ha))

/-! ### Sides and faces (R16, R17) -/

theorem state_of_active {s : State} {h : Handle} (ha : s.active = some h) : (s.vol h).state = .active := by
  unfold State.active at ha
  split at ha
  · next hz => exact Option.some.inj ha ▸ hz
  · split at ha
    · next ho => exact Option.some.inj ha ▸ ho
    · cases ha

theorem faceOf_of_ge {n : Nat} (hn : 2 ≤ n) : faceOf n = none := by
  match n, hn with
  | n + 2, _ => rfl

theorem faceOf_place (f : Face) : faceOf f.place = some f := by cases f <;> rfl

theorem sideOf_of_ge (leaves leaf : Nat) {n : Nat} (hn : 2 ≤ n) : sideOf leaves leaf n = none := by
  rw [sideOf, faceOf_of_ge hn]

theorem sideOf_place (leaves leaf : Nat) (f : Face) :
    sideOf leaves leaf f.place = if sideExists leaves ⟨leaf, f⟩ then some ⟨leaf, f⟩ else none := by
  rw [sideOf, faceOf_place]

theorem leaf_setFace_same {s : State} (c : s.Canonical) (h : Handle) (d : Side) (x : FaceRecord) :
    (s.setFace h d x).leaf h d.leaf = (s.leaf h d.leaf).setFace d.face x :=
  leaf_setLeaf_same c h d.leaf _

theorem face_setFace_same {s : State} (c : s.Canonical) (h : Handle) (d : Side) (x : FaceRecord) :
    (s.setFace h d x).face h d = x := by
  rw [State.face, leaf_setFace_same c, face_setFace]

theorem canonical_setFace {s : State} (c : s.Canonical) (h : Handle) (d : Side) (x : FaceRecord) :
    (s.setFace h d x).Canonical := canonical_setLeaf c h d.leaf _

/-- What is said of the leaf records alone holds of every state with the same ones. -/
theorem faceAlone_of_leaves {s t u : State} {h : Handle} {d : Side} (a : FaceAlone s t h d)
    (e : u.leaves = t.leaves) : FaceAlone s u h d where
  record := by
    have hr := a.record
    simpa only [State.face, State.leaf, e] using hr
  others b h' n k m := by
    have ho := a.others b h' n k m
    simpa only [State.leaf, e] using ho

/-! ### Joining and leaving the rescan list (R80, R81) -/

/-- A volume's record after a change of its rescan overflow. -/
def overflowed (v : Volume) (f : BitVec 32 → BitVec 32) : Volume :=
  { v with counters := { v.counters with rescanOverflow := f v.counters.rescanOverflow } }

theorem joinRescan_of_active {s : State} {h : Handle} (hc : s.TableClean) (ha : (s.vol h).state = .active)
    (d : Side) :
    s.joinRescan h d =
      (if s.rescan.length < 64 then { s with rescan := s.rescan ++ [d] }
       else { s with vols := s.vols.set h (overflowed (s.vol h) (· + 1)) }).postStation .rescanAdded := by
  simp only [State.joinRescan, readVolume_of_clean (vol_clean hc h), if_pos ha, readRescan_of_clean hc.rescan,
    State.count, modVol_of_clean (vol_clean hc h)]
  rfl

theorem leaveRescan_of_mem {s : State} {h : Handle} (hc : s.TableClean) (ha : (s.vol h).state = .active) {d : Side}
    (hd : d ∈ s.rescan) : s.leaveRescan h d = { s with rescan := s.rescan.filter (· ≠ d) } := by
  have hfilter : s.rescan.filter (fun x => !(x == d)) = s.rescan.filter (· ≠ d) :=
    List.filter_congr fun x _ => by by_cases e : x = d <;> simp [e]
  simp only [State.leaveRescan, readVolume_of_clean (vol_clean hc h), if_pos ha, readRescan_of_clean hc.rescan,
    if_pos (List.contains_iff_mem.2 hd), hfilter]

theorem leaveRescan_of_not_mem {s : State} {h : Handle} (hc : s.TableClean) (ha : (s.vol h).state = .active)
    {d : Side} (hd : d ∉ s.rescan) :
    s.leaveRescan h d = { s with vols := s.vols.set h (overflowed (s.vol h) (· - 1)) } := by
  simp only [State.leaveRescan, readVolume_of_clean (vol_clean hc h), if_pos ha, readRescan_of_clean hc.rescan,
    if_neg (mt List.contains_iff_mem.1 hd), State.count, modVol_of_clean (vol_clean hc h)]
  rfl

/-! ### SET SIDE MARKS (R21) -/

theorem lt_foldl_max_iff {es : List PanelEntry} {m d : Nat} :
    d < es.foldl (fun m e => max m e.number) m ↔ d < m ∨ ∃ e ∈ es, d < e.number := by
  induction es generalizing m with
  | nil => simp
  | cons e es ih =>
    have hmax : d < max m e.number ↔ d < m ∨ d < e.number := by omega
    rw [List.foldl_cons, ih, hmax, or_assoc]
    simp only [List.mem_cons, exists_eq_or_imp]

theorem lt_highestPanel_iff {f : FaceRecord} {d : Nat} : d < f.highestPanel ↔ ∃ e ∈ f.panels, d < e.number := by
  rw [FaceRecord.highestPanel, lt_foldl_max_iff, or_iff_right (Nat.not_lt_zero d)]

theorem any_pending_iff {f : FaceRecord} :
    f.panels.any (fun e => e.pending.isSome) = true ↔ ∃ e ∈ f.panels, e.pending ≠ none := by
  simp only [List.any_eq_true, Option.isSome_iff_ne_none]

theorem flagParam_of_bit (s : State) {k : Word} (hk : k = 0 ∨ k = 1) : s.flagParam k = (decide (k = 1), s) := by
  rcases hk with rfl | rfl <;> rfl

/-- A face with its two marks written. -/
def marked (f : FaceRecord) (declared : Nat) (skip : Bool) : FaceRecord :=
  { f with declared := declared, skip := skip }

/-- Whether writing a side's marks clears its rescan flag (R21). -/
def marksClear (f : FaceRecord) (declared : Nat) (skip : Bool) : Prop :=
  f.rescan = true ∧ ((skip = true ∧ f.skip = false) ∨
    (declared < f.declared ∧ (marked f declared skip).allSettled = true))

section WriteMarks
variable {s : State} (c : s.Canonical) {h : Handle} {d : Side} {declared : Nat} {skip : Bool}
include c

theorem writeMarks_of_clear (hm : marksClear (s.face h d) declared skip) :
    s.writeMarks h d declared skip =
      ((s.setFace h d (marked (s.face h d) declared skip)).setFace h d
        { marked (s.face h d) declared skip with rescan := false }).leaveRescan h d := by
  obtain ⟨hr, hm⟩ := hm
  have hcond : ((skip && !(s.face h d).skip) ||
      (decide (declared < (s.face h d).declared) && (marked (s.face h d) declared skip).allSettled)) = true := by
    simpa using hm
  unfold State.writeMarks
  refine (if_pos hcond).trans ?_
  rw [State.clearRescan, face_setFace_same c]
  exact if_pos hr

theorem writeMarks_of_keep (hm : ¬marksClear (s.face h d) declared skip) :
    s.writeMarks h d declared skip = s.setFace h d (marked (s.face h d) declared skip) := by
  unfold State.writeMarks State.clearRescan
  by_cases hr : (s.face h d).rescan = true
  · refine if_neg fun hcond => hm ⟨hr, ?_⟩
    simpa [marked] using hcond
  · have hsame : ((s.setFace h d (marked (s.face h d) declared skip)).face h d).rescan ≠ true := by
      rwa [face_setFace_same c]
    exact (congrArg (ite _ · _) (if_neg hsame)).trans (ite_self _)

end WriteMarks

section SetSideMarks
variable {s : State} {l f d : Nat} {k : Word}

theorem setSideMarks_of_noVolume (ha : s.active = none) : setSideMarks l f d k s = (.refused .noVolume, s) := by
  rw [setSideMarks, ha]

variable {h : Handle} (ha : s.active = some h)
include ha

theorem setSideMarks_of_noSide (hs : sideOf (s.vol h).leaves l f = none) :
    setSideMarks l f d k s = (.refused .badParam, s) := by
  simp only [setSideMarks, ha, hs]

variable {side : Side} (hs : sideOf (s.vol h).leaves l f = some side)
include hs

theorem setSideMarks_of_range (hd : d < 1 ∨ 4 < d) : setSideMarks l f d k s = (.refused .badParam, s) := by
  simp only [setSideMarks, ha, hs, if_pos hd]

variable (hd : ¬(d < 1 ∨ 4 < d))
include hd

theorem setSideMarks_of_damaged (hv : (s.leaf h side.leaf).valid = false) :
    setSideMarks l f d k s = (.refused .recordDamaged, s) := by
  simp only [setSideMarks, ha, hs, if_neg hd, readLeaf_of_invalid hv]

variable (hv : (s.leaf h side.leaf).valid = true) (he : (s.leaf h side.leaf).errors = [])
include hv he

theorem setSideMarks_of_low (hl : d < (s.face h side).highestPanel) :
    setSideMarks l f d k s = (.refused .badParam, s) := by
  simp only [setSideMarks, ha, hs, if_neg hd, readLeaf_of_clean hv he, if_pos hl]

variable (hl : ¬d < (s.face h side).highestPanel)
include hl

theorem setSideMarks_of_pending (hp : (s.face h side).panels.any (fun e => e.pending.isSome) = true) :
    setSideMarks l f d k s = (.refused .busy, s) := by
  simp only [setSideMarks, ha, hs, if_neg hd, readLeaf_of_clean hv he, if_neg hl, hp, if_true]

theorem setSideMarks_of_ok (hp : (s.face h side).panels.any (fun e => e.pending.isSome) = false)
    (hk : k = 0 ∨ k = 1) :
    setSideMarks l f d k s =
      let t := s.writeMarks h side d (decide (k = 1))
      (.accepted (num16 (t.face h side).summary.place), t) := by
  simp only [setSideMarks, ha, hs, if_neg hd, readLeaf_of_clean hv he, if_neg hl, hp, Bool.false_eq_true, if_false,
    flagParam_of_bit s hk]

end SetSideMarks

/-- A state with the marks of a side written, the command's answer on its link. -/
def marksWritten (s : State) (h : Handle) (d : Side) (declared : Nat) (skip : Bool) : State :=
  let t := (s.taking .station 4).writeMarks h d declared skip
  { t.modLink .station (·.answer (.accepted (num16 (t.face h d).summary.place))) with skippedNow := [] }

section Written
variable {s : State} (c : s.Canonical) (hc : s.TableClean) {h : Handle} (ha : (s.vol h).state = .active)
  {d : Side} {declared : Nat} {skip : Bool}
include c

theorem marksWritten_of_keep (hm : ¬marksClear (s.face h d) declared skip) :
    let t := s.setFace h d (marked (s.face h d) declared skip)
    marksWritten s h d declared skip =
      { s.answered .station 4 (.accepted [BitVec.ofNat 16 (marked (s.face h d) declared skip).summary.place]) with
        leaves := t.leaves } := by
  have c' : (s.taking .station 4).Canonical := ⟨c.memory, c.leaves, c.gain⟩
  simp only [marksWritten, writeMarks_of_keep (s := s.taking .station 4) c' hm,
    face_setFace_same (s := s.taking .station 4) c']
  rfl

include hc ha

theorem marksWritten_of_clear (hm : marksClear (s.face h d) declared skip) :
    let t := (s.setFace h d (marked (s.face h d) declared skip)).setFace h d
      { marked (s.face h d) declared skip with rescan := false }
    marksWritten s h d declared skip =
      { s.answered .station 4 (.accepted [BitVec.ofNat 16 (marked (s.face h d) declared skip).summary.place]) with
        leaves := t.leaves
        rescan := if d ∈ s.rescan then s.rescan.filter (· ≠ d) else s.rescan
        vols := if d ∈ s.rescan then s.vols else s.vols.set h (overflowed (s.vol h) (· - 1)) } := by
  have c' : (s.taking .station 4).Canonical := ⟨c.memory, c.leaves, c.gain⟩
  have hface := face_setFace_same (canonical_setFace c' h d (marked (s.face h d) declared skip)) h d
    { marked (s.face h d) declared skip with rescan := false }
  intro t
  have hwrite := writeMarks_of_clear (s := s.taking .station 4) c' hm
  by_cases hd : d ∈ s.rescan
  · have hwrite := hwrite.trans (leaveRescan_of_mem (by exact ⟨hc.zero, hc.one, hc.rescan⟩) (by exact ha) (by exact hd))
    have hsum : ((s.taking .station 4).writeMarks h d declared skip).face h d =
        { marked (s.face h d) declared skip with rescan := false } := by rw [hwrite]; exact hface
    rw [if_pos hd, if_pos hd, marksWritten, hsum, hwrite]
    rfl
  · have hwrite := hwrite.trans (leaveRescan_of_not_mem (by exact ⟨hc.zero, hc.one, hc.rescan⟩) (by exact ha) (by exact hd))
    have hsum : ((s.taking .station 4).writeMarks h d declared skip).face h d =
        { marked (s.face h d) declared skip with rescan := false } := by rw [hwrite]; exact hface
    rw [if_neg hd, if_neg hd, marksWritten, hsum, hwrite]
    rfl

end Written

theorem exec_setSideMarks {s : State} (hi : s.initRunning = false) (l f d k : Word) :
    exec (.setSideMarks l f d k) s = done (handed s .station .setSideMarks [l, f, d, k]) :=
  exec_action rfl rfl rfl (completes_of_arity (fun _ => rfl) rfl) hi

/-- Settles O20: each test refuses in its turn; past them the marks are written, and the side leaves the rescan list
when they clear its flag. -/
theorem setSideMarksWritesTheMarks : Obligations.SetSideMarksWritesTheMarks := by
  intro s l f d k hi c hc hk run refused
  have answer {r : Reply} (ha : setSideMarks l.toNat f.toNat d.toNat k (s.taking .station 4) =
      (r, s.taking .station 4)) : run = .next (s.answered .station 4 r) :=
    exec_of_answer hc (exec_setSideMarks hi l f d k) ha
  refine ⟨fun ha => answer (setSideMarks_of_noVolume (s := s.taking .station 4) ha), fun ha hf => ?_,
    fun h face ha hf => ⟨fun hbad => ?_, fun hside hd1 hd4 => ?_⟩⟩
  · obtain ⟨h, ha⟩ := Option.ne_none_iff_exists'.1 ha
    exact answer (setSideMarks_of_noSide (s := s.taking .station 4) ha (sideOf_of_ge _ _ hf))
  · have hplace := sideOf_place (s.vol h).leaves l.toNat face
    rw [← hf] at hplace
    cases hside : sideExists (s.vol h).leaves ⟨l.toNat, face⟩ with
    | false =>
      rw [hside, if_neg Bool.false_ne_true] at hplace
      exact answer (setSideMarks_of_noSide (s := s.taking .station 4) ha hplace)
    | true =>
      rw [hside, if_pos rfl] at hplace
      exact answer (setSideMarks_of_range (s := s.taking .station 4) ha hplace
        (hbad.resolve_left (by rw [hside]; exact Bool.false_ne_true.symm)))
  · have hplace := sideOf_place (s.vol h).leaves l.toNat face
    rw [← hf, hside, if_pos rfl] at hplace
    have hd : ¬(d.toNat < 1 ∨ 4 < d.toNat) := by omega
    refine ⟨fun hv => answer (setSideMarks_of_damaged (s := s.taking .station 4) ha hplace hd hv), fun hv he =>
      ⟨fun hl => answer (setSideMarks_of_low (s := s.taking .station 4) ha hplace hd hv he
          (lt_highestPanel_iff.2 hl)),
       fun hl hp => ?_, fun hfree => ?_⟩⟩
    · have hl' : ¬d.toNat < (s.face h ⟨l.toNat, face⟩).highestPanel := fun hlt =>
        have ⟨e, hmem, hlt⟩ := lt_highestPanel_iff.1 hlt
        Nat.not_lt_of_le (hl e hmem) hlt
      exact answer (setSideMarks_of_pending (s := s.taking .station 4) ha hplace hd hv he hl' (any_pending_iff.2 hp))
    · have hl' : ¬d.toNat < (s.face h ⟨l.toNat, face⟩).highestPanel := fun hlt =>
        have ⟨e, hmem, hlt⟩ := lt_highestPanel_iff.1 hlt
        Nat.not_lt_of_le (hfree e hmem).1 hlt
      have hp : (s.face h ⟨l.toNat, face⟩).panels.any (fun e => e.pending.isSome) = false :=
        eq_false_of_ne_true fun hany =>
          have ⟨e, hmem, hne⟩ := any_pending_iff.1 hany
          hne (hfree e hmem).2
      have hx : run = _ := exec_of_effect hc (exec_setSideMarks hi l f d k)
        (setSideMarks_of_ok (s := s.taking .station 4) ha hplace hd hv he hl' hp hk)
      intro marked' clears
      have hiff : clears ↔ marksClear (s.face h ⟨l.toNat, face⟩) d.toNat (decide (k = 1)) :=
        and_congr_right fun _ => or_congr_left (and_congr_left fun _ => decide_eq_true_iff.symm)
      refine ⟨marksWritten s h ⟨l.toNat, face⟩ d.toNat (decide (k = 1)), hx, ?_⟩
      by_cases hm : clears
      · have hwrite := marksWritten_of_clear c hc (state_of_active ha) (hiff.1 hm)
        dsimp only at hwrite
        rw [hwrite]
        refine ⟨(face_setFace_same (canonical_setFace c _ _ _) _ _ _).trans (if_pos hm).symm, fun h => (h hm).elim,
          fun _ hmem => ⟨if_pos hmem, if_pos hmem⟩, fun _ hmem => ⟨if_neg hmem, if_neg hmem⟩,
          faceAlone_of_leaves (FaceAlone.trans (faceAlone_setFace c _ _ _) (faceAlone_setFace (canonical_setFace c _ _ _) _ _ _)) rfl,
          rfl⟩
      · rw [marksWritten_of_keep c (mt hiff.2 hm)]
        exact ⟨(face_setFace_same c _ _ _).trans (if_neg hm).symm, fun _ => ⟨rfl, rfl⟩, fun h => (hm h).elim,
          fun h => (hm h).elim, faceAlone_of_leaves (faceAlone_setFace c _ _ _) rfl, rfl⟩

/-! ### MARK RESCAN and RESCAN HEAD (R82, R83) -/

section MarkRescan
variable {s : State} {l f : Nat}

theorem markRescan_of_noVolume (ha : s.active = none) : markRescan l f s = (.refused .noVolume, s) := by
  rw [markRescan, ha]

variable {h : Handle} (ha : s.active = some h)
include ha

theorem markRescan_of_noSide (hs : sideOf (s.vol h).leaves l f = none) :
    markRescan l f s = (.refused .badParam, s) := by
  simp only [markRescan, ha, hs]

variable {side : Side} (hs : sideOf (s.vol h).leaves l f = some side)
include hs

theorem markRescan_of_damaged (hv : (s.leaf h side.leaf).valid = false) :
    markRescan l f s = (.refused .recordDamaged, s) := by
  simp only [markRescan, ha, hs, readLeaf_of_invalid hv]

variable (hv : (s.leaf h side.leaf).valid = true) (he : (s.leaf h side.leaf).errors = [])
include hv he

theorem markRescan_of_skip (hk : (s.face h side).skip = true) : markRescan l f s = (.refused .badParam, s) := by
  simp only [markRescan, ha, hs, readLeaf_of_clean hv he, if_pos hk]

theorem markRescan_of_shown (hk : (s.face h side).skip = false) :
    markRescan l f s =
      let t := if (s.face h side).rescan then s else s.setRescan h side
      (.accepted (t.rescanWords h), t) := by
  simp only [markRescan, ha, hs, readLeaf_of_clean hv he, hk, Bool.false_eq_true, if_false]

end MarkRescan

theorem exec_markRescan {s : State} (hi : s.initRunning = false) (l f : Word) :
    exec (.markRescan l f) s = done (handed s .station .markRescan [l, f]) :=
  exec_action rfl rfl rfl (completes_of_arity (fun _ => rfl) rfl) hi

theorem rescanHead_of_noVolume {s : State} (ha : s.active = none) : rescanHead s = (.refused .noVolume, s) := by
  rw [rescanHead, ha]

/-- The state once a side has joined the rescan list and the command that put it there has its answer. -/
def rescanMarked (s : State) (h : Handle) (d : Side) : State :=
  let t := (s.taking .station 2).setRescan h d
  { t.modLink .station (·.answer (.accepted (t.rescanWords h))) with skippedNow := [] }

/-- A side that joins the list takes a place of it, or counts as overflow of a full one (R80). -/
theorem rescanMarked_eq {s : State} (hc : s.TableClean) {h : Handle} (ha : (s.vol h).state = .active) (d : Side) :
    rescanMarked s h d =
      let rescan := if s.rescan.length < 64 then s.rescan ++ [d] else s.rescan
      let vols := if s.rescan.length < 64 then s.vols else s.vols.set h (overflowed (s.vol h) (· + 1))
      State.postStation
        { s.answered .station 2 (.accepted
            (num16 rescan.length ++ split32 (vols.get h).counters.rescanOverflow)) with
          leaves := (s.setFace h d { s.face h d with rescan := true }).leaves, rescan := rescan, vols := vols }
        .rescanAdded := by
  have hjoin := joinRescan_of_active (s := (s.taking .station 2).setFace h d { s.face h d with rescan := true })
    ⟨hc.zero, hc.one, hc.rescan⟩ ha d
  have hset : (s.taking .station 2).setRescan h d = _ := hjoin
  rw [rescanMarked, hset]
  by_cases hlen : s.rescan.length < 64
  · rw [if_pos hlen, if_pos hlen, if_pos (by exact hlen)]
    rfl
  · rw [if_neg hlen, if_neg hlen, if_neg (by exact hlen)]
    rfl

/-- Settles O21: a clear flag is set and its side joins the list or the overflow; the head is read and stays. -/
theorem markRescanAndRescanHead : Obligations.MarkRescanAndRescanHead := by
  intro s hi c hc
  have answer (l f : Word) {r : Reply} (ha : markRescan l.toNat f.toNat (s.taking .station 2) =
      (r, s.taking .station 2)) : exec (.markRescan l f) s = .next (s.answered .station 2 r) :=
    exec_of_answer hc (exec_markRescan hi l f) ha
  have head (link : MasterLink) {r : Reply} (ha : rescanHead (s.taking link 0) = (r, s.taking link 0)) :
      exec (.rescanHead link) s = .next (s.answered link 0 r) :=
    exec_of_answer hc (exec_rescanHead hi link) ha
  refine ⟨fun ha l f link => ⟨answer l f (markRescan_of_noVolume (s := s.taking .station 2) ha),
    head link (rescanHead_of_noVolume (s := s.taking link 0) ha)⟩, fun h ha => ⟨fun link => ?head,
    fun l f hf => answer l f (markRescan_of_noSide (s := s.taking .station 2) ha (sideOf_of_ge _ _ hf)),
    fun l f face hf => ?mark⟩⟩
  case head =>
    have hx : exec (.rescanHead link) s = .next (s.answered link 0
        (.accepted (s.rescanWords h ++ optWords rescanEntryWords s.rescan.head?))) :=
      head link (rescanHead_of_active (s := s.taking link 0) ha)
    rw [hx, State.rescanWords]
    rcases s.rescan with - | ⟨⟨n, - | -⟩, rest⟩ <;> rfl
  case mark =>
    intro side run refused reply
    have hplace := sideOf_place (s.vol h).leaves l.toNat face
    rw [← hf] at hplace
    refine ⟨fun hside => ?_, fun hside => ?_⟩
    · rw [hside, if_neg Bool.false_ne_true] at hplace
      exact answer l f (markRescan_of_noSide (s := s.taking .station 2) ha hplace)
    · rw [hside, if_pos rfl] at hplace
      refine ⟨fun hv => answer l f (markRescan_of_damaged (s := s.taking .station 2) ha hplace hv), fun hv he =>
        ⟨fun hk => answer l f (markRescan_of_skip (s := s.taking .station 2) ha hplace hv he hk),
         fun hk hset => ?_, fun hk hclear => ?_⟩⟩
      · have hshown := markRescan_of_shown (s := s.taking .station 2) ha hplace hv he hk
        rw [if_pos (by exact hset)] at hshown
        exact answer l f hshown
      · have hshown := markRescan_of_shown (s := s.taking .station 2) ha hplace hv he hk
        rw [if_neg (by exact hclear ▸ Bool.false_ne_true)] at hshown
        refine ⟨rescanMarked s h side, exec_of_effect hc (exec_markRescan hi l f) hshown, ?_⟩
        rw [rescanMarked_eq hc (state_of_active ha)]
        refine ⟨face_setFace_same c _ _ _, fun hlen => ⟨if_pos hlen, if_pos hlen⟩,
          fun hlen => ⟨if_neg (Nat.not_lt_of_le hlen), if_neg (Nat.not_lt_of_le hlen)⟩,
          faceAlone_of_leaves (faceAlone_setFace c _ _ _) rfl, rfl⟩

end Sys2Proof.Proofs
end

section
/-! SUPPORT. The cradle's states and their entries (R47, R49, R57), LOWER, RAISE, RESUME and SET TIMERS. -/
namespace Sys2Proof.Proofs
open Sys2Proof.Machine Sys2Proof.Laws

/-! ### Entering a state, with and without the check of the switches (R47, R57) -/

/-- Settles O23: what each entry writes, state by state. -/
theorem enteringACradleState : Obligations.EnteringACradleState := by
  intro s st t
  refine ⟨rfl, rfl, ?_, ?_, ?_, rfl, rfl, rfl, fun hst => ?_, fun hst => ?_, rfl⟩
  · cases st <;> simp [t, State.enter, Cradle.downDrive]
  · cases st <;> simp [t, State.enter, Cradle.upDrive]
  · cases st <;> simp [t, State.enter, Cradle.permitted]
  · simp only [t, State.enter, Lighting.dark, if_neg hst]
  · simp only [t, State.enter, if_pos hst]

section Enter
variable {s : State} {st : CradleState}

theorem enterChecked_of_agree (ha : switchesAgree st s.cradle.upSwitch s.cradle.downSwitch = true) :
    s.enterChecked st = s.enter st := if_pos ha

theorem enterChecked_of_disagree (ha : ¬switchesAgree st s.cradle.upSwitch s.cradle.downSwitch = true) :
    s.enterChecked st = (s.enter st).halt .interlockCheck := if_neg ha

end Enter

@[simp] theorem cradle_halt (s : State) (cause : HaltCause) : (s.halt cause).cradle = haltedCradle s cause :=
  (halt_spec s cause).2.1

@[simp] theorem state_halt (s : State) (cause : HaltCause) : (s.halt cause).cradle.state = .halted := by
  rw [cradle_halt]
  rfl

theorem agree_raising_iff {up down : Bool} : switchesAgree .raising up down = true ↔ ¬(up = true ∧ down = true) := by
  cases up <;> cases down <;> decide

theorem agree_opened_iff {up down : Bool} : switchesAgree .opened up down = true ↔ up = true ∧ down = false := by
  cases up <;> cases down <;> decide

theorem agree_ready_iff {up down : Bool} : switchesAgree .ready up down = true ↔ up = false ∧ down = true := by
  cases up <;> cases down <;> decide

theorem agree_settling_iff {up down : Bool} : switchesAgree .settling up down = true ↔ up = false ∧ down = true := by
  cases up <;> cases down <;> decide

theorem agree_lowering_iff {up down : Bool} : switchesAgree .lowering up down = true ↔ down = false := by
  cases up <;> cases down <;> decide

/-! ### Reaching READY, SETTLING and OPEN (R51, R52, R55) -/

section Reach
variable {s : State}

theorem reachReady_of_agree (hu : s.cradle.upSwitch = false) (hd : s.cradle.downSwitch = true)
    (hr : s.run.state ≠ .preparing) : s.reachReady = s.enter .ready := by
  rw [State.reachReady, enterChecked_of_agree (agree_ready_iff.2 ⟨hu, hd⟩)]
  exact if_neg fun h => hr h.2

theorem startSettle_of_field (ht : s.timers.settle ≠ 0) :
    s.startSettle = { s with cradle := { s.cradle with settleTimer := some s.timers.settle } } := if_neg ht

theorem startSettle_of_zero (ht : s.timers.settle = 0) : s.startSettle = s.reachReady := if_pos ht

theorem enterSettling_of_disagree (ha : ¬(s.cradle.upSwitch = false ∧ s.cradle.downSwitch = true)) :
    s.enterSettling = (s.enter .settling).halt .interlockCheck := by
  rw [State.enterSettling, enterChecked_of_disagree (mt agree_settling_iff.1 ha)]
  refine if_neg fun h => ?_
  rw [state_halt] at h
  cases h.1

variable (hu : s.cradle.upSwitch = false) (hd : s.cradle.downSwitch = true)
include hu hd

theorem enterSettling_of_noPressure (hp : s.cradle.pressure = false) : s.enterSettling = s.enter .settling := by
  rw [State.enterSettling, enterChecked_of_agree (agree_settling_iff.2 ⟨hu, hd⟩)]
  exact if_neg fun h => Bool.false_ne_true (hp.symm.trans h.2)

theorem enterSettling_of_pressure (hp : s.cradle.pressure = true) :
    s.enterSettling = (s.enter .settling).startSettle := by
  rw [State.enterSettling, enterChecked_of_agree (agree_settling_iff.2 ⟨hu, hd⟩)]
  exact if_pos ⟨rfl, hp⟩

end Reach

section ReachOpen
variable {s : State}

theorem reachOpen_of_disagree (ha : ¬(s.cradle.upSwitch = true ∧ s.cradle.downSwitch = false)) :
    s.reachOpen = (s.enter .opened).halt .interlockCheck := by
  rw [State.reachOpen, enterChecked_of_disagree (mt agree_opened_iff.1 ha)]
  refine if_neg fun h => ?_
  rw [state_halt] at h
  cases h

variable (hu : s.cradle.upSwitch = true) (hd : s.cradle.downSwitch = false)
include hu hd

/-- With nobody waiting for it, the cradle that opens stays OPEN. -/
theorem reachOpen_of_free (hg : s.cradle.grantPending = false) (hr : s.run.state ≠ .preparing) :
    s.reachOpen = (s.enter .opened).postTurner .cradleOpen := by
  rw [State.reachOpen, enterChecked_of_agree (agree_opened_iff.2 ⟨hu, hd⟩)]
  refine (if_pos rfl).trans ((if_neg ?_).trans (if_neg hr))
  exact fun h => Bool.false_ne_true (hg.symm.trans h)

/-- A grant that waits begins with the opening. -/
theorem reachOpen_of_waiting (hg : s.cradle.grantPending = true) :
    s.reachOpen = ((s.enter .opened).postTurner .cradleOpen).beginGrant := by
  rw [State.reachOpen, enterChecked_of_agree (agree_opened_iff.2 ⟨hu, hd⟩)]
  exact (if_pos rfl).trans (if_pos hg)

theorem beginGrant_of_agree : s.beginGrant =
    { s with
      cradle := { s.cradle with grantPending := false }
      turn := { s.turn with phase := .granted } }.enter .turnGranted :=
  enterChecked_of_agree (agree_opened_iff.2 ⟨hu, hd⟩)

end ReachOpen

/-! ### Commands that read no record (R178) -/

section Unread
variable {s t : State} {i : Instr} {c : Cmd} {link : MasterLink} {ws : List Word} {r : Reply}

theorem exec_of_answer_unread (hx : exec i s = done (handed s link c ws))
    (hv : c.volumesRead ws (s.taking link ws.length) = []) (hr : c.readsRescan = false)
    (ha : c.perform link ws (s.taking link ws.length) = (r, s.taking link ws.length)) :
    exec i s = .next (s.answered link ws.length r) :=
  hx.trans (handed_answered ((act_of_reads_none hv hr).trans ha))

theorem exec_of_effect_unread (hx : exec i s = done (handed s link c ws))
    (hv : c.volumesRead ws (s.taking link ws.length) = []) (hr : c.readsRescan = false)
    (ha : c.perform link ws (s.taking link ws.length) = (r, t)) :
    exec i s = .next { t.modLink link (·.answer r) with skippedNow := [] } :=
  hx.trans (handed_next ((act_of_reads_none hv hr).trans ha))

end Unread

/-! ### LOWER (R50) -/

section Lower
variable {s : State}

theorem lower_of_running (hr : s.run.state ≠ .idle) : lower s = (.refused .runActive, s) := by
  rw [lower, runActive_of_busy hr, if_pos rfl]

variable (hr : s.run.state = .idle) (hp : s.cradle.parityGood = true)
include hr hp

theorem lower_of_halted (hs : s.cradle.state = .halted) : lower s = (.refused .halted, s) := by
  rw [lower, runActive_of_idle hr, hp, hs]
  rfl

theorem lower_of_moving (hs : s.cradle.state = .turnGranted ∨ s.cradle.state = .raising) :
    lower s = (.refused .cradleState, s) := by
  rcases hs with hs | hs <;> rw [lower, runActive_of_idle hr, hp, hs] <;> rfl

theorem lower_of_opened (hs : s.cradle.state = .opened) (hd : s.cradle.downSwitch = false) :
    lower s = (.accepted [2], s.enter .lowering) := by
  rw [lower, runActive_of_idle hr, hp, hs, enterChecked_of_agree (agree_lowering_iff.2 hd)]
  rfl

theorem lower_of_low (hs : s.cradle.state = .lowering ∨ s.cradle.state = .settling) :
    lower s = (.accepted s.cradle.state.word, s) := by
  rcases hs with hs | hs <;> rw [lower, runActive_of_idle hr, hp, hs] <;> rfl

theorem lower_of_ready (hs : s.cradle.state = .ready) :
    lower s = (.accepted [4], { s with cradle := { s.cradle with raisePending := false } }) := by
  rw [lower, runActive_of_idle hr, hp, hs]
  rfl

end Lower

theorem exec_lower {s : State} (hi : s.initRunning = false) : exec .lower s = done (handed s .station .lower []) :=
  exec_action rfl rfl rfl (completes_of_arity (fun _ => rfl) rfl) hi

/-! ### RAISE (R53) -/

theorem flagWord_bit (b : Bool) : flagWord b = [if b then 1 else 0] := by cases b <;> rfl

section Raise
variable {s : State}

theorem raise_of_running (hr : s.run.state ≠ .idle) : raise s = (.refused .runActive, s) := by
  rw [Machine.raise, runActive_of_busy hr, if_pos rfl]

variable (hr : s.run.state = .idle) (hp : s.cradle.parityGood = true)
include hr hp

theorem raise_of_halted (hs : s.cradle.state = .halted) : raise s = (.refused .halted, s) := by
  rw [Machine.raise, runActive_of_idle hr, hp, if_pos hs]
  rfl

theorem raise_of_idle (hs : s.cradle.state ≠ .halted) : raise s =
    (.accepted (s.raise.cradle.state.word ++ [if s.raise.cradle.raisePending then 1 else 0]), s.raise) := by
  rw [Machine.raise, runActive_of_idle hr, hp, if_neg hs, ← flagWord_bit]
  rfl

/-- A cradle on its way down, or READY with nothing in flight, is raised (R53). -/
theorem raise_of_down
    (hs : (s.cradle.state = .ready ∧ s.inFlight = false) ∨ s.cradle.state = .settling ∨ s.cradle.state = .lowering)
    (ha : ¬(s.cradle.upSwitch = true ∧ s.cradle.downSwitch = true)) :
    raise s = (.accepted [5, if s.cradle.raisePending then 1 else 0], s.enter .raising) := by
  have hraise : s.raise = s.enter .raising := by
    rw [← enterChecked_of_agree (agree_raising_iff.2 ha)]
    rcases hs with ⟨hs, hf⟩ | hs | hs
    · rw [State.raise, hs, hf]
      rfl
    · rw [State.raise, hs]
    · rw [State.raise, hs]
  have hne : s.cradle.state ≠ .halted := by rcases hs with ⟨hs, -⟩ | hs | hs <;> rw [hs] <;> decide
  rw [raise_of_idle hr hp hne, hraise]
  rfl

/-- A READY cradle waits for its captures (R53). -/
theorem raise_of_flying (hs : s.cradle.state = .ready) (hf : s.inFlight = true) :
    raise s = (.accepted [4, 1], { s with cradle := { s.cradle with raisePending := true } }) := by
  have hraise : s.raise = { s with cradle := { s.cradle with raisePending := true } } := by
    rw [State.raise, hs, hf]
    rfl
  rw [raise_of_idle hr hp (by rw [hs]; decide), hraise, hs]
  rfl

theorem raise_of_up (hs : s.cradle.state = .opened ∨ s.cradle.state = .turnGranted ∨ s.cradle.state = .raising) :
    raise s = (.accepted [BitVec.ofNat 16 s.cradle.state.place, if s.cradle.raisePending then 1 else 0], s) := by
  have hraise : s.raise = s := by rcases hs with hs | hs | hs <;> rw [State.raise, hs]
  have hne : s.cradle.state ≠ .halted := by rcases hs with hs | hs | hs <;> rw [hs] <;> decide
  rw [raise_of_idle hr hp hne, hraise]
  rfl

end Raise

theorem exec_raise {s : State} (hi : s.initRunning = false) : exec .raise s = done (handed s .station .raise []) :=
  exec_action rfl rfl rfl (completes_of_arity (fun _ => rfl) rfl) hi

/-! ### RESUME (R60) -/

section Resume
variable {s : State} (hp : s.cradle.parityGood = true)
include hp

theorem resume_of_moving (hs : s.cradle.state ≠ .halted) : resume s = (.refused .cradleState, s) := by
  rw [resume, hp, if_pos hs]
  rfl

variable (hs : s.cradle.state = .halted)
include hs

theorem resume_of_blocked
    (hb : s.cradle.stopLine = true ∨ (s.cradle.upSwitch = true ∧ s.cradle.downSwitch = true)) :
    resume s = (.refused .halted, s) := by
  rw [resume, hp, hs]
  rcases hb with hb | ⟨hu, hd⟩
  · rw [hb]
    rfl
  · rw [hu, hd]
    exact ite_self _

variable (hl : s.cradle.stopLine = false)
include hl

theorem resume_of_down (hu : s.cradle.upSwitch = false) :
    resume s = (.accepted [5], s.enter .raising) := by
  have ha : switchesAgree .raising s.cradle.upSwitch s.cradle.downSwitch = true := by rw [hu]; rfl
  rw [← enterChecked_of_agree ha, resume, hp, hs, hl, hu, enterChecked_of_agree ha]
  rfl

theorem resume_of_up (hu : s.cradle.upSwitch = true) (hd : s.cradle.downSwitch = false)
    (hg : s.cradle.grantPending = false) (hr : s.run.state ≠ .preparing) :
    resume s = (.accepted [0], (s.enter .opened).postTurner .cradleOpen) := by
  rw [resume, hp, hs, hl, reachOpen_of_free hu hd hg hr, hu, hd]
  rfl

end Resume

theorem exec_resume {s : State} (hi : s.initRunning = false) : exec .resume s = done (handed s .station .resume []) :=
  exec_action rfl rfl rfl (completes_of_arity (fun _ => rfl) rfl) hi

/-- Settles O25: the three commands, cradle state by cradle state. -/
theorem lowerRaiseResume : Obligations.LowerRaiseResume := by
  intro s hi hp st c refused after
  have low {r : Reply} {t : State} (ha : lower (s.taking .station 0) = (r, t)) :
      exec .lower s = .next { t.modLink .station (·.answer r) with skippedNow := [] } :=
    exec_of_effect_unread (exec_lower hi) rfl rfl ha
  have rise {r : Reply} {t : State} (ha : raise (s.taking .station 0) = (r, t)) :
      exec .raise s = .next { t.modLink .station (·.answer r) with skippedNow := [] } :=
    exec_of_effect_unread (exec_raise hi) rfl rfl ha
  have res {r : Reply} {t : State} (ha : resume (s.taking .station 0) = (r, t)) :
      exec .resume s = .next { t.modLink .station (·.answer r) with skippedNow := [] } :=
    exec_of_effect_unread (exec_resume hi) rfl rfl ha
  refine ⟨fun hr => ⟨low (lower_of_running (s := s.taking .station 0) hr),
      rise (raise_of_running (s := s.taking .station 0) hr)⟩,
    fun hr hs => ⟨low (lower_of_halted (s := s.taking .station 0) hr hp hs),
      rise (raise_of_halted (s := s.taking .station 0) hr hp hs)⟩,
    fun hr hs => low (lower_of_moving (s := s.taking .station 0) hr hp hs),
    fun hr hs hd => low (lower_of_opened (s := s.taking .station 0) hr hp hs hd),
    fun hr hs => low (lower_of_low (s := s.taking .station 0) hr hp hs),
    fun hr hs => low (lower_of_ready (s := s.taking .station 0) hr hp hs),
    fun hr hs ha => rise (raise_of_down (s := s.taking .station 0) hr hp hs ha),
    fun hr hs hf => rise (raise_of_flying (s := s.taking .station 0) hr hp hs hf),
    fun hr hs => rise (raise_of_up (s := s.taking .station 0) hr hp hs),
    fun hs => res (resume_of_moving (s := s.taking .station 0) hp hs),
    fun hs hb => res (resume_of_blocked (s := s.taking .station 0) hp hs hb),
    fun hs hl hu => res (resume_of_down (s := s.taking .station 0) hp hs hl hu),
    fun hs hl hu hd hg hr => res (resume_of_up (s := s.taking .station 0) hp hs hl hu hd hg hr)⟩

/-! ### SET TIMERS (R49) -/

/-- Fields written one after another, the first of them the n-th. -/
def fieldsFrom (field : Nat → Nat → State → State) : Nat → List Word → State → State
  | _, [], s => s
  | n, w :: ws, s => fieldsFrom field (n + 1) ws (field n w.toNat s)

theorem arg_append_last (pre : List Word) (w : Word) : arg (pre ++ [w]) pre.length = w.toNat := by
  simp [arg]

/-- A settings command whose every word is a field applies its words in their order (R190). -/
theorem applyFields_eq {c : Cmd} {field : Nat → Nat → State → State}
    (hc : ∀ ws s, c.applyField ws s = field (ws.length - 1) (arg ws (ws.length - 1)) s) (pre ws : List Word)
    (s : State) : applyFields c pre ws s = fieldsFrom field pre.length ws s := by
  induction ws generalizing pre s with
  | nil => rfl
  | cons w ws ih =>
    have hlast : (pre ++ [w]).length - 1 = pre.length := by simp
    have hlength : (pre ++ [w]).length = pre.length + 1 := by simp
    rw [applyFields, ih, hc, hlast, arg_append_last, hlength]
    rfl

theorem clamp_eq {v lo hi : Nat} (h : lo ≤ hi) : clamp v lo hi = max lo (min v hi) := by
  unfold clamp
  split
  · omega
  · split <;> omega

/-- Settles O26: the five fields one after another, each clamped. -/
theorem setTimersClampsEachField : Obligations.SetTimersClampsEachField := by
  intro s a b c d e hi
  rw [exec_spelled s (i := .setTimers a b c d e) rfl, transact_setting rfl hi rfl (fun _ => rfl)
    (completes_of_arity (fun _ => rfl) rfl), applyFields_eq (field := setTimersField) fun _ _ => rfl]
  simp only [fieldsFrom, setTimersField, clamp_eq (show 100 ≤ 5000 by decide), clamp_eq (show 500 ≤ 20000 by decide),
    clamp_eq (show 10 ≤ 5000 by decide)]
  rfl

end Sys2Proof.Proofs
end

section
/-! SUPPORT. The interlock's inputs (R51 to R59): the platen switches, pressure, the settle timer, the stop line's
release and the pedal. -/
namespace Sys2Proof.Proofs
open Sys2Proof.Machine Sys2Proof.Laws

/-! ### The platen switches (R51, R55, R57) -/

theorem checkSwitches_eq (s : State) : s.checkSwitches =
    if switchesAgree s.cradle.state s.cradle.upSwitch s.cradle.downSwitch then s else s.halt .interlockCheck := rfl

/-- An interlock event in a cradle state of good parity (R185). -/
theorem interlock_of_good {s : State} (hp : s.cradle.parityGood = true) (event : State → State) :
    s.interlock event = event s :=
  if_neg fun h => Bool.false_ne_true (h.symm.trans hp)

section Switches
variable {s : State} (hp : s.cradle.parityGood = true)
include hp

theorem downSwitchAsserted_of_clear (hd : s.cradle.downSwitch = false) : downSwitchAsserted s =
    let down : State := { s with cradle := { s.cradle with downSwitch := true } }
    if s.cradle.state = .lowering then down.enterSettling else down.checkSwitches :=
  (if_neg fun h => Bool.false_ne_true (hd.symm.trans h)).trans (interlock_of_good (by exact hp) _)

theorem upSwitchAsserted_of_clear (hu : s.cradle.upSwitch = false) : upSwitchAsserted s =
    let up : State := { s with cradle := { s.cradle with upSwitch := true } }
    if s.cradle.state = .raising then up.reachOpen else up.checkSwitches :=
  (if_neg fun h => Bool.false_ne_true (hu.symm.trans h)).trans (interlock_of_good (by exact hp) _)

theorem switchCleared_up_of_set (hu : s.cradle.upSwitch = true) : switchCleared .up s =
    State.checkSwitches { s with cradle := { s.cradle with upSwitch := false } } :=
  (if_pos hu).trans (interlock_of_good (by exact hp) _)

theorem switchCleared_down_of_set (hd : s.cradle.downSwitch = true) : switchCleared .down s =
    State.checkSwitches { s with cradle := { s.cradle with downSwitch := false } } :=
  (if_pos hd).trans (interlock_of_good (by exact hp) _)

end Switches

/-- Two states that agree end their events alike. -/
theorem done_congr {s t : State} (h : s = t) : done s = .next { t with skippedNow := [] } := h ▸ rfl

/-- Settles O27: a switch that completes a movement, one that agrees with the state, and one that halts. -/
theorem platenSwitches : Obligations.PlatenSwitches := by
  refine ⟨fun s hp => ?_, fun up down => ?_⟩
  · intro c fin down up opened
    have hdown (hd : c.downSwitch = false) := downSwitchAsserted_of_clear hp hd
    have hup (hu : c.upSwitch = false) := upSwitchAsserted_of_clear hp hu
    have lowered (hd : c.downSwitch = false) (hs : c.state = .lowering) : downSwitchAsserted s = down.enterSettling :=
      (hdown hd).trans (if_pos hs)
    have raised (hu : c.upSwitch = false) (hs : c.state = .raising) : upSwitchAsserted s = up.reachOpen :=
      (hup hu).trans (if_pos hs)
    have settles (hu : c.upSwitch = false) (hn : c.pressure = true) :
        down.enterSettling = (down.enter .settling).startSettle := enterSettling_of_pressure hu rfl hn
    refine ⟨fun hd => done_congr (if_pos hd),
      fun hd hs hu hn => done_congr ((lowered hd hs).trans (enterSettling_of_noPressure hu rfl hn)),
      fun hd hs hu hn ht => done_congr ((lowered hd hs).trans ((settles hu hn).trans (startSettle_of_field ht))),
      fun hd hs hu hn ht hr => done_congr ((lowered hd hs).trans ((settles hu hn).trans
        ((startSettle_of_zero (s := down.enter .settling) ht).trans
          (reachReady_of_agree (s := down.enter .settling) hu rfl hr)))),
      fun hd hs hu => done_congr ((lowered hd hs).trans (enterSettling_of_disagree fun h => ?up)),
      fun hd hs => done_congr ((hdown hd).trans (if_neg hs)),
      fun hu => done_congr (if_pos hu),
      fun hu hs hd hg hr => done_congr ((raised hu hs).trans (reachOpen_of_free rfl hd hg hr)),
      fun hu hs hd hg => done_congr ((raised hu hs).trans ((reachOpen_of_waiting (s := up) rfl hd hg).trans
        (beginGrant_of_agree (s := opened) rfl hd))),
      fun hu hs hd => done_congr ((raised hu hs).trans (reachOpen_of_disagree fun h => ?down)),
      fun hu hs => done_congr ((hup hu).trans (if_neg hs)),
      fun hd => done_congr (switchCleared_down_of_set hp hd), fun hu => done_congr (switchCleared_up_of_set hp hu),
      fun hd => done_congr (if_neg (by exact hd ▸ Bool.false_ne_true)),
      fun hu => done_congr (if_neg (by exact hu ▸ Bool.false_ne_true))⟩
    case up => exact Bool.false_ne_true (h.1.symm.trans hu)
    case down => exact Bool.false_ne_true (h.2.symm.trans hd)
  · cases up <;> cases down <;> decide

/-! ### Pressure and the settle timer (R51, R52, R146) -/

section Pressure
variable {s : State} (hp : s.cradle.parityGood = true)

theorem losePressure_of_other (hs : s.cradle.state ≠ .settling) (hr : s.cradle.state ≠ .ready) :
    s.losePressure = s := by
  unfold State.losePressure
  cases h : s.cradle.state
  case settling => exact absurd h hs
  case ready => exact absurd h hr
  all_goals rfl

theorem losePressure_of_settling (hs : s.cradle.state = .settling) :
    s.losePressure = { s with cradle := { s.cradle with settleTimer := none } } := by
  rw [State.losePressure, hs]
  rfl

theorem losePressure_of_flying (hs : s.cradle.state = .ready) (hf : s.inFlight = true) :
    s.losePressure = { s with heads := ⟨s.heads.left.markMotion, s.heads.right.markMotion⟩ } := by
  rw [State.losePressure, hs]
  exact if_pos hf

theorem losePressure_of_free (hs : s.cradle.state = .ready) (hf : s.inFlight = false) :
    s.losePressure = s.enterSettling := by
  rw [State.losePressure, hs]
  exact if_neg fun h => Bool.false_ne_true (hf.symm.trans h)

include hp

theorem pressureLost_of_held (hh : s.cradle.pressure = true) :
    pressureLost s = State.losePressure { s with cradle := { s.cradle with pressure := false } } :=
  (if_pos hh).trans (interlock_of_good (by exact hp) _)

theorem pressureReturned_of_lost (hh : s.cradle.pressure = false) : pressureReturned s =
    let back : State := { s with cradle := { s.cradle with pressure := true } }
    if s.cradle.state = .settling ∧ s.cradle.settleTimer = none then back.startSettle else back :=
  (if_neg fun h => Bool.false_ne_true (hh.symm.trans h)).trans (interlock_of_good (by exact hp) _)

theorem settleTimerExpiry_of_running (ht : s.cradle.settleTimer.isSome = true) : settleTimerExpiry s = s.reachReady := by
  obtain ⟨n, ht⟩ := Option.isSome_iff_exists.1 ht
  rw [settleTimerExpiry, ht]
  exact interlock_of_good hp _

end Pressure

theorem settleTimerExpiry_of_stopped {s : State} (ht : s.cradle.settleTimer = none) : settleTimerExpiry s = s := by
  rw [settleTimerExpiry, ht]

/-- Settles O28: pressure lost and returned, cradle state by cradle state, and the settle timer's expiry. -/
theorem pressureAndSettling : Obligations.PressureAndSettling := by
  intro s hp c fin lost back motion
  have loses (hh : c.pressure = true) : pressureLost s = lost.losePressure := pressureLost_of_held hp hh
  have returns (hh : c.pressure = false) (hs : c.state = .settling) (ht : c.settleTimer = none) :
      pressureReturned s = back.startSettle := (pressureReturned_of_lost hp hh).trans (if_pos ⟨hs, ht⟩)
  refine ⟨fun hh hs => done_congr ((loses hh).trans (losePressure_of_settling hs)),
    fun hh hs hf hu hd => done_congr ((loses hh).trans ((losePressure_of_free (s := lost) hs hf).trans
      (enterSettling_of_noPressure (s := lost) hu hd rfl))),
    fun hh hs hf => done_congr ((loses hh).trans (losePressure_of_flying hs hf)),
    fun hh hs hr => done_congr ((loses hh).trans (losePressure_of_other hs hr)),
    fun hh => done_congr (if_neg (by exact hh ▸ Bool.false_ne_true)),
    fun hh hs ht hn => done_congr ((returns hh hs ht).trans (startSettle_of_field hn)),
    fun hh hs ht hn hu hd hr => done_congr ((returns hh hs ht).trans ((startSettle_of_zero (s := back) hn).trans
      (reachReady_of_agree (s := back) hu hd hr))),
    fun hh hn => done_congr ((pressureReturned_of_lost hp hh).trans (if_neg hn)),
    fun hh => done_congr (if_pos hh),
    fun ht hu hd hr => done_congr ((settleTimerExpiry_of_running hp ht).trans (reachReady_of_agree hu hd hr)),
    fun ht => done_congr (settleTimerExpiry_of_stopped ht)⟩

/-! ### The tests of RUN and SEEK (R154, R155) -/

section StartTests
variable {s : State}

theorem startTests_of_running (hr : s.run.state ≠ .idle) : s.startTests = (.error .runActive, s) := by
  rw [State.startTests, runActive_of_busy hr, if_pos rfl]

variable (hr : s.run.state = .idle)
include hr

theorem startTests_of_noVolume (ha : s.active = none) : s.startTests = (.error .noVolume, s) := by
  rw [State.startTests, runActive_of_idle hr, ha]
  rfl

variable {h : Handle} (ha : s.active = some h) (hc : s.TableClean)
include ha hc

theorem startTests_of_badParity (hp : s.cradle.parityGood = false) :
    s.startTests = (.error .halted, s.halt .interlockCheck) := by
  simp only [State.startTests, runActive_of_idle hr, ha, readVolume_of_clean (vol_clean hc h), hp,
    Bool.false_eq_true, if_false, if_true]
  rfl

variable (hp : s.cradle.parityGood = true)
include hp

/-- The tests past those of the run, the volume and the parity. -/
theorem startTests_of_good : s.startTests =
    if s.cradle.state = .halted then (.error .halted, s)
    else if s.cradle.state = .turnGranted ∨ (s.cradle.state = .raising ∧ s.cradle.grantPending) then
      (.error .cradleState, s)
    else if s.inFlight then (.error .exposureInFlight, s)
    else if (s.vol h).uncertain then (.error .openingUncertain, s)
    else (.ok h, s) := by
  simp only [State.startTests, runActive_of_idle hr, ha, readVolume_of_clean (vol_clean hc h), hp,
    Bool.false_eq_true, Bool.true_eq_false, if_false]

theorem startTests_of_halted (hs : s.cradle.state = .halted) : s.startTests = (.error .halted, s) :=
  (startTests_of_good hr ha hc hp).trans (if_pos hs)

variable (hs : s.cradle.state ≠ .halted)
include hs

theorem startTests_of_turning
    (hb : s.cradle.state = .turnGranted ∨ (s.cradle.state = .raising ∧ s.cradle.grantPending = true)) :
    s.startTests = (.error .cradleState, s) :=
  (startTests_of_good hr ha hc hp).trans ((if_neg hs).trans (if_pos hb))

variable (hb : ¬(s.cradle.state = .turnGranted ∨ (s.cradle.state = .raising ∧ s.cradle.grantPending = true)))
include hb

theorem startTests_of_flying (hf : s.inFlight = true) : s.startTests = (.error .exposureInFlight, s) :=
  (startTests_of_good hr ha hc hp).trans ((if_neg hs).trans ((if_neg hb).trans (if_pos hf)))

variable (hf : s.inFlight = false)
include hf

theorem startTests_of_uncertain (hu : (s.vol h).uncertain = true) : s.startTests = (.error .openingUncertain, s) :=
  (startTests_of_good hr ha hc hp).trans ((if_neg hs).trans ((if_neg hb).trans
    ((if_neg (by rw [hf]; exact Bool.false_ne_true)).trans (if_pos hu))))

theorem startTests_of_ok (hu : (s.vol h).uncertain = false) : s.startTests = (.ok h, s) :=
  (startTests_of_good hr ha hc hp).trans ((if_neg hs).trans ((if_neg hb).trans
    ((if_neg (by rw [hf]; exact Bool.false_ne_true)).trans (if_neg (by rw [hu]; exact Bool.false_ne_true)))))

end StartTests

theorem run_of_refused {s t : State} {count : Nat} {r : Reason} (h : s.startTests = (.error r, t)) :
    run count s = (.refused r, t) := by
  rw [run, h]

theorem run_of_ok {s : State} {count : Nat} {h : Handle} (hs : s.startTests = (.ok h, s)) (hc : count ≤ 4095) :
    run count s =
      let t := State.cycleStep { s with run := s.run.startRun count }
      (.accepted (num16 t.run.state.place), t) := by
  rw [run, hs]
  exact if_neg (Nat.not_lt_of_le hc)

/-! ### The stop line's release and the pedal (R59, R156) -/

section Pedal
variable {s : State} (hr : s.run.state = .idle)
include hr

theorem pedalStart_of_refused {r : Reason} (hs : s.startTests = (.error r, s))
    (hp : s.active = none ∨ s.cradle.parityGood = true) :
    s.pedalStart = { s with run := { s.run with pedalRefusal := some r } } := by
  rw [State.pedalStart, runActive_of_idle hr, run_of_refused hs]
  refine (if_neg Bool.false_ne_true).trans (if_neg fun h => ?_)
  rcases hp with hn | hp
  · rw [hn] at h
    exact absurd h.1 (by decide)
  · exact Bool.false_ne_true (h.2.symm.trans hp)

theorem pedalStart_of_ok {h : Handle} (hs : s.startTests = (.ok h, s)) :
    s.pedalStart =
      let t := State.cycleStep { s with run := s.run.startRun 0 }
      { t with run := { t.run with pedalRefusal := none } } := by
  rw [State.pedalStart, runActive_of_idle hr, run_of_ok hs (Nat.zero_le _)]
  rfl

end Pedal

theorem pedalAsserted_of_blocked {s : State} (hd : s.cradle.pedal = false)
    (hb : s.initRunning = true ∨ s.run.state ≠ .idle) :
    pedalAsserted s = { s with cradle := { s.cradle with pedal := true } } := by
  refine (if_neg fun h => Bool.false_ne_true (hd.symm.trans h)).trans ?_
  rcases hb with hi | hr
  · exact if_pos hi
  · have hstart : State.pedalStart { s with cradle := { s.cradle with pedal := true } } =
        { s with cradle := { s.cradle with pedal := true } } := if_pos (runActive_of_busy hr)
    exact (congrArg (ite _ _) hstart).trans (ite_self _)

theorem pedalAsserted_of_idle {s : State} (hd : s.cradle.pedal = false) (hi : s.initRunning = false) :
    pedalAsserted s = State.pedalStart { s with cradle := { s.cradle with pedal := true } } :=
  (if_neg fun h => Bool.false_ne_true (hd.symm.trans h)).trans
    (if_neg fun h => Bool.false_ne_true (hi.symm.trans h))

/-- Settles O30: the two releases write their levels, and the pedal starts a run or writes its refusal. -/
theorem stopLineAndPedal : Obligations.StopLineAndPedal := by
  intro s c fin down
  refine ⟨rfl, rfl, fun hd => done_congr (if_pos hd), fun hd hb => done_congr (pedalAsserted_of_blocked hd hb),
    fun hd hi hr ha => ?_, ?_⟩
  · exact done_congr ((pedalAsserted_of_idle hd hi).trans
      (pedalStart_of_refused (s := down) hr (startTests_of_noVolume (s := down) hr ha) (.inl ha)))
  · intro h hd hi hc hr ha hp refused busy
    have hc' : down.TableClean := ⟨hc.zero, hc.one, hc.rescan⟩
    have answer {r : Reason} (ht : down.startTests = (.error r, down)) : refused r :=
      done_congr ((pedalAsserted_of_idle hd hi).trans (pedalStart_of_refused (s := down) hr ht (.inr hp)))
    refine ⟨fun hs => answer (startTests_of_halted (s := down) hr ha hc' hp hs),
      fun hb => answer (startTests_of_turning (s := down) hr ha hc' hp ?_ hb),
      fun hs hb hf => answer (startTests_of_flying (s := down) hr ha hc' hp hs hb hf),
      fun hs hb hf hu => answer (startTests_of_uncertain (s := down) hr ha hc' hp hs hb hf hu),
      fun hs hb hf hu => done_congr ((pedalAsserted_of_idle hd hi).trans
        (pedalStart_of_ok (s := down) hr (startTests_of_ok (s := down) hr ha hc' hp hs hb hf hu)))⟩
    rcases hb with hb | ⟨hb, -⟩ <;> exact fun hs => CradleState.noConfusion (hb.symm.trans hs)

end Sys2Proof.Proofs
end

section
/-! SUPPORT. An answer that waits on a link is no part of what a halt does (R58, R188): every operation of a halt comes
to the same whether the answer is queued before it or after. -/
namespace Sys2Proof.Proofs
open Sys2Proof.Machine Sys2Proof.Laws

/-- A state with an answer queued on a link. -/
def answering (link : MasterLink) (r : Reply) (s : State) : State := s.modLink link (·.answer r)

section Answering
variable (link : MasterLink) (r : Reply)

/-! ### Notices, faults and reads -/

theorem postStation_answering (s : State) (n : StationNotice) :
    (answering link r s).postStation n = answering link r (s.postStation n) := by cases link <;> rfl

theorem postTurner_answering (s : State) (n : TurnerNotice) :
    (answering link r s).postTurner n = answering link r (s.postTurner n) := by cases link <;> rfl

theorem unpostTurner_answering (s : State) (n : TurnerNotice) :
    (answering link r s).unpostTurner n = answering link r (s.unpostTurner n) := by cases link <;> rfl

theorem report_answering (s : State) (f : FaultRecord) :
    (answering link r s).report f = answering link r (s.report f) := by cases link <;> rfl

theorem readVolume_answering (s : State) (h : Handle) :
    (answering link r s).readVolume h = answering link r (s.readVolume h) := by
  unfold State.readVolume
  rw [apply_ite (answering link r)]
  cases link <;> rfl

theorem modVol_answering (s : State) (h : Handle) (f : Volume → Volume) :
    (answering link r s).modVol h f = answering link r (s.modVol h f) := by
  rw [State.modVol, readVolume_answering]
  rfl

theorem readActive_answering (s : State) : (answering link r s).readActive = answering link r s.readActive := by
  unfold State.readActive
  rw [show (answering link r s).active = s.active from rfl]
  cases s.active with
  | none => rfl
  | some h => exact readVolume_answering link r s h

/-! ### Leaf records and slots -/

theorem damageLeaf_answering (s : State) (h : Handle) (n : Nat) :
    (answering link r s).damageLeaf h n = answering link r (s.damageLeaf h n) := by
  unfold State.damageLeaf State.count
  rw [← report_answering, ← modVol_answering]
  rfl

theorem readLeaf_answering (s : State) (h : Handle) (n : Nat) (ws : List LeafWord) :
    (answering link r s).readLeaf h n ws =
      ((s.readLeaf h n ws).1, answering link r (s.readLeaf h n ws).2) := by
  unfold State.readLeaf
  rw [damageLeaf_answering, show (answering link r s).leaf h n = s.leaf h n from rfl]
  dsimp only
  split
  · rfl
  · split
    · rfl
    · split
      · cases link <;> rfl
      · rfl

theorem skipUpdate_answering (s : State) (h : Handle) (n : Nat) :
    (answering link r s).skipUpdate h n = answering link r (s.skipUpdate h n) := by
  unfold State.skipUpdate
  rw [apply_ite (answering link r)]
  cases link <;> rfl

theorem updateFace_answering (s : State) (h : Handle) (d : Side) (ws : List LeafWord) (f : FaceRecord → FaceRecord) :
    (answering link r s).updateFace h d ws f =
      ((s.updateFace h d ws f).1, answering link r (s.updateFace h d ws f).2) := by
  unfold State.updateFace
  rw [readLeaf_answering]
  rcases s.readLeaf h d.leaf ws with ⟨- | -, t⟩
  · exact congrArg (Prod.mk false) (skipUpdate_answering link r t h d.leaf)
  · rfl

theorem drainIfLast_answering (s : State) (h : Handle) :
    (answering link r s).drainIfLast h = answering link r (s.drainIfLast h) := by
  unfold State.drainIfLast
  rw [readVolume_answering]
  dsimp only
  rw [modVol_answering, postStation_answering]
  exact (apply_ite (answering link r) _ _ _).symm

theorem freeSlot_answering (s : State) (i : SlotNo) :
    (answering link r s).freeSlot i = answering link r (s.freeSlot i) := by
  unfold State.freeSlot
  rw [show (answering link r s).slot i = s.slot i from rfl]
  cases (s.slot i).owner with
  | none => rfl
  | some o => exact drainIfLast_answering link r (s.clearSlot i) o.handle

theorem discardSlot_answering (s : State) (i : SlotNo) :
    (answering link r s).discardSlot i = answering link r (s.discardSlot i) := by
  unfold State.discardSlot
  rw [show (answering link r s).slot i = s.slot i from rfl]
  cases (s.slot i).owner with
  | none => exact freeSlot_answering link r s i
  | some o =>
    dsimp only
    rw [State.count, modVol_answering, State.removePending, updateFace_answering]
    exact freeSlot_answering link r _ i

/-! ### Captures, the run and the turn -/

theorem abortCapture_answering (s : State) (h : Head) (cause : AbortCause) :
    (answering link r s).abortCapture h cause = answering link r (s.abortCapture h cause) := by
  have hfreed (slot : Option SlotNo) (t : State) :
      (match slot with
        | some i => (answering link r t).discardSlot i
        | none => answering link r t) =
      answering link r (match slot with
        | some i => t.discardSlot i
        | none => t) := by
    cases slot with
    | none => rfl
    | some i => exact discardSlot_answering link r t i
  unfold State.abortCapture
  rw [show (answering link r s).head h = s.head h from rfl]
  split
  · rfl
  · cases cause.fault with
    | none => exact hfreed _ (s.modHead h (·.aborted cause))
    | some c =>
      refine (congrArg (State.report · _) (hfreed _ (s.modHead h (·.aborted cause)))).trans ?_
      exact report_answering link r _ _

theorem abortAll_answering (s : State) (cause : AbortCause) :
    (answering link r s).abortAll cause = answering link r (s.abortAll cause) := by
  unfold State.abortAll
  rw [abortCapture_answering, abortCapture_answering, postStation_answering]
  exact (apply_ite (answering link r) _ _ _).symm

theorem endRun_answering (s : State) (reason : EndReason) (detail : EndDetail) :
    (answering link r s).endRun reason detail = answering link r (s.endRun reason detail) := by
  unfold State.endRun
  rw [readActive_answering, ← postStation_answering, ← unpostTurner_answering]
  rfl

theorem haltRun_answering (s : State) : (answering link r s).haltRun = answering link r s.haltRun := by
  unfold State.haltRun
  rw [endRun_answering]
  exact (apply_ite (answering link r) _ _ _).symm

theorem setUncertain_answering (s : State) :
    (answering link r s).setUncertain = answering link r s.setUncertain := by
  unfold State.setUncertain
  rw [show (answering link r s).active = s.active from rfl]
  cases s.active with
  | none => rfl
  | some h => exact modVol_answering link r s h _

theorem cancelTurn_answering (s : State) (cause : HaltCause) :
    (answering link r s).cancelTurn cause = answering link r (s.cancelTurn cause) := by
  unfold State.cancelTurn
  rw [show (answering link r s).turn = s.turn from rfl]
  cases s.turn.phase
  case granted =>
    dsimp only
    rw [apply_ite (answering link r), ← setUncertain_answering, ← postTurner_answering]
    rfl
  all_goals rfl

theorem reportHalt_answering (s : State) (cause : HaltCause) :
    (answering link r s).reportHalt cause = answering link r (s.reportHalt cause) := by
  unfold State.reportHalt
  cases cause.fault with
  | none => rfl
  | some c => exact report_answering link r s _

theorem halt_answering (s : State) (cause : HaltCause) :
    (answering link r s).halt cause = answering link r (s.halt cause) := by
  unfold State.halt
  dsimp only
  rw [← reportHalt_answering, ← postTurner_answering, ← postStation_answering, ← cancelTurn_answering,
    ← abortAll_answering, ← haltRun_answering]
  rfl

end Answering

end Sys2Proof.Proofs
end

section
/-! SUPPORT. What the discard of a capture can touch (R35), and the fields of a halted state that its order of effects
settles (R58). -/
namespace Sys2Proof.Proofs
open Sys2Proof.Machine Sys2Proof.Laws

/-! ### What a discard can touch -/

/-- A state without what the discard of a capture writes: volume and leaf records, slots, the delivery queue, the fault
report and the station's notices. -/
def discardFrame (s : State) : State :=
  { s with
    links := { s.links with station := { s.links.station with notices := 0 } }
    vols := ⟨Volume.empty, Volume.empty⟩, leaves := [], slots := Vector.replicate 8 Slot.cleared
    delivery := { s.delivery with queue := [] }, faults := FaultReport.reset, skippedNow := [] }

/-- What holds of a state and one that only discards, corrections and reports have led to: outside their reach nothing
changes, no volume moves its pointer, becomes ACTIVE or ceases to be, and no notice is taken back. -/
structure Discarding (s t : State) : Prop where
  frame : discardFrame t = discardFrame s
  opening : ∀ h, (t.vol h).opening = (s.vol h).opening
  uncertain : ∀ h, (t.vol h).uncertain = (s.vol h).uncertain
  active : ∀ h, (t.vol h).state = .active ↔ (s.vol h).state = .active
  notices : ∀ i, s.links.station.notices.getLsbD i = true → t.links.station.notices.getLsbD i = true

theorem Discarding.refl (s : State) : Discarding s s := ⟨rfl, fun _ => rfl, fun _ => rfl, fun _ => Iff.rfl, fun _ => id⟩

theorem Discarding.trans {s t u : State} (a : Discarding s t) (b : Discarding t u) : Discarding s u where
  frame := b.frame.trans a.frame
  opening h := (b.opening h).trans (a.opening h)
  uncertain h := (b.uncertain h).trans (a.uncertain h)
  active h := (b.active h).trans (a.active h)
  notices i n := b.notices i (a.notices i n)

/-- A step that writes no volume record and no notice. -/
theorem discarding_of_frame {s t : State} (hf : discardFrame t = discardFrame s) (hv : t.vols = s.vols)
    (hn : t.links.station.notices = s.links.station.notices) : Discarding s t where
  frame := hf
  opening h := by rw [State.vol, State.vol, hv]
  uncertain h := by rw [State.vol, State.vol, hv]
  active h := by rw [State.vol, State.vol, hv]
  notices i n := by rwa [hn]

theorem addNotice_keeps {set : Word} {place i : Nat} (h : set.getLsbD i = true) :
    (addNotice set place).getLsbD i = true := by
  by_cases hi : i < 16
  · rw [getLsbD_addNotice set place hi, h]
    rfl
  · rw [BitVec.getLsbD_of_ge _ _ (Nat.le_of_not_lt hi)] at h
    exact absurd h Bool.false_ne_true

theorem addNotice_has (set : Word) {place : Nat} (h : place < 16) : (addNotice set place).getLsbD place = true := by
  rw [getLsbD_addNotice set place h, beq_self_eq_true, Bool.or_true]

theorem discarding_postStation (s : State) (n : StationNotice) : Discarding s (s.postStation n) :=
  ⟨rfl, fun _ => rfl, fun _ => rfl, fun _ => Iff.rfl, fun _ => addNotice_keeps⟩

theorem discarding_report (s : State) (r : FaultRecord) : Discarding s (s.report r) :=
  ⟨rfl, fun _ => rfl, fun _ => rfl, fun _ => Iff.rfl, fun _ => addNotice_keeps⟩

theorem vol_setVols (s : State) (h h' : Handle) (v : Volume) :
    State.vol { s with vols := s.vols.set h v } h' = if h' = h then v else s.vol h' := by
  cases h <;> cases h' <;> rfl

/-- A write of one volume record that leaves its pointer, its flag and its being ACTIVE. -/
theorem discarding_setVol {s : State} {h : Handle} {v : Volume} (ho : v.opening = (s.vol h).opening)
    (hu : v.uncertain = (s.vol h).uncertain) (ha : v.state = .active ↔ (s.vol h).state = .active) :
    Discarding s { s with vols := s.vols.set h v } where
  frame := rfl
  opening h' := by
    rw [vol_setVols]
    split
    · next e => rw [e, ho]
    · rfl
  uncertain h' := by
    rw [vol_setVols]
    split
    · next e => rw [e, hu]
    · rfl
  active h' := by
    rw [vol_setVols]
    split
    · next e => rw [e, ha]
    · rfl
  notices _ := id

theorem discarding_recovered (s : State) (c : FaultClass) (k : Nat) : Discarding s (s.recovered c k) :=
  discarding_of_frame rfl rfl rfl

theorem discarding_readVolume (s : State) (h : Handle) : Discarding s (s.readVolume h) := by
  unfold State.readVolume
  split
  · exact Discarding.refl s
  · exact (discarding_setVol (v := (s.vol h).corrected) rfl rfl Iff.rfl).trans (discarding_recovered _ _ _)

theorem discarding_readActive (s : State) : Discarding s s.readActive := by
  unfold State.readActive
  split
  · exact Discarding.refl s
  · exact discarding_readVolume s _

theorem vol_readVolume (s : State) (h : Handle) : (s.readVolume h).vol h = (s.vol h).corrected := by
  rw [State.vol, (fields_readVolume s h).2.2.2.2.1, PerHandle_get_set_same]
  rfl

theorem discarding_modVol {s : State} {h : Handle} {f : Volume → Volume}
    (ho : (f (s.vol h).corrected).opening = (s.vol h).opening)
    (hu : (f (s.vol h).corrected).uncertain = (s.vol h).uncertain)
    (ha : (f (s.vol h).corrected).state = .active ↔ (s.vol h).state = .active) : Discarding s (s.modVol h f) := by
  have hv : (s.readVolume h).vols.get h = (s.vol h).corrected := vol_readVolume s h
  refine (discarding_readVolume s h).trans (discarding_setVol ?_ ?_ ?_) <;> rw [hv, vol_readVolume]
  · exact ho
  · exact hu
  · exact ha

theorem discarding_count (s : State) (h : Handle) (f : VolumeCounters → VolumeCounters) :
    Discarding s (s.count h f) := discarding_modVol rfl rfl Iff.rfl

theorem discarding_setLeaf (s : State) (h : Handle) (n : Nat) (r : LeafRecord) : Discarding s (s.setLeaf h n r) :=
  discarding_of_frame rfl rfl rfl

theorem discarding_readLeaf (s : State) (h : Handle) (n : Nat) (ws : List LeafWord) :
    Discarding s (s.readLeaf h n ws).2 := by
  unfold State.readLeaf
  dsimp only
  split
  · exact Discarding.refl s
  · split
    · exact ((discarding_setLeaf s h n _).trans (discarding_count _ h _)).trans (discarding_report _ _)
    · split
      · exact discarding_of_frame rfl rfl rfl
      · exact Discarding.refl s

theorem discarding_skipUpdate (s : State) (h : Handle) (n : Nat) : Discarding s (s.skipUpdate h n) := by
  unfold State.skipUpdate
  split
  · exact Discarding.refl s
  · exact discarding_of_frame rfl rfl rfl

theorem discarding_updateFace (s : State) (h : Handle) (d : Side) (ws : List LeafWord)
    (f : FaceRecord → FaceRecord) : Discarding s (s.updateFace h d ws f).2 := by
  have hread := discarding_readLeaf s h d.leaf ws
  unfold State.updateFace
  generalize s.readLeaf h d.leaf ws = read at hread ⊢
  rcases read with ⟨- | -, t⟩
  · exact hread.trans (discarding_skipUpdate t h d.leaf)
  · exact hread.trans (discarding_setLeaf t h d.leaf _)

theorem discarding_clearSlot (s : State) (i : SlotNo) : Discarding s (s.clearSlot i) := discarding_of_frame rfl rfl rfl

theorem discarding_drainIfLast (s : State) (h : Handle) : Discarding s (s.drainIfLast h) := by
  refine (discarding_readVolume s h).trans ?_
  unfold State.drainIfLast
  dsimp only
  split
  · next hd =>
    refine (discarding_modVol rfl rfl ?_).trans (discarding_postStation _ _)
    rw [hd.1]
    exact iff_of_false VolumeState.noConfusion VolumeState.noConfusion
  · exact Discarding.refl _

theorem discarding_freeSlot (s : State) (i : SlotNo) : Discarding s (s.freeSlot i) := by
  unfold State.freeSlot
  cases (s.slot i).owner with
  | none => exact discarding_clearSlot s i
  | some o => exact (discarding_clearSlot s i).trans (discarding_drainIfLast _ o.handle)

theorem discarding_discardSlot (s : State) (i : SlotNo) : Discarding s (s.discardSlot i) := by
  unfold State.discardSlot
  cases (s.slot i).owner with
  | none => exact discarding_freeSlot s i
  | some o =>
    exact ((discarding_count s o.handle _).trans (discarding_updateFace _ _ _ _ _)).trans (discarding_freeSlot _ i)

/-- Which volume is ACTIVE goes by the states of the two. -/
theorem active_congr {s t : State} (h : ∀ h, (t.vol h).state = .active ↔ (s.vol h).state = .active) :
    t.active = s.active := by
  have hz : (t.vols.zero.state = .active) = (s.vols.zero.state = .active) := propext (h .zero)
  have ho : (t.vols.one.state = .active) = (s.vols.one.state = .active) := propext (h .one)
  simp only [State.active, hz, ho]

/-- A state reached so is the one before with the fields that discards write. -/
theorem Discarding.eq {s t : State} (a : Discarding s t) :
    t = { s with
      links := { s.links with station := { s.links.station with notices := t.links.station.notices } }
      vols := t.vols, leaves := t.leaves, slots := t.slots
      delivery := { s.delivery with queue := t.delivery.queue }, faults := t.faults
      skippedNow := t.skippedNow } :=
  congrArg (fun x : State => { x with
    links := { x.links with station := { x.links.station with notices := t.links.station.notices } }
    vols := t.vols, leaves := t.leaves, slots := t.slots
    delivery := { x.delivery with queue := t.delivery.queue }, faults := t.faults
    skippedNow := t.skippedNow }) a.frame

/-! ### Aborting captures (R114) -/

/-- An abort writes its head and discards the capture; a fault of it is reported. -/
theorem discarding_abortCapture {s : State} {h : Head} (hp : (s.head h).phase ≠ .idle) (cause : AbortCause) :
    Discarding (s.modHead h (·.aborted cause)) (s.abortCapture h cause) := by
  unfold State.abortCapture
  rw [if_neg hp]
  have hslot : Discarding (s.modHead h (·.aborted cause))
      (match (s.head h).capture.bind (·.slot) with
        | some i => (s.modHead h (·.aborted cause)).discardSlot i
        | none => s.modHead h (·.aborted cause)) := by
    cases (s.head h).capture.bind (·.slot) with
    | none => exact Discarding.refl _
    | some i => exact discarding_discardSlot _ i
  cases cause.fault with
  | none => exact hslot
  | some c => exact hslot.trans (discarding_report _ _)

theorem abortCapture_of_idle {s : State} {h : Head} (hp : (s.head h).phase = .idle) (cause : AbortCause) :
    s.abortCapture h cause = s := if_pos hp

/-- A head once a capture it may have been taking has been aborted. -/
def HeadUnit.stopped (u : HeadUnit) (cause : AbortCause) : HeadUnit :=
  if u.phase = .idle then u else u.aborted cause

theorem discarding_abortCapture_stopped (s : State) (h : Head) (cause : AbortCause) :
    Discarding (s.modHead h (HeadUnit.stopped · cause)) (s.abortCapture h cause) := by
  by_cases hp : (s.head h).phase = .idle
  · have hsame : s.modHead h (HeadUnit.stopped · cause) = s := by
      have hu : HeadUnit.stopped (s.heads.get h) cause = s.heads.get h := if_pos hp
      rw [State.modHead, hu]
      cases h <;> rfl
    rw [abortCapture_of_idle hp, hsame]
    exact Discarding.refl s
  · have hu : HeadUnit.stopped (s.heads.get h) cause = (s.heads.get h).aborted cause := if_neg hp
    have hmod : s.modHead h (HeadUnit.stopped · cause) = s.modHead h (·.aborted cause) := by
      rw [State.modHead, hu]
      rfl
    rw [hmod]
    exact discarding_abortCapture hp cause

end Sys2Proof.Proofs
end

section
/-! SUPPORT. Discards counted exactly (R35, R10, R44): what becomes of the slots, the panels, the counters and the queue
when captures with sound records are discarded, one after another. -/
namespace Sys2Proof.Proofs
open Sys2Proof.Machine Sys2Proof.Laws

/-! ### Panels of a face (R19, R30) -/

theorem panel_number (f : FaceRecord) (p : Nat) : (f.panel p).number = p := by
  rw [FaceRecord.panel, FaceRecord.panel?]
  cases h : f.panels.find? fun e => decide (e.number = p) with
  | none => rfl
  | some e => simpa using List.find?_some h

theorem find_insertPanel (e : PanelEntry) (l : List PanelEntry) (p : Nat) :
    (insertPanel e l).find? (fun x => decide (x.number = p)) =
      if e.number = p then some e else l.find? fun x => decide (x.number = p) := by
  induction l with
  | nil => by_cases hp : e.number = p <;> simp [insertPanel, hp]
  | cons x xs ih =>
    rw [insertPanel]
    split
    · by_cases hp : e.number = p <;> simp [hp]
    · split
      · next hx => by_cases hp : e.number = p <;> simp [hp, ← hx]
      · next hx =>
        rw [List.find?_cons, ih]
        by_cases hp : e.number = p
        · have hxp : x.number ≠ p := fun h => hx (hp.trans h.symm)
          simp [hp, hxp]
        · simp [hp, List.find?_cons]

theorem panel?_modPanel {f : FaceRecord} {q : Nat} {g : PanelEntry → PanelEntry}
    (hg : (g (f.panel q)).number = q) (p : Nat) :
    (f.modPanel q g).panel? p = if p = q then some (g (f.panel q)) else f.panel? p := by
  rw [FaceRecord.modPanel, FaceRecord.panel?, find_insertPanel, hg]
  exact ite_of_iff eq_comm rfl rfl

theorem panel_modPanel {f : FaceRecord} {q : Nat} {g : PanelEntry → PanelEntry}
    (hg : (g (f.panel q)).number = q) (p : Nat) :
    (f.modPanel q g).panel p = if p = q then g (f.panel q) else f.panel p := by
  rw [FaceRecord.panel, panel?_modPanel hg]
  split <;> rfl

/-! ### Faces of a state -/

theorem setFace_marks (r : LeafRecord) (f : Face) (x : FaceRecord) :
    r.setFace f x = { r with recto := (r.setFace f x).recto, verso := (r.setFace f x).verso }.keepMarks := by
  cases f <;> rfl

theorem leaf_setFace_eq {s : State} (c : s.Canonical) {h h' : Handle} {d : Side} {n : Nat} (hd : d.leaf ≤ 2047)
    (hn : n ≤ 2047) (x : FaceRecord) : (s.setFace h d x).leaf h' n =
      if h = h' ∧ d.leaf = n then (s.leaf h d.leaf).setFace d.face x else s.leaf h' n := leaf_setLeaf c hd hn _

theorem face_setFace_eq {s : State} (c : s.Canonical) {h h' : Handle} {d d' : Side} (hd : d.leaf ≤ 2047)
    (hd' : d'.leaf ≤ 2047) (x : FaceRecord) :
    (s.setFace h d x).face h' d' = if h = h' ∧ d = d' then x else s.face h' d' := by
  rw [State.face, State.setFace, leaf_setLeaf c hd hd']
  obtain ⟨n, f⟩ := d
  obtain ⟨n', f'⟩ := d'
  by_cases hh : h = h' ∧ n = n'
  · obtain ⟨rfl, rfl⟩ := hh
    rw [if_pos ⟨rfl, rfl⟩]
    cases f <;> cases f' <;> simp [LeafRecord.setFace, LeafRecord.keepMarks, LeafRecord.face, State.face]
  · rw [if_neg hh, if_neg fun e => hh ⟨e.1, congrArg Side.leaf e.2⟩]
    rfl

/-! ### The discard of a set of slots -/

/-- A state without the fields that a discard with sound records writes. -/
def partsFrame (s : State) : State :=
  { s with
    vols := ⟨Volume.empty, Volume.empty⟩, leaves := [], slots := Vector.replicate 8 Slot.cleared
    delivery := { s.delivery with queue := [] } }

/-- A volume with captures passed to its discarded ones, some of them from its kept ones. -/
def discounted (v : Volume) (gone settled : Nat) : Volume :=
  { v with counters := { v.counters with
      discarded := v.counters.discarded + BitVec.ofNat 32 gone
      kept := v.counters.kept - BitVec.ofNat 32 settled } }

/-- Some slots have been freed, the captures of some discarded from their panels' pending parts and those of others from
the settled parts; no volume has been closed by it. -/
structure PartsGone (s t : State) (pending settled : SlotNo → Bool) : Prop where
  frame : partsFrame t = partsFrame s
  slots : ∀ i, t.slot i = if pending i || settled i then Slot.cleared else s.slot i
  queue : t.delivery.queue = s.delivery.queue.filter fun i => !(pending i || settled i)
  vols : ∀ h, t.vol h =
    discounted (s.vol h) (s.ownedAmong h fun i => pending i || settled i) (s.ownedAmong h settled)
  panel : ∀ h d p, d.leaf ≤ 2047 →
    (t.face h d).panel p =
      { (s.face h d).panel p with
        pending := if allSlots.any (fun i => pending i && (s.slot i).owner == some ⟨h, d.leaf, d.face, p⟩) then none
          else ((s.face h d).panel p).pending
        settled := if allSlots.any (fun i => settled i && (s.slot i).owner == some ⟨h, d.leaf, d.face, p⟩ &&
            (s.slot i).generation == ((s.face h d).panel p).generation) then .none
          else ((s.face h d).panel p).settled }
  face : ∀ h d, d.leaf ≤ 2047 → { t.face h d with panels := [] } = { s.face h d with panels := [] }
  record : ∀ h n, n ≤ 2047 →
    (t.leaf h n).kind = (s.leaf h n).kind ∧ (t.leaf h n).valid = (s.leaf h n).valid ∧
      (t.leaf h n).errors = (s.leaf h n).errors
  marks : ∀ h n, n ≤ 2047 → t.leaf h n = s.leaf h n ∨
    t.leaf h n = { s.leaf h n with recto := (t.leaf h n).recto, verso := (t.leaf h n).verso }.keepMarks
  others : ∀ h n, n ≤ 2047 →
    (∀ i o, (pending i || settled i) = true → (s.slot i).owner = some o → ¬(o.handle = h ∧ o.leaf = n)) →
    t.leaf h n = s.leaf h n
  canonical : s.Canonical → t.Canonical

theorem PartsGone.slotsFreed {s t : State} {pending settled : SlotNo → Bool} (a : PartsGone s t pending settled) :
    SlotsFreed s t fun i => pending i || settled i where
  slots := a.slots
  delivery := by
    have hrest : { t.delivery with queue := [] } = { s.delivery with queue := [] } := congrArg State.delivery a.frame
    exact (congrArg (fun d : DeliveryUnit => { d with queue := t.delivery.queue }) hrest).trans
      (by rw [a.queue])

theorem PartsGone.partsRemoved {s t : State} {pending settled : SlotNo → Bool} (a : PartsGone s t pending settled) :
    PartsRemoved s t pending settled where
  panel := a.panel
  face := a.face
  record := a.record
  kept h n hn := by
    rcases a.marks h n hn with e | e
    · exact .inl (by rw [e])
    · exact .inr e
  others := a.others

/-- A state so reached is the one before with the fields that discards write. -/
theorem PartsGone.eq {s t : State} {pending settled : SlotNo → Bool} (a : PartsGone s t pending settled) :
    t = { s with
      vols := t.vols, leaves := t.leaves, slots := t.slots
      delivery := { s.delivery with queue := t.delivery.queue } } :=
  congrArg (fun x : State => { x with
    vols := t.vols, leaves := t.leaves, slots := t.slots
    delivery := { x.delivery with queue := t.delivery.queue } }) a.frame

theorem countP_or_of_disjoint {α : Type} {p q r : α → Bool} (l : List α)
    (h : ∀ a, (r a).toNat = (p a).toNat + (q a).toNat) : l.countP r = l.countP p + l.countP q := by
  induction l with
  | nil => rfl
  | cons a l ih =>
    have ha := h a
    rw [List.countP_cons, List.countP_cons, List.countP_cons, ih]
    cases hr : r a <;> cases hp : p a <;> cases hq : q a <;> simp [hr, hp, hq] at ha ⊢ <;> omega

theorem any_or_of_pointwise {α : Type} {p q r : α → Bool} (l : List α) (h : ∀ a, r a = (p a || q a)) :
    l.any r = (l.any p || l.any q) := by
  induction l with
  | nil => rfl
  | cons a l ih =>
    rw [List.any_cons, List.any_cons, List.any_cons, ih, h]
    cases p a <;> cases q a <;> simp

theorem ite_bool_or {α : Type} (x y : Bool) (a b : α) :
    (if (x || y) = true then a else b) = if y = true then a else if x = true then a else b := by
  cases x <;> cases y <;> rfl

theorem PartsGone.refl (s : State) : PartsGone s s (fun _ => false) fun _ => false := by
  have hnone (h : Handle) : (s.ownedAmong h fun _ => false) = 0 := by simp [State.ownedAmong]
  refine ⟨rfl, fun i => rfl, ?_, fun h => ?_, fun h d p _ => ?_, fun _ _ _ => rfl, fun _ _ _ => ⟨rfl, rfl, rfl⟩,
    fun _ _ _ => .inl rfl, fun _ _ _ _ => rfl, id⟩
  · exact (List.filter_eq_self.2 fun _ _ => rfl).symm
  · simp only [Bool.or_false, hnone, discounted, BitVec.add_zero, BitVec.sub_zero]
  · simp

section Trans
variable {s t u : State} {p q p' q' : SlotNo → Bool} (a : PartsGone s t p q) (b : PartsGone t u p' q')
include a

/-- An owner that a slot still has, it had from the start. -/
theorem PartsGone.owner {i : SlotNo} {o : Owner} (h : (t.slot i).owner = some o) :
    (p i || q i) = false ∧ (s.slot i).owner = some o := by
  rw [a.slots i] at h
  split at h
  · cases h
  · next hn => exact ⟨eq_false_of_ne_true hn, h⟩

theorem PartsGone.owner_of_stays {i : SlotNo} (h : (p i || q i) = false) : t.slot i = s.slot i := by
  rw [a.slots i, h, if_neg Bool.false_ne_true]

theorem PartsGone.ownedAmong_or (h : Handle) (g : SlotNo → Bool) {r : SlotNo → Bool}
    (hr : ∀ i, r i = (p i || q i)) {w : SlotNo → Bool} (hw : ∀ i, w i = true → r i = true) :
    s.ownedAmong h (fun i => w i || g i && !r i) = s.ownedAmong h w + t.ownedAmong h g := by
  refine countP_or_of_disjoint _ fun i => ?_
  have hs := a.slots i
  rw [← hr i] at hs
  have hi := hw i
  cases hri : r i with
  | false =>
    rw [hri] at hs
    have hwi : w i = false := eq_false_of_ne_true fun e => Bool.false_ne_true (hri.symm.trans (hi e))
    rw [hs]
    simp [hwi, hri]
  | true =>
    rw [hri, if_pos rfl] at hs
    rw [hs]
    simp [Slot.cleared, hri]

theorem PartsGone.trans (b : PartsGone t u p' q') :
    PartsGone s u (fun i => p i || (p' i && !(p i || q i))) (fun i => q i || (q' i && !(p i || q i))) := by
  have hgone (i : SlotNo) : ((p i || (p' i && !(p i || q i))) || (q i || (q' i && !(p i || q i)))) =
      ((p i || q i) || ((p' i || q' i) && !(p i || q i))) := by
    cases p i <;> cases q i <;> cases p' i <;> cases q' i <;> rfl
  have hany {w w' : SlotNo → Bool} (hw : ∀ i, w i = true → (p i || q i) = true) (test : Slot → Bool)
      (htest : test Slot.cleared = false) :
      allSlots.any (fun i => (w i || (w' i && !(p i || q i))) && test (s.slot i)) =
        (allSlots.any (fun i => w i && test (s.slot i)) || allSlots.any fun i => w' i && test (t.slot i)) := by
    refine any_or_of_pointwise _ fun i => ?_
    have hi := hw i
    rw [a.slots i]
    cases hr : (p i || q i) with
    | false =>
      rw [hr] at hi
      have hwi : w i = false := eq_false_of_ne_true fun e => Bool.false_ne_true (hi e)
      simp [hwi]
    | true => simp [htest]
  refine ⟨b.frame.trans a.frame, fun i => ?_, ?_, fun h => ?_, fun h d k hd => ?_,
    fun h d hd => (b.face h d hd).trans (a.face h d hd), fun h n hn => ?_, fun h n hn => ?_, fun h n hn ho => ?_,
    fun c => b.canonical (a.canonical c)⟩
  · rw [hgone, b.slots i, a.slots i]
    cases p i || q i <;> cases p' i || q' i <;> rfl
  · rw [b.queue, a.queue, List.filter_filter]
    refine List.filter_congr fun i _ => ?_
    rw [hgone]
    cases p i || q i <;> cases p' i || q' i <;> rfl
  · have hset : s.ownedAmong h (fun i => q i || (q' i && !(p i || q i))) =
        s.ownedAmong h q + t.ownedAmong h q' :=
      a.ownedAmong_or h q' (fun _ => rfl) fun i hi => by rw [hi, Bool.or_true]
    have hall : s.ownedAmong h (fun i => (p i || (p' i && !(p i || q i))) || (q i || (q' i && !(p i || q i)))) =
        s.ownedAmong h (fun i => p i || q i) + t.ownedAmong h fun i => p' i || q' i := by
      rw [← a.ownedAmong_or h (fun i => p' i || q' i) (fun _ => rfl) fun _ => id]
      exact congrArg (s.ownedAmong h) (funext hgone)
    rw [b.vols h, a.vols h, hset, hall]
    simp only [discounted, BitVec.ofNat_add, BitVec.add_assoc, BitVec.sub_sub]
  · have hpending := hany (w := p) (w' := p') (fun i e => by rw [e, Bool.true_or])
      (fun x => x.owner == some ⟨h, d.leaf, d.face, k⟩) rfl
    have hsettled := hany (w := q) (w' := q') (fun i e => by rw [e, Bool.or_true])
      (fun x => x.owner == some ⟨h, d.leaf, d.face, k⟩ && x.generation == ((s.face h d).panel k).generation) rfl
    rw [b.panel h d k hd, a.panel h d k hd]
    simp only [Bool.and_assoc] at hsettled ⊢
    rw [hpending, hsettled, ite_bool_or, ite_bool_or]
  · obtain ⟨hk, hv, he⟩ := b.record h n hn
    obtain ⟨hk', hv', he'⟩ := a.record h n hn
    exact ⟨hk.trans hk', hv.trans hv', he.trans he'⟩
  · rcases b.marks h n hn with e | e
    · rw [e]
      exact a.marks h n hn
    · refine .inr (e.trans ?_)
      rcases a.marks h n hn with e' | e'
      · rw [e']
      · rw [e']
        rfl
  · have hs := a.others h n hn fun i o hi => ho i o (by rw [hgone, hi, Bool.true_or])
    refine (b.others h n hn fun i o hi hown => ?_).trans hs
    obtain ⟨hno, hown⟩ := a.owner hown
    exact ho i o (by rw [hgone, hno, hi]; rfl) hown

end Trans

/-! ### The discard of one slot -/

theorem allSlots_any_eq (i : SlotNo) (q : SlotNo → Bool) : allSlots.any (fun j => j == i && q j) = q i := by
  rw [Bool.eq_iff_iff, List.any_eq_true]
  constructor
  · rintro ⟨j, -, hj⟩
    rw [Bool.and_eq_true, beq_iff_eq] at hj
    exact hj.1 ▸ hj.2
  · exact fun hq => ⟨i, mem_allSlots i, by rw [beq_self_eq_true, hq]; rfl⟩

theorem allSlots_countP_eq (i : SlotNo) (q : SlotNo → Bool) :
    allSlots.countP (fun j => j == i && q j) = if q i then 1 else 0 := by
  have hswap : (fun j => j == i && q j) = fun j => q i && j == i := by
    funext j
    by_cases h : j = i
    · rw [h, Bool.and_comm]
    · rw [beq_eq_false_iff_ne.2 h, Bool.false_and, Bool.and_false]
  have hone : ∀ i : SlotNo, allSlots.countP (fun j => true && j == i) = 1 := by decide
  rw [hswap]
  cases q i with
  | false => exact List.countP_false ▸ rfl
  | true => exact hone i

/-- The leaf records after a write of one panel's entry, where its record is sound. -/
structure PanelWritten (s t : State) (o : Owner) (g : PanelEntry → PanelEntry) : Prop where
  panel : ∀ h d p, d.leaf ≤ 2047 → (t.face h d).panel p =
    if o = ⟨h, d.leaf, d.face, p⟩ then g ((s.face h d).panel p) else (s.face h d).panel p
  face : ∀ h d, d.leaf ≤ 2047 → { t.face h d with panels := [] } = { s.face h d with panels := [] }
  record : ∀ h n, n ≤ 2047 →
    (t.leaf h n).kind = (s.leaf h n).kind ∧ (t.leaf h n).valid = (s.leaf h n).valid ∧
      (t.leaf h n).errors = (s.leaf h n).errors
  marks : ∀ h n, n ≤ 2047 → t.leaf h n = s.leaf h n ∨
    t.leaf h n = { s.leaf h n with recto := (t.leaf h n).recto, verso := (t.leaf h n).verso }.keepMarks
  others : ∀ h n, n ≤ 2047 → ¬(o.handle = h ∧ o.leaf = n) → t.leaf h n = s.leaf h n
  canonical : s.Canonical → t.Canonical

theorem panelWritten_setFace {s : State} (c : s.Canonical) {o : Owner} (ho : o.leaf ≤ 2047)
    {g : PanelEntry → PanelEntry} (hg : ∀ e, (g e).number = e.number) :
    PanelWritten s (s.setFace o.handle o.side ((s.face o.handle o.side).modPanel o.panel g)) o g where
  panel h d p hd := by
    rw [face_setFace_eq c ho hd]
    by_cases hside : o.handle = h ∧ o.side = d
    · obtain ⟨rfl, rfl⟩ := hside
      rw [if_pos ⟨rfl, rfl⟩, panel_modPanel ((hg _).trans (panel_number _ _))]
      obtain ⟨h, n, f, q⟩ := o
      by_cases hp : p = q
      · rw [hp, if_pos rfl]
        exact (if_pos rfl).symm
      · rw [if_neg hp, if_neg fun e => hp (congrArg Owner.panel e).symm]
    · rw [if_neg hside, if_neg fun e => hside (by rw [e]; exact ⟨rfl, rfl⟩)]
  face h d hd := by
    rw [face_setFace_eq c ho hd]
    split
    · next e => rw [← e.1, ← e.2]; rfl
    · rfl
  record h n hn := by
    rw [leaf_setFace_eq c (d := o.side) ho hn]
    split
    · next e =>
      rw [← e.1, ← e.2]
      cases o.side.face <;> exact ⟨rfl, rfl, rfl⟩
    · exact ⟨rfl, rfl, rfl⟩
  marks h n hn := by
    rw [leaf_setFace_eq c (d := o.side) ho hn]
    split
    · next e =>
      refine .inr ?_
      rw [← e.1, ← e.2]
      exact setFace_marks _ _ _
    · exact .inl rfl
  others h n hn e := by
    rw [leaf_setFace_eq c (d := o.side) ho hn]
    exact if_neg e
  canonical c := canonical_setFace c _ _ _

theorem panelWritten_refl (s : State) (o : Owner) : PanelWritten s s o id :=
  ⟨fun _ _ _ _ => (ite_self _).symm, fun _ _ _ => rfl, fun _ _ _ => ⟨rfl, rfl, rfl⟩, fun _ _ _ => .inl rfl,
    fun _ _ _ _ => rfl, id⟩

/-- A slot freed, its capture counted discarded (and no longer kept, if it was), with the leaf records given. -/
def slotTaken (s : State) (i : SlotNo) (o : Owner) (wasKept : Bool) (leaves : List (Nat × LeafRecord)) : State :=
  State.clearSlot
    { s with vols := s.vols.set o.handle (discounted (s.vol o.handle) 1 wasKept.toNat), leaves := leaves } i

theorem partsGone_slotTaken {s t : State} {i : SlotNo} {o : Owner} {wasKept : Bool} {g : PanelEntry → PanelEntry}
    (ho : (s.slot i).owner = some o) (hw : PanelWritten s t o g)
    (hpending : wasKept = false → g = fun e => { e with pending := none })
    (hsettled : wasKept = true → g ((s.face o.handle o.side).panel o.panel) =
      { (s.face o.handle o.side).panel o.panel with
        settled := if (s.slot i).generation = ((s.face o.handle o.side).panel o.panel).generation then .none
          else ((s.face o.handle o.side).panel o.panel).settled }) :
    PartsGone s (slotTaken s i o wasKept t.leaves) (fun j => j == i && !wasKept) (fun j => j == i && wasKept) := by
  have hgone (j : SlotNo) : ((j == i && !wasKept) || (j == i && wasKept)) = (j == i) := by
    cases wasKept <;> simp
  refine ⟨rfl, fun j => ?_, ?_, fun h => ?_, fun h d p hd => ?_, hw.face, hw.record, hw.marks, fun h n hn hne => ?_,
    fun c => ⟨c.memory, (hw.canonical c).leaves, c.gain⟩⟩
  · rw [hgone]
    by_cases hj : j = i
    · subst hj
      rw [beq_self_eq_true, if_pos rfl]
      exact Vector.getElem_set_self _
    · rw [beq_eq_false_iff_ne.2 hj, if_neg Bool.false_ne_true]
      exact Vector.getElem_set_ne i.isLt j.isLt fun e => hj (Fin.ext e.symm)
  · simp only [hgone]
    rfl
  · have hall : (s.ownedAmong h fun j => (j == i && !wasKept) || (j == i && wasKept)) =
        if o.handle = h then 1 else 0 := by
      simp only [hgone, State.ownedAmong, allSlots_countP_eq, ho, Option.any_some, decide_eq_true_eq]
    have hkept : (s.ownedAmong h fun j => j == i && wasKept) = if o.handle = h then wasKept.toNat else 0 := by
      simp only [State.ownedAmong, Bool.and_assoc, allSlots_countP_eq, ho, Option.any_some]
      cases wasKept <;> simp
    rw [hall, hkept]
    by_cases hh : o.handle = h
    · subst hh
      rw [if_pos rfl, if_pos rfl]
      exact PerHandle_get_set_same _ _ _
    · rw [if_neg hh, if_neg hh]
      refine (PerHandle_get_set_ne _ _ hh).trans ?_
      simp only [discounted, BitVec.add_zero, BitVec.sub_zero]
      rfl
  · refine (hw.panel h d p hd).trans ?_
    obtain ⟨n, f⟩ := d
    simp only [Bool.and_assoc, allSlots_any_eq, ho]
    by_cases howner : o = ⟨h, n, f, p⟩
    · subst howner
      cases wasKept with
      | false => simp [hpending rfl]
      | true =>
        rw [if_pos rfl]
        refine (hsettled rfl).trans ?_
        simp only [Owner.side, Bool.and_true, Bool.not_true, Bool.true_and, beq_self_eq_true,
          Bool.false_eq_true, beq_iff_eq]
        congr
    · have hne : (some o == some ⟨h, n, f, p⟩) = false := by simpa using howner
      rw [if_neg howner, hne]
      simp
  · exact hw.others h n hn (hne i o (by rw [hgone, beq_self_eq_true]) ho)

/-- The pending part of a panel removed. -/
def withoutPending (e : PanelEntry) : PanelEntry := { e with pending := none }

section Pure
variable {s : State} {i : SlotNo} {o : Owner} (hc : s.TableClean)

theorem drainIfLast_of_clean (h : Handle) (hv : (s.vol h).errors.single = 0) : s.drainIfLast h =
    if (s.vol h).state = .draining ∧ s.ownsSlot h = false then
      State.postStation { s with vols := s.vols.set h { s.vol h with state := .closed } } .volumeDrained
    else s := by
  simp only [State.drainIfLast, readVolume_of_clean hv, modVol_of_clean hv]

theorem tableClean_setVol (hc : s.TableClean) {h : Handle} {v : Volume} (hv : v.errors = (s.vol h).errors) :
    State.TableClean { s with vols := s.vols.set h v } := by
  cases h
  · exact ⟨(congrArg WordErrors.single hv).trans hc.zero, hc.one, hc.rescan⟩
  · exact ⟨hc.zero, (congrArg WordErrors.single hv).trans hc.one, hc.rescan⟩

theorem removePending_of_clean (hl : s.cleanLeaf o.handle o.leaf) :
    s.removePending o = s.setFace o.handle o.side ((s.face o.handle o.side).modPanel o.panel withoutPending) := by
  have hr : s.readLeaf o.handle o.side.leaf [.list o.face, .panel o.face o.panel] = (true, s) :=
    readLeaf_of_clean hl.1 hl.2 _
  rw [State.removePending, State.updateFace, hr]
  rfl

theorem removePending_of_invalid (hl : (s.leaf o.handle o.leaf).valid = false) :
    s.removePending o = s.skipUpdate o.handle o.leaf := by
  have hr : s.readLeaf o.handle o.side.leaf [.list o.face, .panel o.face o.panel] = (false, s) :=
    readLeaf_of_invalid hl _
  rw [State.removePending, State.updateFace, hr]
  rfl

include hc

/-- A capture discarded where its record is sound: its slot taken, and its volume closed by it if that was the last of
a DRAINING one. -/
theorem discardSlot_of_clean (ho : (s.slot i).owner = some o) (hl : s.cleanLeaf o.handle o.leaf) :
    s.discardSlot i = (slotTaken s i o false
      (s.setFace o.handle o.side ((s.face o.handle o.side).modPanel o.panel withoutPending)).leaves).drainIfLast
        o.handle := by
  have hcount : s.count o.handle (fun c => { c with discarded := c.discarded + 1 }) =
      { s with vols := s.vols.set o.handle (discounted (s.vol o.handle) 1 0) } := by
    rw [State.count, modVol_of_clean (vol_clean hc _)]
    simp only [discounted, BitVec.sub_zero]
    rfl
  have hfree (t : State) (ht : t.slots = s.slots) : t.freeSlot i = (t.clearSlot i).drainIfLast o.handle := by
    have hown : (t.slot i).owner = some o := by rw [State.slot, ht]; exact ho
    rw [State.freeSlot, hown]
  rw [State.discardSlot, ho]
  refine (hfree _ ?_).trans ?_
  · rw [hcount, removePending_of_clean (by exact hl)]
    rfl
  · rw [hcount, removePending_of_clean (by exact hl)]
    rfl

end Pure

/-- What a slot's discard needs to be counted exactly: the slot is empty, or its owner's record is sound and its volume
no DRAINING one. -/
def Discardable (s : State) (i : SlotNo) : Prop :=
  s.slot i = Slot.cleared ∨ ∃ o, (s.slot i).owner = some o ∧ o.leaf ≤ 2047 ∧ s.cleanLeaf o.handle o.leaf ∧
    (s.vol o.handle).state ≠ .draining

theorem vol_slotTaken (s : State) (i : SlotNo) (o : Owner) (b : Bool) (leaves : List (Nat × LeafRecord)) :
    (slotTaken s i o b leaves).vol o.handle = discounted (s.vol o.handle) 1 b.toNat := PerHandle_get_set_same _ _ _

theorem tableClean_slotTaken {s : State} (hc : s.TableClean) (i : SlotNo) (o : Owner) (b : Bool)
    (leaves : List (Nat × LeafRecord)) : (slotTaken s i o b leaves).TableClean := by
  have ht := tableClean_setVol hc (h := o.handle) (v := discounted (s.vol o.handle) 1 b.toNat) rfl
  exact ⟨ht.zero, ht.one, ht.rescan⟩

theorem slot_clearSlot (s : State) (i j : SlotNo) :
    (s.clearSlot i).slot j = if j == i then Slot.cleared else s.slot j := by
  by_cases hj : j = i
  · subst hj
    rw [beq_self_eq_true, if_pos rfl]
    exact Vector.getElem_set_self _
  · rw [beq_eq_false_iff_ne.2 hj, if_neg Bool.false_ne_true]
    exact Vector.getElem_set_ne i.isLt j.isLt fun e => hj (Fin.ext e.symm)

theorem partsGone_clearSlot {s : State} {i : SlotNo} (hn : (s.slot i).owner = none) :
    PartsGone s (s.clearSlot i) (fun j => j == i) (fun _ => false) := by
  have hzero (h : Handle) (q : SlotNo → Bool) : s.ownedAmong h (fun j => j == i && q j) = 0 := by
    simp only [State.ownedAmong, Bool.and_assoc, allSlots_countP_eq, hn, Option.any_none, Bool.and_false,
      Bool.false_eq_true, if_false]
  have hall (h : Handle) : (s.ownedAmong h fun j => j == i || false) = 0 := by simpa using hzero h fun _ => true
  have hkept (h : Handle) : (s.ownedAmong h fun _ => false) = 0 := by simp [State.ownedAmong]
  refine ⟨rfl, fun j => ?_, ?_, fun h => ?_, fun h d p _ => ?_, fun _ _ _ => rfl, fun _ _ _ => ⟨rfl, rfl, rfl⟩,
    fun _ _ _ => .inl rfl, fun _ _ _ _ => rfl, fun c => ⟨c.memory, c.leaves, c.gain⟩⟩
  · rw [Bool.or_false]
    exact slot_clearSlot s i j
  · simp only [Bool.or_false]
    rfl
  · rw [hall, hkept]
    simp only [discounted, BitVec.add_zero, BitVec.sub_zero]
    rfl
  · simp only [allSlots_any_eq, hn]
    simp
    rfl

theorem partsGone_discardSlot {s : State} {i : SlotNo} (c : s.Canonical) (hc : s.TableClean) (hd : Discardable s i) :
    PartsGone s (s.discardSlot i) (fun j => j == i) (fun _ => false) := by
  rcases hd with hfree | ⟨o, ho, hn, hl, hv⟩
  · have hnone : (s.slot i).owner = none := by rw [hfree]; rfl
    have hclear : s.discardSlot i = s.clearSlot i := by simp only [State.discardSlot, State.freeSlot, hnone]
    rw [hclear]
    exact partsGone_clearSlot hnone
  · have hstay : s.discardSlot i = slotTaken s i o false
        (s.setFace o.handle o.side ((s.face o.handle o.side).modPanel o.panel withoutPending)).leaves := by
      rw [discardSlot_of_clean hc ho hl, drainIfLast_of_clean _ (vol_clean (tableClean_slotTaken hc i o false _) _)]
      refine if_neg fun h => hv ?_
      rw [vol_slotTaken] at h
      exact h.1
    rw [hstay]
    have hpart := partsGone_slotTaken (wasKept := false) ho (panelWritten_setFace c hn (g := withoutPending) fun _ => rfl)
      (fun _ => rfl) (fun h => absurd h Bool.false_ne_true)
    simpa using hpart

theorem PartsGone.tableClean {s t : State} {p q : SlotNo → Bool} (a : PartsGone s t p q) (hc : s.TableClean) :
    t.TableClean where
  zero := by
    have h := congrArg (fun v : Volume => v.errors.single) (a.vols .zero)
    exact h.trans hc.zero
  one := by
    have h := congrArg (fun v : Volume => v.errors.single) (a.vols .one)
    exact h.trans hc.one
  rescan := by
    have h : (partsFrame t).rescanErrors = (partsFrame s).rescanErrors := congrArg State.rescanErrors a.frame
    exact (congrArg WordErrors.single h).trans hc.rescan

theorem PartsGone.cleanLeaf {s t : State} {p q : SlotNo → Bool} (a : PartsGone s t p q) {h : Handle} {n : Nat}
    (hn : n ≤ 2047) (hl : s.cleanLeaf h n) : t.cleanLeaf h n := by
  obtain ⟨-, hv, he⟩ := a.record h n hn
  exact ⟨hv.trans hl.1, he.trans hl.2⟩

theorem PartsGone.discardable {s t : State} {p q : SlotNo → Bool} (a : PartsGone s t p q) {i : SlotNo}
    (hd : Discardable s i) : Discardable t i := by
  cases hg : p i || q i with
  | true => exact .inl (by rw [a.slots i, hg, if_pos rfl])
  | false =>
    have hs := a.owner_of_stays hg
    rcases hd with hfree | ⟨o, ho, hn, hl, hv⟩
    · exact .inl (hs.trans hfree)
    · refine .inr ⟨o, hs ▸ ho, hn, a.cleanLeaf hn hl, ?_⟩
      rw [a.vols o.handle]
      exact hv

/-- Captures discarded one after another. -/
theorem partsGone_foldl {s : State} {l : List SlotNo} (c : s.Canonical) (hc : s.TableClean)
    (hd : ∀ i ∈ l, Discardable s i) :
    PartsGone s (l.foldl State.discardSlot s) (fun j => l.contains j) (fun _ => false) := by
  induction l generalizing s with
  | nil => exact PartsGone.refl s
  | cons i l ih =>
    have hone := partsGone_discardSlot c hc (hd i List.mem_cons_self)
    have hrest := ih (hone.canonical c) (hone.tableClean hc) fun j hj =>
      hone.discardable (hd j (List.mem_cons_of_mem i hj))
    have hset : (fun j => (j == i) || (l.contains j && !((j == i) || false))) = fun j => (i :: l).contains j := by
      funext j
      rw [List.contains_cons]
      cases j == i <;> simp
    have hall := hone.trans hrest
    rw [hset] at hall
    exact hall

end Sys2Proof.Proofs
end

section
/-! SUPPORT. The entry to HALTED, stage by stage (R58): the cradle, the run, the captures, the turn, the notices and the
fault. -/
namespace Sys2Proof.Proofs
open Sys2Proof.Machine Sys2Proof.Laws

/-! ### The stages of a halt -/

/-- The cradle HALTED, its drives off and every bank DARK. -/
def cradleHalted (s : State) (cause : HaltCause) : State := { s.enter .halted with cradle := haltedCradle s cause }

/-- A run ended, its ACTIVE volume's record not yet read. -/
def runEnded (s : State) (reason : EndReason) (detail : EndDetail) : State :=
  (State.unpostTurner
    { s with run := { s.run with
        state := .idle, wanted := none, stopRequested := false, slots := ⟨none, none⟩
        lastEnd := some ⟨reason, detail, s.openingNow⟩ } }
    .turnWanted).postStation .runEnded

/-- A run in progress ended by a halt. -/
def runHalted (s : State) : State := if s.run.state = .idle then s else runEnded s .halted .none

/-- Every head's capture stopped, the slots not yet discarded. -/
def headsStopped (s : State) (cause : AbortCause) : State :=
  { s with heads := ⟨HeadUnit.stopped s.heads.left cause, HeadUnit.stopped s.heads.right cause⟩ }

/-- The phase of a turn after a halt. -/
def haltedPhase (cause : HaltCause) : TurnPhase → TurnPhase
  | .granted | .pending => if cause = .turner then .faulted else .cancelled
  | .none => .none
  | .cleared => .cleared
  | .aborted => .aborted
  | .faulted => .faulted
  | .cancelled => .cancelled

/-- A turn ended by a halt, the opening not yet doubted. -/
def turnHalted (s : State) (cause : HaltCause) : State :=
  if s.turn.phase = .granted then
    { s with turn := { s.turn with phase := haltedPhase cause s.turn.phase } }.postTurner .grantCancelled
  else { s with turn := { s.turn with phase := haltedPhase cause s.turn.phase } }

/-- Whether a halt leaves it open where the volume lies open (R74 to R76). -/
def haltDoubts (s : State) (cause : HaltCause) : Bool :=
  decide (s.turn.phase = .granted) && (s.turn.picked.isSome || (decide (cause ≠ .turner) && s.turn.swept))

/-- A halt up to the turn's end, with no capture discarded, no opening doubted and nothing told. -/
def haltBase (s : State) (cause : HaltCause) : State :=
  turnHalted (headsStopped (runHalted (cradleHalted s cause)) cause.abort) cause

theorem cancelTurn_eq (s : State) (cause : HaltCause) : s.cancelTurn cause =
    if haltDoubts s cause then (turnHalted s cause).setUncertain else turnHalted s cause := by
  have hturn : s = { s with turn := { s.turn with phase := s.turn.phase } } := rfl
  unfold State.cancelTurn haltDoubts turnHalted
  cases hp : s.turn.phase <;> simp only [haltedPhase, decide_true, Bool.true_and, if_true, reduceCtorEq, decide_false,
    Bool.false_and, if_false, Bool.false_eq_true]
  all_goals exact hturn.trans (by rw [hp])

theorem halt_eq (s : State) (cause : HaltCause) : s.halt cause =
    (((((cradleHalted s cause).haltRun.abortAll cause.abort).cancelTurn cause).postStation
      .cradleHalted).postTurner .cradleHalted).reportHalt cause := rfl

/-! ### Discards under the exact stages -/

theorem Discarding.map {g : State → State} (hf : ∀ x, discardFrame (g x) = discardFrame (g (discardFrame x)))
    (hv : ∀ x, (g x).vols = x.vols)
    (hn : ∀ x, (g x).links.station.notices = x.links.station.notices) {s t : State} (a : Discarding s t) :
    Discarding (g s) (g t) where
  frame := by rw [hf t, hf s, a.frame]
  opening h := by rw [State.vol, State.vol, hv, hv]; exact a.opening h
  uncertain h := by rw [State.vol, State.vol, hv, hv]; exact a.uncertain h
  active h := by rw [State.vol, State.vol, hv, hv]; exact a.active h
  notices i n := by
    rw [hn] at n ⊢
    exact a.notices i n

theorem Discarding.openingNow {s t : State} (a : Discarding s t) : t.openingNow = s.openingNow := by
  unfold State.openingNow
  rw [active_congr a.active]
  cases s.active with
  | none => rfl
  | some h => exact a.opening h

theorem discarding_endRun (s : State) (reason : EndReason) (detail : EndDetail) :
    Discarding (runEnded s reason detail) (s.endRun reason detail) := by
  have hread : s.endRun reason detail = (runEnded s reason detail).readActive := by
    have hactive : (runEnded s reason detail).readActive =
        match s.active with
        | none => runEnded s reason detail
        | some h => (runEnded s reason detail).readVolume h := rfl
    rw [hactive, State.endRun]
    dsimp only
    rw [(discarding_readActive s).openingNow, State.readActive]
    cases s.active with
    | none => rfl
    | some h =>
      dsimp only
      unfold State.readVolume
      rw [show (runEnded s reason detail).vol h = s.vol h from rfl]
      split
      · rfl
      · rfl
  rw [hread]
  exact discarding_readActive _

theorem discarding_haltRun (s : State) : Discarding (runHalted s) s.haltRun := by
  unfold runHalted State.haltRun
  split
  · exact Discarding.refl s
  · exact discarding_endRun s _ _

theorem headsStopped_of_free {s : State} (hf : s.inFlight = false) (cause : AbortCause) : headsStopped s cause = s := by
  obtain ⟨hl, hr⟩ := inFlight_eq_false.1 hf
  have hl' : HeadUnit.stopped s.heads.left cause = s.heads.left := if_pos hl
  have hr' : HeadUnit.stopped s.heads.right cause = s.heads.right := if_pos hr
  rw [headsStopped, hl', hr']

theorem discarding_abortAll (s : State) (cause : AbortCause) :
    Discarding (headsStopped s cause) (s.abortAll cause) := by
  unfold State.abortAll
  split
  · have hleft := discarding_abortCapture_stopped s .left cause
    have hboth := Discarding.map (g := fun x => x.modHead .right (HeadUnit.stopped · cause)) (fun _ => rfl) (fun _ => rfl)
      (fun _ => rfl) hleft
    exact (hboth.trans (discarding_abortCapture_stopped _ .right cause)).trans (discarding_postStation _ _)
  · next hf =>
    rw [headsStopped_of_free (eq_false_of_ne_true hf)]
    exact Discarding.refl s

theorem discarding_turnHalted {s t : State} (a : Discarding s t) (cause : HaltCause) :
    Discarding (turnHalted s cause) (turnHalted t cause) := by
  refine a.map (g := (turnHalted · cause)) (fun x => ?_) (fun x => ?_) fun x => ?_
  · unfold turnHalted
    rw [show (discardFrame x).turn = x.turn from rfl]
    split <;> rfl
  · unfold turnHalted
    split <;> rfl
  · unfold turnHalted
    split <;> rfl

/-- The state of a halt when its captures have been discarded. -/
def haltDiscarded (s : State) (cause : HaltCause) : State := (cradleHalted s cause).haltRun.abortAll cause.abort

theorem discarding_haltDiscarded (s : State) (cause : HaltCause) :
    Discarding (headsStopped (runHalted (cradleHalted s cause)) cause.abort) (haltDiscarded s cause) := by
  refine Discarding.trans ?_ (discarding_abortAll _ _)
  exact (discarding_haltRun (cradleHalted s cause)).map (g := (headsStopped · cause.abort)) (fun _ => rfl)
    (fun _ => rfl) (fun _ => rfl)

/-- The captures discarded and the turn ended: nothing else has changed since the base of the halt. -/
theorem discarding_haltBase (s : State) (cause : HaltCause) :
    Discarding (haltBase s cause) (turnHalted (haltDiscarded s cause) cause) :=
  discarding_turnHalted (discarding_haltDiscarded s cause) cause

theorem turn_runHalted (s : State) : (runHalted s).turn = s.turn := by
  unfold runHalted
  split <;> rfl

theorem turn_haltDiscarded (s : State) (cause : HaltCause) : (haltDiscarded s cause).turn = s.turn := by
  have hframe := congrArg State.turn (discarding_haltDiscarded s cause).frame
  exact hframe.trans (turn_runHalted _)

/-! ### The doubt about the opening, and the end of the halt -/

section SetUncertain
variable (s : State)

theorem frame_modVol (h : Handle) (f : Volume → Volume) : discardFrame (s.modVol h f) = discardFrame s :=
  (discarding_readVolume s h).frame

theorem frame_setUncertain : discardFrame s.setUncertain = discardFrame s := by
  unfold State.setUncertain
  cases s.active with
  | none => rfl
  | some h => exact frame_modVol s h _

theorem vol_modVol (h h' : Handle) (f : Volume → Volume) :
    (s.modVol h f).vol h' = if h' = h then f (s.vol h).corrected else s.vol h' := by
  rw [State.vol, (fields_modVol s h f).2.2.2.2.1]
  by_cases e : h' = h
  · rw [if_pos e, e]
    exact PerHandle_get_set_same _ _ _
  · rw [if_neg e]
    exact PerHandle_get_set_ne _ _ (Ne.symm e)

/-- The flag is set on the ACTIVE volume's record, of which nothing but a pending correction is otherwise written. -/
theorem vol_setUncertain (h : Handle) :
    (s.setUncertain.vol h).opening = (s.vol h).opening ∧ (s.setUncertain.vol h).state = (s.vol h).state ∧
      (s.setUncertain.vol h).uncertain = ((s.vol h).uncertain || decide (s.active = some h)) := by
  unfold State.setUncertain
  cases s.active with
  | none => simp
  | some h' =>
    dsimp only
    rw [vol_modVol]
    by_cases e : h = h'
    · subst e
      rw [if_pos rfl]
      simp [Volume.corrected]
    · rw [if_neg e]
      simp [Ne.symm e]

theorem notices_setUncertain : s.setUncertain.links = s.links := by
  unfold State.setUncertain
  cases s.active with
  | none => rfl
  | some h => exact (fields_modVol s h _).2.1

end SetUncertain

theorem discarding_reportHalt (s : State) (cause : HaltCause) : Discarding s (s.reportHalt cause) := by
  unfold State.reportHalt
  cases cause.fault with
  | none => exact Discarding.refl s
  | some c => exact discarding_report s _

/-- A halt after its captures' discard. -/
def haltTold (s : State) (cause : HaltCause) : State :=
  ((s.cancelTurn cause).postStation .cradleHalted).postTurner .cradleHalted

section Halt
variable (s : State) (cause : HaltCause)

theorem haltDoubts_haltDiscarded : haltDoubts (haltDiscarded s cause) cause = haltDoubts s cause := by
  rw [haltDoubts, turn_haltDiscarded, ← haltDoubts]

theorem frame_halt : discardFrame (s.halt cause) = discardFrame ((haltBase s cause).postTurner .cradleHalted) := by
  have hcancel : discardFrame ((haltDiscarded s cause).cancelTurn cause) = discardFrame (haltBase s cause) := by
    rw [cancelTurn_eq]
    split
    · rw [frame_setUncertain]
      exact (discarding_haltBase s cause).frame
    · exact (discarding_haltBase s cause).frame
  have htold := congrArg (fun x : State => discardFrame (x.postTurner .cradleHalted)) hcancel
  exact (discarding_reportHalt _ _).frame.trans htold

theorem vol_cancelTurn (s : State) (cause : HaltCause) (h : Handle) :
    ((s.cancelTurn cause).vol h).opening = (s.vol h).opening ∧
      ((s.cancelTurn cause).vol h).state = (s.vol h).state ∧
      ((s.cancelTurn cause).vol h).uncertain =
        ((s.vol h).uncertain || (decide (s.active = some h) && haltDoubts s cause)) := by
  have hvols : (turnHalted s cause).vols = s.vols := by
    unfold turnHalted
    split <;> rfl
  have hactive : (turnHalted s cause).active = s.active := by rw [State.active, State.active, hvols]
  rw [cancelTurn_eq]
  cases haltDoubts s cause with
  | true =>
    have hset := vol_setUncertain (turnHalted s cause) h
    have hvol : (turnHalted s cause).vol h = s.vol h := by
      rw [State.vol, hvols]
      rfl
    rw [hactive, hvol] at hset
    simpa using hset
  | false =>
    rw [if_neg Bool.false_ne_true, State.vol, hvols, Bool.and_false, Bool.or_false]
    exact ⟨rfl, rfl, rfl⟩

theorem vols_runHalted (s : State) : (runHalted s).vols = s.vols := by
  unfold runHalted
  split <;> rfl

/-- The opening stands, no volume ceases to be ACTIVE, and the ACTIVE one's opening is doubted where the halt cut a turn
short. -/
theorem vol_halt (h : Handle) :
    ((s.halt cause).vol h).opening = (s.vol h).opening ∧
      (((s.halt cause).vol h).state = .active ↔ (s.vol h).state = .active) ∧
      ((s.halt cause).vol h).uncertain =
        ((s.vol h).uncertain || (decide (s.active = some h) && haltDoubts s cause)) := by
  have hreport := discarding_reportHalt (haltTold (haltDiscarded s cause) cause) cause
  obtain ⟨hopening, hstate, huncertain⟩ := vol_cancelTurn (haltDiscarded s cause) cause h
  have hdiscard := discarding_haltDiscarded s cause
  have hvols : (headsStopped (runHalted (cradleHalted s cause)) cause.abort).vols = s.vols := vols_runHalted _
  have hactive : (haltDiscarded s cause).active = s.active := by
    rw [active_congr hdiscard.active, State.active, State.active, hvols]
  have hvol : (headsStopped (runHalted (cradleHalted s cause)) cause.abort).vol h = s.vol h := by
    rw [State.vol, hvols]
    rfl
  refine ⟨(hreport.opening h).trans (hopening.trans ((hdiscard.opening h).trans (congrArg Volume.opening hvol))),
    (hreport.active h).trans ?_, (hreport.uncertain h).trans (huncertain.trans ?_)⟩
  · rw [show ((haltTold (haltDiscarded s cause) cause).vol h).state = ((haltDiscarded s cause).vol h).state from hstate,
      hdiscard.active h, hvol]
  · rw [hactive, haltDoubts_haltDiscarded, hdiscard.uncertain h, hvol]

/-- No notice that the stages of a halt put on the station's link is taken back. -/
theorem notices_halt {i : Nat}
    (h : (haltDiscarded s cause).links.station.notices.getLsbD i = true ∨ i = StationNotice.cradleHalted.place) :
    (s.halt cause).links.station.notices.getLsbD i = true := by
  refine (discarding_reportHalt (haltTold (haltDiscarded s cause) cause) cause).notices i ?_
  have hlinks : ((haltDiscarded s cause).cancelTurn cause).links.station.notices =
      (haltDiscarded s cause).links.station.notices := by
    rw [cancelTurn_eq]
    split
    · rw [notices_setUncertain]
      unfold turnHalted
      split <;> rfl
    · unfold turnHalted
      split <;> rfl
  show (addNotice ((haltDiscarded s cause).cancelTurn cause).links.station.notices _).getLsbD i = true
  rw [hlinks]
  rcases h with h | rfl
  · exact addNotice_keeps h
  · exact addNotice_has _ (by decide)

end Halt

/-! ### What the obligation says of a halt from any state -/

section Fields
variable (s : State) (cause : HaltCause)

theorem eq_of_frame_halt {α : Type} (f : State → α) (hf : ∀ x, f (discardFrame x) = f x) :
    f (s.halt cause) = f ((haltBase s cause).postTurner .cradleHalted) := by
  rw [← hf, frame_halt, hf]

/-- A run after a halt (R58, R164). -/
def haltedRun : RunRecord :=
  if s.run.state = .idle then s.run
  else { s.run with
    state := .idle, wanted := none, stopRequested := false, slots := ⟨none, none⟩
    lastEnd := some ⟨.halted, .none, s.openingNow⟩ }

/-- The station's notices after a halt has ended the run. -/
def haltedStation : Word :=
  if s.run.state = .idle then s.links.station.notices
  else addNotice s.links.station.notices StationNotice.runEnded.place

/-- The turner's notices after a halt: it is told of the halt and of a grant cut short, and no turn is wanted of it. -/
def haltedTurner : Word :=
  let wanted := if s.run.state = .idle then s.links.turner.notices
    else removeNotice s.links.turner.notices TurnerNotice.turnWanted.place
  addNotice (if s.turn.phase = .granted then addNotice wanted TurnerNotice.grantCancelled.place else wanted)
    TurnerNotice.cradleHalted.place

theorem haltBase_eq : (haltBase s cause).postTurner .cradleHalted = { s with
      links := ⟨{ s.links.station with notices := haltedStation s }, { s.links.turner with notices := haltedTurner s }⟩
      cradle := haltedCradle s cause, light := { s.light with strobes := ⟨none, none, none, none⟩ }
      heads := ⟨HeadUnit.stopped s.heads.left cause.abort, HeadUnit.stopped s.heads.right cause.abort⟩
      run := haltedRun s, turn := { s.turn with phase := haltedPhase cause s.turn.phase } } := by
  have hrun : runHalted (cradleHalted s cause) =
      if s.run.state = .idle then cradleHalted s cause else runEnded (cradleHalted s cause) .halted .none := rfl
  have hturn : (headsStopped (runHalted (cradleHalted s cause)) cause.abort).turn = s.turn := turn_runHalted _
  rw [haltBase, turnHalted, hturn, hrun, haltedRun, haltedStation, haltedTurner]
  by_cases hr : s.run.state = .idle <;> by_cases hg : s.turn.phase = .granted
  · rw [if_pos hr, if_pos hr, if_pos hr, if_pos hr, if_pos hg, if_pos hg]
    rfl
  · rw [if_pos hr, if_pos hr, if_pos hr, if_pos hr, if_neg hg, if_neg hg]
    rfl
  · rw [if_neg hr, if_neg hr, if_neg hr, if_neg hr, if_pos hg, if_pos hg]
    rfl
  · rw [if_neg hr, if_neg hr, if_neg hr, if_neg hr, if_neg hg, if_neg hg]
    rfl

theorem heads_halt (p : Head) : (s.halt cause).head p = HeadUnit.stopped (s.head p) cause.abort := by
  have hheads := eq_of_frame_halt s cause State.heads fun _ => rfl
  rw [haltBase_eq] at hheads
  rw [State.head, hheads]
  cases p <;> rfl

theorem run_halt : (s.halt cause).run = haltedRun s := by
  rw [eq_of_frame_halt s cause State.run fun _ => rfl, haltBase_eq]

theorem turn_halt : (s.halt cause).turn = { s.turn with phase := haltedPhase cause s.turn.phase } := by
  rw [eq_of_frame_halt s cause State.turn fun _ => rfl, haltBase_eq]

theorem turner_halt : (s.halt cause).links.turner = { s.links.turner with notices := haltedTurner s } := by
  rw [eq_of_frame_halt s cause (fun x => x.links.turner) fun _ => rfl, haltBase_eq]

theorem halt_fields : s.halt cause = { s with
      links := ⟨{ s.links.station with notices := (s.halt cause).links.station.notices },
        { s.links.turner with notices := (s.halt cause).links.turner.notices }⟩
      vols := (s.halt cause).vols, leaves := (s.halt cause).leaves, slots := (s.halt cause).slots
      cradle := (s.halt cause).cradle, turn := (s.halt cause).turn
      light := { s.light with strobes := ⟨none, none, none, none⟩ }, heads := (s.halt cause).heads
      run := (s.halt cause).run
      delivery := { s.delivery with queue := (s.halt cause).delivery.queue }, faults := (s.halt cause).faults
      skippedNow := (s.halt cause).skippedNow } := by
  have hframe := frame_halt s cause
  rw [haltBase_eq] at hframe
  generalize hu : s.halt cause = u at hframe
  exact congrArg (fun x : State => { x with
    links := ⟨{ x.links.station with notices := u.links.station.notices },
      { x.links.turner with notices := u.links.turner.notices }⟩
    vols := u.vols, leaves := u.leaves, slots := u.slots, cradle := u.cradle, turn := u.turn, heads := u.heads
    run := u.run, delivery := { x.delivery with queue := u.delivery.queue }, faults := u.faults
    skippedNow := u.skippedNow }) hframe

end Fields

section Notices
variable (s : State) (cause : HaltCause)

theorem captureDone_of_inFlight (hf : s.inFlight = true) :
    (haltDiscarded s cause).links.station.notices.getLsbD StationNotice.captureDone.place = true := by
  have hrun : (cradleHalted s cause).haltRun.inFlight = true := by
    have hheads := (quiet_haltRun (cradleHalted s cause)).inFlight
    exact hheads.trans hf
  rw [haltDiscarded, State.abortAll, if_pos hrun]
  exact addNotice_has _ (by decide)

theorem runEnded_of_running (hr : s.run.state ≠ .idle) :
    (haltDiscarded s cause).links.station.notices.getLsbD StationNotice.runEnded.place = true := by
  refine (discarding_haltDiscarded s cause).notices _ ?_
  have hrun : runHalted (cradleHalted s cause) = runEnded (cradleHalted s cause) .halted .none := if_neg hr
  rw [hrun]
  exact addNotice_has _ (by decide)

theorem faults_halt {c : FaultClass} (hc : cause.fault = some c) :
    (s.halt cause).faults.record = some (FaultRecord.plain c) ∧
      (s.halt cause).links.station.notices.getLsbD StationNotice.fault.place = true := by
  rw [halt_eq, State.reportHalt, hc]
  exact ⟨rfl, addNotice_has _ (by decide)⟩

theorem turnWanted_of_running (hr : s.run.state ≠ .idle) :
    (s.halt cause).links.turner.notices.getLsbD TurnerNotice.turnWanted.place = false := by
  rw [turner_halt, haltedTurner, if_neg hr]
  dsimp only
  rw [getLsbD_addNotice _ _ (by decide)]
  split
  · rw [getLsbD_addNotice _ _ (by decide), getLsbD_removeNotice _ _ (by decide)]
    simp
    decide
  · rw [getLsbD_removeNotice _ _ (by decide)]
    simp
    decide

theorem grantCancelled_of_granted (hg : s.turn.phase = .granted) :
    (s.halt cause).links.turner.notices.getLsbD TurnerNotice.grantCancelled.place = true := by
  rw [turner_halt, haltedTurner, if_pos hg]
  exact addNotice_keeps (addNotice_has _ (by decide))

end Notices

/-- An abort by a halt raises no head error flag (R114). -/
theorem flags_mark_abort (f : HeadFlags) (cause : HaltCause) : f.mark cause.abort = f := by
  unfold HaltCause.abort
  split <;> rfl

theorem haltDoubts_iff {s : State} {cause : HaltCause} : haltDoubts s cause = true ↔
    s.turn.phase = .granted ∧ (s.turn.picked.isSome = true ∨ (s.turn.swept = true ∧ cause ≠ .turner)) := by
  simp only [haltDoubts, Bool.and_eq_true, Bool.or_eq_true, decide_eq_true_eq, and_comm]

/-! ### The discards of a halt counted exactly (R35) -/

theorem PartsGone.map {g : State → State} (hf : ∀ x, partsFrame (g x) = partsFrame (g (partsFrame x)))
    (hv : ∀ x, (g x).vols = x.vols) (hl : ∀ x, (g x).leaves = x.leaves) (hs : ∀ x, (g x).slots = x.slots)
    (hq : ∀ x, (g x).delivery.queue = x.delivery.queue)
    (hm : ∀ x, (g x).memory = x.memory ∧ (g x).gain = x.gain) {s t : State} {p q : SlotNo → Bool}
    (a : PartsGone s t p q) : PartsGone (g s) (g t) p q := by
  have hleaf (x : State) (h : Handle) (n : Nat) : (g x).leaf h n = x.leaf h n := by rw [State.leaf, State.leaf, hl]
  have hface (x : State) (h : Handle) (d : Side) : (g x).face h d = x.face h d := by rw [State.face, State.face, hleaf]
  have hslot (x : State) (i : SlotNo) : (g x).slot i = x.slot i := by rw [State.slot, State.slot, hs]
  have hvol (x : State) (h : Handle) : (g x).vol h = x.vol h := by rw [State.vol, State.vol, hv]
  have hcan (x : State) : (g x).Canonical ↔ x.Canonical := by
    constructor
    · intro c
      exact ⟨(hm x).1 ▸ c.memory, hl x ▸ c.leaves, (hm x).2 ▸ c.gain⟩
    · intro c
      exact ⟨(hm x).1.symm ▸ c.memory, (hl x).symm ▸ c.leaves, (hm x).2.symm ▸ c.gain⟩
  have howned (h : Handle) (w : SlotNo → Bool) : (g s).ownedAmong h w = s.ownedAmong h w := by
    simp only [State.ownedAmong, hslot]
  refine ⟨?_, fun i => ?_, ?_, fun h => ?_, fun h d k hd => ?_, fun h d hd => ?_, fun h n hn => ?_,
    fun h n hn => ?_, fun h n hn ho => ?_, fun c => ?_⟩
  · rw [hf t, hf s, a.frame]
  · rw [hslot, hslot, a.slots]
  · rw [hq, hq, a.queue]
  · rw [hvol, hvol, howned, howned, a.vols]
  · simp only [hface, hslot]
    exact a.panel h d k hd
  · rw [hface, hface]
    exact a.face h d hd
  · rw [hleaf, hleaf]
    exact a.record h n hn
  · rw [hleaf, hleaf]
    exact a.marks h n hn
  · rw [hleaf, hleaf]
    exact a.others h n hn fun i o hi => hslot s i ▸ ho i o hi
  · exact (hcan t).2 (a.canonical ((hcan s).1 c))

/-- The slot of the capture a head is taking, if it has one. -/
def capturedSlots (u : HeadUnit) : List SlotNo := if u.phase = .idle then [] else (u.capture.bind (·.slot)).toList

theorem modHead_stopped_of_idle {s : State} {h : Head} (hp : (s.head h).phase = .idle) (cause : AbortCause) :
    s.modHead h (HeadUnit.stopped · cause) = s := by
  have hu : HeadUnit.stopped (s.heads.get h) cause = s.heads.get h := if_pos hp
  rw [State.modHead, hu]
  cases h <;> rfl

theorem abortCapture_of_unrecorded {s : State} {h : Head} {cause : AbortCause} (hf : cause.fault = none) :
    s.abortCapture h cause =
      (capturedSlots (s.head h)).foldl State.discardSlot (s.modHead h (HeadUnit.stopped · cause)) := by
  by_cases hp : (s.head h).phase = .idle
  · rw [abortCapture_of_idle hp, modHead_stopped_of_idle hp, capturedSlots, if_pos hp]
    rfl
  · have hu : HeadUnit.stopped (s.heads.get h) cause = (s.heads.get h).aborted cause := if_neg hp
    have hmod : s.modHead h (HeadUnit.stopped · cause) = s.modHead h (·.aborted cause) := by
      rw [State.modHead, hu]
      rfl
    rw [State.abortCapture, if_neg hp, capturedSlots, if_neg hp, hmod, hf]
    cases (s.head h).capture.bind (·.slot) <;> rfl

section AbortAll
variable {s : State} {cause : AbortCause} (hf : cause.fault = none) (c : s.Canonical) (hc : s.TableClean)
  (hd : ∀ i ∈ capturedSlots s.heads.left ++ capturedSlots s.heads.right, Discardable s i)
include hf c hc hd

/-- The captures in flight are aborted: their slots freed, their pending parts removed, the captures counted discarded. -/
theorem partsGone_abortBoth :
    PartsGone (headsStopped s cause) ((s.abortCapture .left cause).abortCapture .right cause)
      (fun i => (capturedSlots s.heads.left ++ capturedSlots s.heads.right).contains i) (fun _ => false) := by
  have hleft : PartsGone (s.modHead .left (HeadUnit.stopped · cause)) (s.abortCapture .left cause)
      (fun i => (capturedSlots s.heads.left).contains i) (fun _ => false) := by
    rw [abortCapture_of_unrecorded hf]
    exact partsGone_foldl ⟨c.memory, c.leaves, c.gain⟩ ⟨hc.zero, hc.one, hc.rescan⟩ fun i hi =>
      hd i (List.mem_append_left _ hi)
  have hstopped := hleft.map (g := fun x => x.modHead .right (HeadUnit.stopped · cause)) (fun _ => rfl) (fun _ => rfl)
    (fun _ => rfl) (fun _ => rfl) (fun _ => rfl) (fun _ => ⟨rfl, rfl⟩)
  have hcan := hstopped.canonical ⟨c.memory, c.leaves, c.gain⟩
  have hclean := hstopped.tableClean ⟨hc.zero, hc.one, hc.rescan⟩
  have hhead : (partsFrame (s.abortCapture .left cause)).head .right =
      (partsFrame (s.modHead .left (HeadUnit.stopped · cause))).head .right :=
    congrArg (fun x : State => x.head .right) hleft.frame
  have hhead : (s.abortCapture .left cause).head .right = s.head .right := hhead
  have hright : PartsGone ((s.abortCapture .left cause).modHead .right (HeadUnit.stopped · cause))
      ((s.abortCapture .left cause).abortCapture .right cause)
      (fun i => (capturedSlots s.heads.right).contains i) (fun _ => false) := by
    rw [abortCapture_of_unrecorded (h := .right) hf, hhead]
    exact partsGone_foldl hcan hclean fun i hi => hstopped.discardable (hd i (List.mem_append_right _ hi))
  have hboth := hstopped.trans hright
  have hset : (fun i => (capturedSlots s.heads.left).contains i ||
      ((capturedSlots s.heads.right).contains i && !((capturedSlots s.heads.left).contains i || false))) =
      fun i => (capturedSlots s.heads.left ++ capturedSlots s.heads.right).contains i := by
    funext i
    rw [List.contains_append]
    cases (capturedSlots s.heads.left).contains i <;> simp
  rw [hset] at hboth
  exact hboth

end AbortAll

theorem endRun_of_clean {s : State} (hc : s.TableClean) (reason : EndReason) (detail : EndDetail) :
    s.endRun reason detail = runEnded s reason detail := by
  rw [State.endRun, readActive_of_clean hc]
  rfl

theorem haltRun_of_clean {s : State} (hc : s.TableClean) : s.haltRun = runHalted s := by
  rw [State.haltRun, runHalted, endRun_of_clean hc]

theorem fault_abort (cause : HaltCause) : cause.abort.fault = none := by
  unfold HaltCause.abort
  split <;> rfl

/-- Whether a slot holds a capture in flight. -/
def captured (s : State) (i : SlotNo) : Bool :=
  [Head.left, .right].any fun p => (s.head p).phase == .capturing && (s.head p).capture.bind (·.slot) == some i

theorem contains_capturedSlots (u : HeadUnit) (i : SlotNo) :
    (capturedSlots u).contains i = (u.phase == .capturing && u.capture.bind (·.slot) == some i) := by
  rw [capturedSlots]
  cases u.phase with
  | idle => rfl
  | capturing =>
    cases u.capture.bind (·.slot) with
    | none => rfl
    | some j =>
      rw [if_neg (by decide)]
      by_cases e : i = j
      · simp [e]
      · simp [e, Ne.symm e]

theorem contains_captured (s : State) :
    (fun i => (capturedSlots s.heads.left ++ capturedSlots s.heads.right).contains i) = captured s := by
  funext i
  rw [List.contains_append, contains_capturedSlots, contains_capturedSlots, captured, List.any_cons, List.any_cons,
    List.any_nil, Bool.or_false]
  rfl

theorem discardable_of_ownersClean {s : State} {gone : SlotNo → Bool} (ho : s.ownersClean gone)
    (hd : ∀ i o, gone i = true → (s.slot i).owner = some o → (s.vol o.handle).state ≠ .draining) {i : SlotNo}
    (hi : gone i = true) : Discardable s i :=
  have ⟨o, hown, hn, hl⟩ := ho i hi
  .inr ⟨o, hown, hn, hl, hd i o hi hown⟩

/-- The volumes, the slots and the leaf records of a state are those of another. -/
def SameAccount (s t : State) : Prop :=
  t.vols = s.vols ∧ t.leaves = s.leaves ∧ t.slots = s.slots ∧ t.delivery = s.delivery

theorem sameAccount_haltBase (s : State) (cause : HaltCause) :
    SameAccount s (headsStopped (runHalted (cradleHalted s cause)) cause.abort) := by
  unfold runHalted
  split <;> exact ⟨rfl, rfl, rfl, rfl⟩

section Same
variable {s s' t t' : State} (hs : SameAccount s s')
include hs

theorem slotsFreed_of_same {gone : SlotNo → Bool} (a : SlotsFreed s' t' gone) (hslots : t.slots = t'.slots)
    (hdelivery : t.delivery = t'.delivery) : SlotsFreed s t gone where
  slots i := by
    have hi := a.slots i
    simpa only [State.slot, hslots, hs.2.2.1] using hi
  delivery := by rw [hdelivery, a.delivery, hs.2.2.2]

theorem partsRemoved_of_same {p q : SlotNo → Bool} (a : PartsRemoved s' t' p q) (hleaves : t.leaves = t'.leaves) :
    PartsRemoved s t p q where
  panel h d k hd := by
    have hp := a.panel h d k hd
    simp only [State.face, State.leaf, State.slot, hleaves, hs.2.1, hs.2.2.1] at hp ⊢
    exact hp
  face h d hd := by
    have hf := a.face h d hd
    simpa only [State.face, State.leaf, hleaves, hs.2.1] using hf
  record h n hn := by
    have hr := a.record h n hn
    simpa only [State.leaf, hleaves, hs.2.1] using hr
  kept h n hn := by
    have hk := a.kept h n hn
    simpa only [State.leaf, hleaves, hs.2.1] using hk
  others h n hn ho := by
    have hn' := a.others h n hn
    simp only [State.leaf, State.slot, hs.2.1, hs.2.2.1] at hn'
    rw [State.leaf, State.leaf, hleaves]
    exact hn' ho

theorem discardable_of_same {i : SlotNo} (hd : Discardable s i) : Discardable s' i := by
  simpa only [Discardable, State.slot, State.cleanLeaf, State.leaf, State.vol, hs.1, hs.2.1, hs.2.2.1] using hd

theorem ownedAmong_of_same (h : Handle) (gone : SlotNo → Bool) : s'.ownedAmong h gone = s.ownedAmong h gone := by
  simp only [State.ownedAmong, State.slot, hs.2.2.1]

end Same

/-! ### A halt counted exactly -/

theorem vol_cancelTurn_of_clean {s : State} (hc : s.TableClean) (cause : HaltCause) (h : Handle) :
    (s.cancelTurn cause).vol h = { s.vol h with
      uncertain := (s.vol h).uncertain || (decide (s.active = some h) && haltDoubts s cause) } := by
  have hvols : (turnHalted s cause).vols = s.vols := by
    unfold turnHalted
    split <;> rfl
  have hvol (h : Handle) : (turnHalted s cause).vol h = s.vol h := by rw [State.vol, hvols]; rfl
  have hactive : (turnHalted s cause).active = s.active := by rw [State.active, State.active, hvols]
  rw [cancelTurn_eq]
  cases haltDoubts s cause with
  | true =>
    rw [if_pos rfl, State.setUncertain, hactive]
    cases s.active with
    | none => simp [hvol]
    | some h' =>
      dsimp only
      rw [vol_modVol, hvol, hvol, corrected_of_clean (vol_clean hc h')]
      by_cases e : h = h'
      · subst e
        simp
      · simp [e, Ne.symm e]
  | false => simp [hvol]

/-- On a clean table the turn's end writes volume records, and otherwise what it tells and its phase. -/
theorem cancelTurn_of_clean {s : State} (hc : s.TableClean) (cause : HaltCause) :
    s.cancelTurn cause = { turnHalted s cause with vols := (s.cancelTurn cause).vols } := by
  have hclean : (turnHalted s cause).TableClean := by
    unfold turnHalted
    split <;> exact ⟨hc.zero, hc.one, hc.rescan⟩
  rw [cancelTurn_eq]
  split
  · unfold State.setUncertain
    cases (turnHalted s cause).active with
    | none => rfl
    | some h =>
      dsimp only
      rw [modVol_of_clean (vol_clean hclean h)]
  · rfl

/-- What the turn's end leaves: the slots, the leaf records, the delivery, the faults and the station's notices. -/
theorem rest_turnHalted (s : State) (cause : HaltCause) :
    (turnHalted s cause).leaves = s.leaves ∧ (turnHalted s cause).slots = s.slots ∧
      (turnHalted s cause).delivery = s.delivery ∧ (turnHalted s cause).faults = s.faults ∧
      (turnHalted s cause).links.station = s.links.station ∧ (turnHalted s cause).skippedNow = s.skippedNow := by
  unfold turnHalted
  split <;> exact ⟨rfl, rfl, rfl, rfl, rfl, rfl⟩

theorem rest_cancelTurn_of_clean {s : State} (hc : s.TableClean) (cause : HaltCause) :
    (s.cancelTurn cause).leaves = s.leaves ∧ (s.cancelTurn cause).slots = s.slots ∧
      (s.cancelTurn cause).delivery = s.delivery ∧ (s.cancelTurn cause).faults = s.faults ∧
      (s.cancelTurn cause).links.station = s.links.station ∧ (s.cancelTurn cause).skippedNow = s.skippedNow := by
  rw [cancelTurn_of_clean hc]
  exact rest_turnHalted s cause

section Exact
variable {s : State} {cause : HaltCause} (c : s.Canonical) (hc : s.TableClean) (ho : s.ownersClean (captured s))
  (hn : ∀ i o, captured s i = true → (s.slot i).owner = some o → (s.vol o.handle).state ≠ .draining)

/-- A halted state in which the captures in flight have been discarded and CAPTURE_DONE not yet told. -/
def haltAborted (s : State) (cause : HaltCause) : State :=
  ((runHalted (cradleHalted s cause)).abortCapture .left cause.abort).abortCapture .right cause.abort

include hc in
theorem haltDiscarded_of_clean : haltDiscarded s cause =
    if s.inFlight then (haltAborted s cause).postStation .captureDone else haltAborted s cause := by
  have hflight : (runHalted (cradleHalted s cause)).inFlight = s.inFlight := by
    unfold runHalted
    split <;> rfl
  have hclean : (cradleHalted s cause).TableClean := ⟨hc.zero, hc.one, hc.rescan⟩
  rw [haltDiscarded, haltRun_of_clean hclean, State.abortAll, hflight]
  cases hf : s.inFlight with
  | true => rfl
  | false =>
    obtain ⟨hl, hr⟩ := inFlight_eq_false.1 (hflight.trans hf)
    rw [haltAborted, abortCapture_of_idle hl, abortCapture_of_idle hr]

include c hc ho hn in
theorem partsGone_haltAborted :
    PartsGone (headsStopped (runHalted (cradleHalted s cause)) cause.abort) (haltAborted s cause) (captured s)
      (fun _ => false) := by
  have hsame : SameAccount s (runHalted (cradleHalted s cause)) := by
    have h := sameAccount_haltBase s cause
    exact ⟨h.1, h.2.1, h.2.2.1, h.2.2.2⟩
  have hheads : (runHalted (cradleHalted s cause)).heads = s.heads := by
    unfold runHalted
    split <;> rfl
  have hrest : (runHalted (cradleHalted s cause)).memory = s.memory ∧
      (runHalted (cradleHalted s cause)).gain = s.gain ∧
      (runHalted (cradleHalted s cause)).rescanErrors = s.rescanErrors := by
    unfold runHalted
    split <;> exact ⟨rfl, rfl, rfl⟩
  obtain ⟨hv, hl, -, -⟩ := hsame
  have hparts := partsGone_abortBoth (s := runHalted (cradleHalted s cause)) (fault_abort cause)
    ⟨hrest.1 ▸ c.memory, hl ▸ c.leaves, hrest.2.1 ▸ c.gain⟩
    ⟨hv ▸ hc.zero, hv ▸ hc.one, hrest.2.2 ▸ hc.rescan⟩ (by
      rw [hheads]
      intro i hi
      refine discardable_of_same (sameAccount_haltBase s cause) (discardable_of_ownersClean ho hn ?_)
      rw [← contains_captured]
      exact List.contains_iff_mem.2 hi)
  rw [hheads, contains_captured] at hparts
  exact hparts

include hc in
theorem tableClean_haltDiscarded (hp : PartsGone (headsStopped (runHalted (cradleHalted s cause)) cause.abort)
    (haltAborted s cause) (captured s) (fun _ => false)) : (haltDiscarded s cause).TableClean := by
  have hbase : (headsStopped (runHalted (cradleHalted s cause)) cause.abort).TableClean := by
    unfold runHalted
    split <;> exact ⟨hc.zero, hc.one, hc.rescan⟩
  have haborted := hp.tableClean hbase
  rw [haltDiscarded_of_clean hc]
  split
  · exact ⟨haborted.zero, haborted.one, haborted.rescan⟩
  · exact haborted

theorem state_of_reportHalt (t : State) (cause : HaltCause) :
    (t.reportHalt cause).vols = t.vols ∧ (t.reportHalt cause).leaves = t.leaves ∧
      (t.reportHalt cause).slots = t.slots ∧ (t.reportHalt cause).delivery = t.delivery ∧
      (t.reportHalt cause).skippedNow = t.skippedNow := by
  unfold State.reportHalt
  cases cause.fault <;> exact ⟨rfl, rfl, rfl, rfl, rfl⟩

/-- A state's account is that of the state with a capture's end told. -/
theorem sameAccount_ite_post (b : Bool) (t : State) (n : StationNotice) :
    SameAccount t (if b then t.postStation n else t) := by
  cases b <;> exact ⟨rfl, rfl, rfl, rfl⟩

section Parts
variable (hp : PartsGone (headsStopped (runHalted (cradleHalted s cause)) cause.abort) (haltAborted s cause)
  (captured s) (fun _ => false))
include hp

/-- What of the faults and the links the aborts leave as the end of the run made it. -/
theorem rest_haltAborted : (haltAborted s cause).faults = s.faults ∧
    (haltAborted s cause).links.station.notices = haltedStation s ∧
    (haltAborted s cause).skippedNow = s.skippedNow := by
  have hstart : (headsStopped (runHalted (cradleHalted s cause)) cause.abort).faults = s.faults ∧
      (headsStopped (runHalted (cradleHalted s cause)) cause.abort).links.station.notices = haltedStation s ∧
      (headsStopped (runHalted (cradleHalted s cause)) cause.abort).skippedNow = s.skippedNow := by
    have hrun : runHalted (cradleHalted s cause) =
        if s.run.state = .idle then cradleHalted s cause else runEnded (cradleHalted s cause) .halted .none := rfl
    rw [hrun, haltedStation]
    split <;> exact ⟨rfl, rfl, rfl⟩
  have hfaults := congrArg State.faults hp.frame
  have hnotices := congrArg (fun x : State => x.links.station.notices) hp.frame
  have hskipped := congrArg State.skippedNow hp.frame
  exact ⟨hfaults.trans hstart.1, hnotices.trans hstart.2.1, hskipped.trans hstart.2.2⟩

include hc

theorem told_haltDiscarded :
    (haltTold (haltDiscarded s cause) cause).faults = s.faults ∧
    (haltTold (haltDiscarded s cause) cause).links.station.notices =
      addNotice (if s.inFlight then addNotice (haltedStation s) StationNotice.captureDone.place else haltedStation s)
        StationNotice.cradleHalted.place ∧
    (haltTold (haltDiscarded s cause) cause).skippedNow = s.skippedNow := by
  obtain ⟨hf, hn, hk⟩ := rest_haltAborted hp
  obtain ⟨-, -, -, hcf, hcn, hck⟩ := rest_cancelTurn_of_clean (tableClean_haltDiscarded hc hp) cause
  have hdiscarded : (haltDiscarded s cause).faults = s.faults ∧
      (haltDiscarded s cause).links.station.notices =
        (if s.inFlight then addNotice (haltedStation s) StationNotice.captureDone.place else haltedStation s) ∧
      (haltDiscarded s cause).skippedNow = s.skippedNow := by
    rw [haltDiscarded_of_clean hc, ← hn]
    split <;> exact ⟨hf, rfl, hk⟩
  refine ⟨hcf.trans hdiscarded.1, ?_, hck.trans hdiscarded.2.2⟩
  rw [← hdiscarded.2.1, ← hcn]
  rfl

theorem vol_halt_of_clean (h : Handle) : (s.halt cause).vol h = { s.vol h with
    uncertain := (s.vol h).uncertain || (decide (s.active = some h) && haltDoubts s cause)
    counters := { (s.vol h).counters with
      discarded := (s.vol h).counters.discarded + BitVec.ofNat 32 (s.ownedAmong h (captured s)) } } := by
  have hbase := sameAccount_haltBase s cause
  have hactive : (haltDiscarded s cause).active = s.active := by
    rw [active_congr (discarding_haltDiscarded s cause).active, State.active, State.active, hbase.1]
  have hvol : (s.halt cause).vol h = ((haltDiscarded s cause).cancelTurn cause).vol h :=
    congrArg (fun v : PerHandle Volume => v.get h) (state_of_reportHalt (haltTold (haltDiscarded s cause) cause) cause).1
  have hdvol : (haltDiscarded s cause).vol h = (haltAborted s cause).vol h := by
    rw [haltDiscarded_of_clean hc]
    split <;> rfl
  have hbvol : (headsStopped (runHalted (cradleHalted s cause)) cause.abort).vol h = s.vol h :=
    congrArg (fun v : PerHandle Volume => v.get h) hbase.1
  have hnone : (s.ownedAmong h fun _ => false) = 0 := by simp [State.ownedAmong]
  rw [hvol, vol_cancelTurn_of_clean (tableClean_haltDiscarded hc hp), hactive, haltDoubts_haltDiscarded, hdvol,
    hp.vols h, ownedAmong_of_same hbase, ownedAmong_of_same hbase, hbvol]
  simp only [Bool.or_false, hnone, discounted, BitVec.sub_zero]

theorem parts_halt :
    SlotsFreed s (s.halt cause) (captured s) ∧ PartsRemoved s (s.halt cause) (captured s) (fun _ => false) := by
  have hbase := sameAccount_haltBase s cause
  obtain ⟨-, hdl, hds, hdd⟩ := sameAccount_ite_post s.inFlight (haltAborted s cause) .captureDone
  rw [← haltDiscarded_of_clean hc] at hdl hds hdd
  obtain ⟨hcl, hcs, hcd, -⟩ := rest_cancelTurn_of_clean (tableClean_haltDiscarded hc hp) cause
  obtain ⟨-, hrl, hrs, hrd, -⟩ := state_of_reportHalt (haltTold (haltDiscarded s cause) cause) cause
  have hfreed := slotsFreed_of_same hbase hp.slotsFreed (t := s.halt cause) (hrs.trans (hcs.trans hds))
    (hrd.trans (hcd.trans hdd))
  simp only [Bool.or_false] at hfreed
  exact ⟨hfreed, partsRemoved_of_same hbase hp.partsRemoved (hrl.trans (hcl.trans hdl))⟩

end Parts

end Exact

theorem haltDoubts_decide (s : State) (cause : HaltCause) (h : Handle) :
    (decide (s.active = some h) && haltDoubts s cause) = decide (s.active = some h ∧
      s.turn.phase = .granted ∧ (s.turn.picked.isSome = true ∨ (s.turn.swept = true ∧ cause ≠ .turner))) := by
  rw [Bool.eq_iff_iff, Bool.and_eq_true, haltDoubts_iff, decide_eq_true_eq, decide_eq_true_eq]

/-- Settles O24: each effect of a halt read off the stage that has it, and the discards counted where their records are
sound. -/
theorem haltEffects : Obligations.HaltEffects := by
  refine ⟨fun s cause => ?any, fun s cause c hc => ?exact⟩
  case any =>
    intro t
    have hcradle : t.cradle = haltedCradle s cause := cradle_halt s cause
    obtain ⟨-, -, hdark, hflight, -⟩ := halt_spec s cause
    have hactive : t.active = s.active := active_congr fun h => (vol_halt s cause h).2.1
    refine ⟨hcradle, by rw [hcradle]; rfl, by rw [hcradle]; rfl, hdark, hflight, fun p hp => ?_, fun p hp => ?_,
      fun hf => notices_halt s cause (.inl (captureDone_of_inFlight s cause hf)),
      fun hr => ⟨?_, turnWanted_of_running s cause hr,
        notices_halt s cause (.inl (runEnded_of_running s cause hr))⟩,
      fun hr => (run_halt s cause).trans (if_pos hr), ?_, grantCancelled_of_granted s cause, fun h ha => ?_, hactive,
      fun h => (vol_halt s cause h).1, notices_halt s cause (.inr rfl), ?_, fun c hf => faults_halt s cause hf,
      halt_fields s cause⟩
    · rw [heads_halt, HeadUnit.stopped, if_neg (by rw [hp]; decide), HeadUnit.aborted, flags_mark_abort]
      rfl
    · rw [heads_halt, HeadUnit.stopped, if_pos hp]
    · exact (run_halt s cause).trans (if_neg hr)
    · rw [turn_halt]
      cases s.turn.phase <;> rfl
    · rw [hactive] at ha
      rw [(vol_halt s cause h).2.2, ha]
      simp only [decide_true, Bool.true_and, Bool.or_eq_true, haltDoubts_iff]
    · rw [turner_halt]
      exact addNotice_has _ (by decide)
  case exact =>
    intro gone ho hn t doubt station₀ station₁ station₂ station turner₀ turner₁ turner
    have hp := partsGone_haltAborted (cause := cause) c hc ho hn
    obtain ⟨hfreed, hparts⟩ := parts_halt hc hp
    obtain ⟨hfaults, hnotices, htold⟩ := told_haltDiscarded hc hp
    have hskipped : t.skippedNow = s.skippedNow :=
      (state_of_reportHalt (haltTold (haltDiscarded s cause) cause) cause).2.2.2.2.trans htold
    have hstation : (haltTold (haltDiscarded s cause) cause).links.station.notices = station := by
      rw [hnotices, haltedStation]
    refine ⟨hfreed, hparts, fun h => ?_, ?_, ?_, ?_, hskipped⟩
    · have hv := vol_halt_of_clean hc hp h
      rw [haltDoubts_decide] at hv
      exact hv
    · show (State.reportHalt _ cause).faults = _
      rw [State.reportHalt]
      cases cause.fault with
      | none => exact hfaults
      | some c => exact congrArg (fun f : FaultReport => { f.raise c 1 with record := some (FaultRecord.plain c) }) hfaults
    · show (State.reportHalt _ cause).links.station.notices = _
      rw [State.reportHalt]
      cases cause.fault with
      | none => exact hstation
      | some c => exact congrArg (addNotice · StationNotice.fault.place) hstation
    · rw [turner_halt, haltedTurner]

end Sys2Proof.Proofs
end

section
/-! SUPPORT. The events that halt the cradle (R57, R59, R74, R75) and the check of its parity (R185). -/
namespace Sys2Proof.Proofs
open Sys2Proof.Machine Sys2Proof.Laws

/-! ### A halt inside a command (R188) -/

theorem answering_taking {s : State} (hk : s.skippedNow = []) (link : MasterLink) (n : Nat) (r : Reply) :
    answering link r (s.taking link n) = s.answered link n r := by
  have hs : s = { s with skippedNow := [] } := by rw [← hk]
  rw [State.answered, hs]
  cases link <;> rfl

/-- A command whose block answers and does what does not mind the answer on its link. -/
theorem exec_of_act {s : State} {i : Instr} {c : Cmd} {link : MasterLink} {ws : List Word} {r : Reply}
    {g : State → State} (hk : s.skippedNow = []) (hg : ∀ x, g (answering link r x) = answering link r (g x))
    (hx : exec i s = done (handed s link c ws))
    (ha : c.act link ws (s.taking link ws.length) = (r, g (s.taking link ws.length))) :
    exec i s = .next { g (s.answered link ws.length r) with skippedNow := [] } := by
  rw [hx, handed_next ha, ← answering_taking hk, hg]
  rfl

/-- A command whose block answers and halts the cradle. -/
theorem exec_of_halt {s : State} {i : Instr} {c : Cmd} {link : MasterLink} {ws : List Word} {r : Reply}
    {cause : HaltCause} (hk : s.skippedNow = []) (hx : exec i s = done (handed s link c ws))
    (ha : c.act link ws (s.taking link ws.length) = (r, (s.taking link ws.length).halt cause)) :
    exec i s = .next { (s.answered link ws.length r).halt cause with skippedNow := [] } :=
  exec_of_act (g := (State.halt · cause)) hk (fun x => halt_answering link r x cause) hx ha

/-! ### Halting events (R57, R59, R74, R75) -/

/-- A cradle already HALTED takes a new cause, and its fault is reported. -/
def recaused (s : State) (cause : HaltCause) (f : FaultClass) : State :=
  State.report { s with cradle := { s.cradle with haltCause := cause } } (FaultRecord.plain f)

theorem recaused_answering (link : MasterLink) (r : Reply) (s : State) (cause : HaltCause) (f : FaultClass) :
    recaused (answering link r s) cause f = answering link r (recaused s cause f) :=
  report_answering link r { s with cradle := { s.cradle with haltCause := cause } } (FaultRecord.plain f)

section Events
variable {s : State} (hp : s.cradle.parityGood = true)
include hp

theorem stopLineAsserted_of_clear (hl : s.cradle.stopLine = false) : stopLineAsserted s =
    let stop : State := { s with cradle := { s.cradle with stopLine := true } }
    if s.cradle.state = .halted then recaused stop .stop .stop else stop.halt .stop :=
  (if_neg fun h => Bool.false_ne_true (hl.symm.trans h)).trans (interlock_of_good (by exact hp) _)

theorem travelTimerExpiry_of_running (ht : s.cradle.travelTimer.isSome = true) :
    travelTimerExpiry s = s.halt .travelTimeout := by
  obtain ⟨n, ht⟩ := Option.isSome_iff_exists.1 ht
  rw [travelTimerExpiry, ht]
  exact interlock_of_good hp _

theorem grantTimerExpiry_of_running (ht : s.cradle.grantTimer.isSome = true) :
    grantTimerExpiry s = s.halt .turnTimeout := by
  obtain ⟨n, ht⟩ := Option.isSome_iff_exists.1 ht
  rw [grantTimerExpiry, ht]
  exact interlock_of_good hp _

theorem turnerFault_of_good : turnerFault s =
    (.accepted [], if s.cradle.state = .halted then recaused s .turner .turner else s.halt .turner) := by
  rw [turnerFault, hp]
  exact (if_neg Bool.true_eq_false.mp).trans (apply_ite (Prod.mk (Reply.accepted [])) _ _ _).symm

end Events

theorem travelTimerExpiry_of_stopped {s : State} (ht : s.cradle.travelTimer = none) : travelTimerExpiry s = s := by
  rw [travelTimerExpiry, ht]

theorem grantTimerExpiry_of_stopped {s : State} (ht : s.cradle.grantTimer = none) : grantTimerExpiry s = s := by
  rw [grantTimerExpiry, ht]

theorem exec_turnerFault {s : State} (hi : s.initRunning = false) :
    exec .turnerFault s = done (handed s .turner .turnerFault []) :=
  exec_action rfl rfl rfl (completes_of_arity (fun _ => rfl) rfl) hi

/-- Settles O29: each event halts the cradle with its cause, or finds it HALTED, or is no event. -/
theorem haltingEvents : Obligations.HaltingEvents := by
  intro s hp hk c fin stop
  have turner (hi : s.initRunning = false) := turnerFault_of_good (s := s.taking .turner 0) hp
  refine ⟨fun hl => done_congr (if_pos hl),
    fun hl hs => done_congr ((stopLineAsserted_of_clear hp hl).trans (if_neg hs)),
    fun hl hs => done_congr ((stopLineAsserted_of_clear hp hl).trans (if_pos hs)),
    fun ht => done_congr (travelTimerExpiry_of_running hp ht),
    fun ht => done_congr (travelTimerExpiry_of_stopped ht),
    fun ht => done_congr (grantTimerExpiry_of_running hp ht),
    fun ht => done_congr (grantTimerExpiry_of_stopped ht), fun hi hs => ?_, fun hi hs => ?_⟩
  · have ha : Cmd.act .turnerFault .turner [] (s.taking .turner 0) = (.accepted [], (s.taking .turner 0).halt .turner) :=
      (act_of_reads_none rfl rfl).trans ((turner hi).trans (congrArg (Prod.mk _) (if_neg hs)))
    have hx := exec_of_halt hk (exec_turnerFault hi) ha
    exact hx
  · have ha : Cmd.act .turnerFault .turner [] (s.taking .turner 0) =
        (.accepted [], recaused (s.taking .turner 0) .turner .turner) :=
      (act_of_reads_none rfl rfl).trans ((turner hi).trans (congrArg (Prod.mk _) (if_pos hs)))
    have hx := exec_of_act (g := (recaused · .turner .turner)) hk (fun x => recaused_answering _ _ x _ _)
      (exec_turnerFault hi) ha
    exact hx

/-! ### A failed parity (R185) -/

theorem interlock_of_bad {s : State} (hp : s.cradle.parityGood = false) (event : State → State) :
    s.interlock event = s.halt .interlockCheck := if_pos hp

theorem pos_of_false {α : Type} {b : Bool} (h : b = false) (x y : α) : (if b = false then x else y) = x := if_pos h

theorem exec_turnRequest {s : State} (hi : s.initRunning = false) (d : Word) :
    exec (.turnRequest d) s = done (handed s .turner .turnRequest [d]) :=
  exec_action rfl rfl rfl (completes_of_arity (fun _ => rfl) rfl) hi

theorem exec_run {s : State} (hi : s.initRunning = false) (w : Word) :
    exec (.run w) s = done (handed s .station .run [w]) :=
  exec_action rfl rfl rfl (completes_of_arity (fun _ => rfl) rfl) hi

theorem exec_seek {s : State} (hi : s.initRunning = false) (w : Word) :
    exec (.seek w) s = done (handed s .station .seek [w]) :=
  exec_action rfl rfl rfl (completes_of_arity (fun _ => rfl) rfl) hi

theorem exec_expose {s : State} (hi : s.initRunning = false) (a b c : Word) :
    exec (.expose a b c) s = done (handed s .station .expose [a, b, c]) :=
  exec_action rfl rfl rfl (completes_of_arity (fun _ => rfl) rfl) hi

theorem exec_darkCapture {s : State} (hi : s.initRunning = false) (w : Word) :
    exec (.darkCapture w) s = done (handed s .station .darkCapture [w]) :=
  exec_action rfl rfl rfl (completes_of_arity (fun _ => rfl) rfl) hi

theorem exec_flatCapture {s : State} (hi : s.initRunning = false) (w t : Word) :
    exec (.flatCapture w t) s = done (handed s .station .flatCapture [w, t]) :=
  exec_action rfl rfl rfl (completes_of_arity (fun _ => rfl) rfl) hi

section BadParity
variable {s : State} (hp : s.cradle.parityGood = false)
include hp

theorem resume_of_badParity : resume s = (.refused .halted, s.halt .interlockCheck) := if_pos hp

theorem turnerFault_of_badParity : turnerFault s = (.refused .halted, s.halt .interlockCheck) := if_pos hp

theorem turnRequest_of_badParity {d : Nat} (hd : d ≤ 1) :
    turnRequest d s = (.refused .halted, s.halt .interlockCheck) := by
  match d, hd with
  | 0, _ => exact if_pos hp
  | 1, _ => exact if_pos hp

theorem clear_of_badParity (hg : s.turn.phase = .granted) : clear s = (.refused .halted, s.halt .interlockCheck) :=
  (if_neg (not_not_intro hg)).trans (if_pos hp)

theorem aborted_of_badParity (hg : s.turn.phase = .granted) :
    aborted s = (.refused .halted, s.halt .interlockCheck) :=
  (if_neg (not_not_intro hg)).trans (if_pos hp)

theorem openVolume_of_badParity {r : OpenRequest} (ha : s.active = none) {h : Handle} (he : s.emptyHandle = some h) :
    openVolume r s = (.refused .halted, s.halt .interlockCheck) := by
  simp only [openVolume, ha, he, hp]
  rfl

section Idle
variable (hr : s.run.state = .idle)
include hr

theorem lower_of_badParity : lower s = (.refused .halted, s.halt .interlockCheck) := by
  rw [lower, runActive_of_idle hr]
  exact if_pos hp

theorem raise_of_badParity : raise s = (.refused .halted, s.halt .interlockCheck) := by
  rw [Machine.raise, runActive_of_idle hr]
  exact if_pos hp

theorem calibrationTests_of_badParity {heads : List Head} (hh : heads ≠ []) (ha : s.active = none) :
    s.calibrationTests heads = (some .halted, s.halt .interlockCheck) := by
  rw [State.calibrationTests, if_neg hh, runActive_of_idle hr, ha]
  exact if_pos hp

section Active
variable {h : Handle} (ha : s.active = some h) (hc : s.TableClean)
include ha

theorem setOpening_of_badParity (k : Nat) : setOpening k s = (.refused .halted, s.halt .interlockCheck) := by
  rw [setOpening, ha]
  dsimp only
  rw [runActive_of_idle hr]
  exact if_pos hp

include hc

theorem run_of_badParity (count : Nat) : run count s = (.refused .halted, s.halt .interlockCheck) :=
  run_of_refused (startTests_of_badParity hr ha hc hp)

theorem seek_of_badParity (w : Nat) : seek w s = (.refused .halted, s.halt .interlockCheck) := by
  rw [seek, startTests_of_badParity hr ha hc hp]

theorem expose_of_badParity (sides left right : Nat) :
    expose sides left right s = (.refused .halted, s.countRequest.halt .interlockCheck) := by
  have hclean : s.countRequest.TableClean := ⟨hc.zero, hc.one, hc.rescan⟩
  have hattempt (rs : List (Head × Nat)) :
      s.countRequest.attemptExposure rs = (.refused .halted, s.countRequest.halt .interlockCheck) := by
    have hactive : s.countRequest.active = some h := ha
    rw [State.attemptExposure, hactive]
    dsimp only
    rw [readVolume_of_clean (vol_clean hclean h)]
    exact if_pos hp
  unfold expose
  dsimp only
  rw [hattempt]
  exact if_neg (not_not_intro hr)

theorem pedalStart_of_badParity : s.pedalStart = s.halt .interlockCheck := by
  rw [State.pedalStart, runActive_of_idle hr, run_of_badParity hp hr ha hc]
  exact (if_neg Bool.false_ne_true).trans (if_pos ⟨by rw [ha]; rfl, hp⟩)

end Active
end Idle

end BadParity

theorem headsOf_ne_nil {n : Nat} (h1 : 1 ≤ n) (h3 : n ≤ 3) : headsOf n ≠ [] := by
  match n, h1, h3 with
  | 1, _, _ | 2, _, _ | 3, _, _ => exact List.cons_ne_nil _ _

section BadInput
variable {s : State} (hp : s.cradle.parityGood = false)
include hp

theorem travelTimerExpiry_of_badParity (ht : s.cradle.travelTimer.isSome = true) :
    travelTimerExpiry s = s.halt .interlockCheck := by
  obtain ⟨n, ht⟩ := Option.isSome_iff_exists.1 ht
  rw [travelTimerExpiry, ht]
  exact interlock_of_bad hp _

theorem settleTimerExpiry_of_badParity (ht : s.cradle.settleTimer.isSome = true) :
    settleTimerExpiry s = s.halt .interlockCheck := by
  obtain ⟨n, ht⟩ := Option.isSome_iff_exists.1 ht
  rw [settleTimerExpiry, ht]
  exact interlock_of_bad hp _

theorem grantTimerExpiry_of_badParity (ht : s.cradle.grantTimer.isSome = true) :
    grantTimerExpiry s = s.halt .interlockCheck := by
  obtain ⟨n, ht⟩ := Option.isSome_iff_exists.1 ht
  rw [grantTimerExpiry, ht]
  exact interlock_of_bad hp _

/-- The end of an exposure tells of it, and halts the cradle; a run has ended with the halt. -/
theorem exposureEnd_of_badParity : s.exposureEnd = (s.postStation .captureDone).halt .interlockCheck := by
  have hsettle : (s.postStation .captureDone).settleAfterExposure = (s.postStation .captureDone).halt .interlockCheck :=
    if_pos hp
  rw [State.exposureEnd, hsettle]
  refine if_neg fun hx => ?_
  rw [run_halt, haltedRun] at hx
  split at hx
  · next hr => exact RunState.noConfusion (hr.symm.trans hx)
  · cases hx

end BadInput

/-- What discards do not write is as it was. -/
theorem Discarding.same {s t : State} (a : Discarding s t) {α : Type} (f : State → α)
    (hf : ∀ x, f (discardFrame x) = f x) : f t = f s := by
  rw [← hf, a.frame, hf]

/-- The last capture of an exposure timed out: the exposure ends with it (R113, R115). -/
theorem frameTimerExpiry_of_last {s : State} {h : Head} (hc : (s.head h).phase = .capturing)
    (ht : (s.head h).frameTimer.isSome = true) (hl : ∀ p, p ≠ h → (s.head p).phase = .idle)
    (hr : s.run.state ≠ .slotWait) : frameTimerExpiry h s = (s.abortCapture h .timeout).exposureEnd := by
  obtain ⟨n, ht⟩ := Option.isSome_iff_exists.1 ht
  have hrun : (s.abortCapture h .timeout).run = s.run :=
    (discarding_abortCapture_stopped s h .timeout).same State.run fun _ => rfl
  have hreport : (s.abortCapture h .timeout).reportFreed s = s.abortCapture h .timeout :=
    if_neg fun hx => hr (hrun ▸ hx.1)
  have hidle (p : Head) : ((s.abortCapture h .timeout).head p).phase = .idle := by
    rw [phase_abortCapture]
    split
    · rfl
    · next hne => exact hl p hne
  have hflight : (s.abortCapture h .timeout).inFlight = false := inFlight_eq_false.2 ⟨hidle .left, hidle .right⟩
  rw [frameTimerExpiry, hc, ht]
  show s.headError h .timeout = _
  rw [State.headError, hreport]
  exact if_neg (by rw [hflight]; exact Bool.false_ne_true)

/-- An EXPOSE that finds the parity failed was counted as asked for (R33). -/
theorem exec_expose_of_badParity {s : State} (hp : s.cradle.parityGood = false) (hk : s.skippedNow = [])
    (hc : s.TableClean) (hi : s.initRunning = false) (hr : s.run.state = .idle) {h : Handle} (ha : s.active = some h)
    (a b c : Word) : exec (.expose a b c) s =
      .next { (s.answered .station 3 (.refused .halted)).countRequest.halt .interlockCheck with skippedNow := [] } := by
  have hact : Cmd.act .expose .station [a, b, c] (s.taking .station 3) =
      (.refused .halted, (s.taking .station 3).countRequest.halt .interlockCheck) :=
    (act_taking_of_clean hc .expose .station [a, b, c]).trans
      (expose_of_badParity (s := s.taking .station 3) hp hr ha ⟨hc.zero, hc.one, hc.rescan⟩ _ _ _)
  rw [exec_expose hi, handed_next hact, ← answering_taking hk]
  exact congrArg (fun x : State => Host.Outcome.next { x with skippedNow := [] })
    (halt_answering .station (.refused .halted) (s.taking .station 3).countRequest .interlockCheck).symm

/-- Settles O31: each command and each event that reads the cradle state finds the failed parity and halts. -/
theorem failedParityHaltsTheCradle : Obligations.FailedParityHaltsTheCradle := by
  refine ⟨fun s hp hk hc => ?_, fun s hp => ⟨exposureEnd_of_badParity hp, fun rs hstop => ?_⟩⟩
  · intro fin trips halts
    have trip {i : Instr} {c : Cmd} {link : MasterLink} {ws : List Word} {n : Nat}
        (hx : exec i s = done (handed s link c ws)) (hn : ws.length = n)
        (ha : c.perform link ws (s.taking link n) =
          (.refused .halted, (s.taking link n).halt .interlockCheck)) : trips i link n := by
      subst hn
      exact exec_of_halt hk hx ((act_taking_of_clean hc c link ws).trans ha)
    have hc' (link : MasterLink) (n : Nat) : (s.taking link n).TableClean := ⟨hc.zero, hc.one, hc.rescan⟩
    have event {t u : State} (h : t = u) : done t = .next (fin u) := done_congr h
    refine ⟨fun hi => ⟨trip (exec_resume hi) rfl (resume_of_badParity hp),
        trip (exec_turnerFault hi) rfl (turnerFault_of_badParity hp),
        fun d hd => trip (exec_turnRequest hi d) rfl (turnRequest_of_badParity (s := s.taking .turner 1) hp hd),
        fun hg => ⟨trip (exec_clear hi) rfl (clear_of_badParity (s := s.taking .turner 0) hp hg),
          trip (exec_aborted hi) rfl (aborted_of_badParity (s := s.taking .turner 0) hp hg)⟩,
        fun hr => ⟨trip (exec_lower hi) rfl (lower_of_badParity (s := s.taking .station 0) hp hr),
          trip (exec_raise hi) rfl (raise_of_badParity (s := s.taking .station 0) hp hr)⟩,
        fun hr ha => ?run, fun ha he part leaves length vc sc chars hf => ?opening,
        fun ha hr set target h1 h3 => ?calibration, fun hd hr ha => ?pedal⟩,
      fun ht => event (travelTimerExpiry_of_badParity hp ht), fun ht => event (settleTimerExpiry_of_badParity hp ht),
      fun ht => event (grantTimerExpiry_of_badParity hp ht),
      fun hh => event ((if_pos hh).trans (interlock_of_bad (by exact hp) _)),
      fun hh => event ((if_neg (by rw [hh]; exact Bool.false_ne_true)).trans (interlock_of_bad (by exact hp) _)),
      fun hu => event ((if_neg (by rw [hu]; exact Bool.false_ne_true)).trans (interlock_of_bad (by exact hp) _)),
      fun hd => event ((if_neg (by rw [hd]; exact Bool.false_ne_true)).trans (interlock_of_bad (by exact hp) _)),
      fun hu => event ((if_pos hu).trans (interlock_of_bad (by exact hp) _)),
      fun hd => event ((if_pos hd).trans (interlock_of_bad (by exact hp) _)),
      fun hl => event ((if_neg (by rw [hl]; exact Bool.false_ne_true)).trans (interlock_of_bad (by exact hp) _)),
      fun h hcap ht hl hr => event ((frameTimerExpiry_of_last hcap ht hl hr).trans (exposureEnd_of_badParity ?_))⟩
    case run =>
      obtain ⟨h, ha⟩ := Option.isSome_iff_exists.1 ha
      refine ⟨fun w => ⟨trip (exec_run hi w) rfl (run_of_badParity (s := s.taking .station 1) hp hr ha (hc' _ _) _),
        trip (exec_seek hi w) rfl (seek_of_badParity (s := s.taking .station 1) hp hr ha (hc' _ _) _),
        trip (exec_setOpening hi w) rfl (setOpening_of_badParity (s := s.taking .station 1) hp hr ha _)⟩, fun a b c => ?_⟩
      exact exec_expose_of_badParity hp hk hc hi hr ha a b c
    case opening =>
      obtain ⟨h, he⟩ := emptyHandle_of_some_empty he
      have hopen : Cmd.perform .openVolume .station (openWords part leaves vc sc length chars)
          (s.taking .station (8 + chars.length)) =
          (.refused .halted, (s.taking .station (8 + chars.length)).halt .interlockCheck) :=
        openVolume_of_badParity (r := OpenRequest.ofWords (openWords part leaves vc sc length chars))
          (s := s.taking .station (8 + chars.length)) hp ha he
      exact trip (exec_openVolume hi hf) (length_openWords part leaves vc sc length chars) hopen
    case calibration =>
      have hset := headsOf_ne_nil h1 h3
      refine ⟨trip (exec_darkCapture hi set) rfl ?_, trip (exec_flatCapture hi set target) rfl ?_⟩
      · have htests := calibrationTests_of_badParity (s := s.taking .station 1) hp hr hset ha
        show darkCapture set.toNat _ = _
        rw [darkCapture, htests]
      · have htests := calibrationTests_of_badParity (s := s.taking .station 2) hp hr hset ha
        show flatCapture set.toNat target.toNat _ = _
        rw [flatCapture, htests]
    case pedal =>
      obtain ⟨h, ha⟩ := Option.isSome_iff_exists.1 ha
      exact event ((pedalAsserted_of_idle hd hi).trans (pedalStart_of_badParity (by exact hp) (by exact hr) (by exact ha)
        ⟨hc.zero, hc.one, hc.rescan⟩))
    exact (congrArg Cradle.parityGood ((discarding_abortCapture_stopped s h .timeout).same State.cradle fun _ => rfl)).trans hp
  · exact (if_neg (by rw [hstop]; exact Bool.false_ne_true)).trans (if_pos hp)

end Sys2Proof.Proofs
end

section
/-! SUPPORT. TURN REQUEST (R56, R64, R65). -/
namespace Sys2Proof.Proofs
open Sys2Proof.Machine Sys2Proof.Laws

/-! ### The tests (R64) -/

theorem directionOf_place (d : Direction) : directionOf d.place = some d := by cases d <;> rfl

theorem directionOf_of_above {n : Nat} (hn : 2 ≤ n) : directionOf n = none :=
  match n, hn with
  | _ + 2, _ => rfl

theorem allSlots_any_iff {p : SlotNo → Bool} : allSlots.any p = true ↔ ∃ i, p i = true :=
  List.any_eq_true.trans ⟨fun ⟨i, _, hi⟩ => ⟨i, hi⟩, fun ⟨i, hi⟩ => ⟨i, mem_allSlots i, hi⟩⟩

/-- A held capture of the opening: a PROVISIONAL slot that a side of the opening owns. -/
theorem heldAt_iff {s : State} {h : Handle} {k : Nat} :
    s.heldAt h k = true ↔ ∃ i o, (s.slot i).state = .provisional ∧ (s.slot i).owner = some o ∧ o.handle = h ∧
      (o.side = ⟨k, .verso⟩ ∨ o.side = ⟨k + 1, .recto⟩) := by
  refine allSlots_any_iff.trans (exists_congr fun i => ?_)
  cases (s.slot i).owner <;> simp [sideAt]

theorem pastEnd_iff {s : State} {h : Handle} {d : Direction} :
    s.pastEnd h d = true ↔
      (d = .forward ∧ (s.vol h).leaves ≤ (s.vol h).opening) ∨ (d = .back ∧ (s.vol h).opening = 0) := by
  cases d <;> simp [State.pastEnd]

section Tests
variable {s : State} {d : Direction}

theorem turnTests_of_held {h : Handle} (ha : s.active = some h) (hh : s.heldAt h (s.vol h).opening = true) :
    s.turnTests d = some .undecided := by
  simp only [State.turnTests, ha, hh, if_true]

theorem turnTests_of_end {h : Handle} (ha : s.active = some h) (hh : ¬s.heldAt h (s.vol h).opening = true)
    (he : s.pastEnd h d = true) : s.turnTests d = some .endOfVolume := by
  simp only [State.turnTests, ha, if_neg hh, if_pos he]

theorem turnTests_of_pass (hh : ∀ h, s.active = some h → ¬s.heldAt h (s.vol h).opening = true)
    (he : ∀ h, s.active = some h → ¬s.pastEnd h d = true) : s.turnTests d = none := by
  rcases ha : s.active with - | h
  · simp only [State.turnTests, ha]
  · simp only [State.turnTests, ha, if_neg (hh h ha), if_neg (he h ha)]

/-- Past the parameter and the parity, the tests of TURN REQUEST in their order. -/
theorem turnRequest_of_good (hp : s.cradle.parityGood = true) : turnRequest d.place s =
    if s.cradle.state = .halted then (.refused .halted, s)
    else if s.runActive && !(s.run.wanted == some d) then (.refused .runActive, s)
    else if s.inFlight then (.refused .exposureInFlight, s)
    else (s.turnTests d).elim
      (if s.cradle.state = .lowering ∨ s.cradle.state = .turnGranted then (.refused .cradleState, s)
       else (.accepted (s.takeRequest d).cradle.state.word, s.takeRequest d))
      fun r => (.refused r, s) := by
  simp only [turnRequest, directionOf_place, hp, Bool.true_eq_false, if_false]
  cases s.turnTests d <;> rfl

variable (hp : s.cradle.parityGood = true)
include hp

theorem turnRequest_of_halted (hs : s.cradle.state = .halted) :
    turnRequest d.place s = (.refused .halted, s) :=
  (turnRequest_of_good hp).trans (if_pos hs)

variable (hs : s.cradle.state ≠ .halted)
include hs

theorem turnRequest_of_running (hf : ¬(s.run.state = .idle ∨ s.run.wanted = some d)) :
    turnRequest d.place s = (.refused .runActive, s) := by
  obtain ⟨hr, hw⟩ := not_or.1 hf
  exact (turnRequest_of_good hp).trans ((if_neg hs).trans (if_pos (by simpa [runActive_of_busy hr] using hw)))

variable (hf : s.run.state = .idle ∨ s.run.wanted = some d)
include hf

theorem turnRequest_of_free : turnRequest d.place s =
    if s.inFlight then (.refused .exposureInFlight, s)
    else (s.turnTests d).elim
      (if s.cradle.state = .lowering ∨ s.cradle.state = .turnGranted then (.refused .cradleState, s)
       else (.accepted (s.takeRequest d).cradle.state.word, s.takeRequest d))
      fun r => (.refused r, s) := by
  refine (turnRequest_of_good hp).trans ((if_neg hs).trans (if_neg ?_))
  rcases hf with hr | hw
  · simp [runActive_of_idle hr]
  · simp [hw]

theorem turnRequest_of_flying (hfl : s.inFlight = true) :
    turnRequest d.place s = (.refused .exposureInFlight, s) :=
  (turnRequest_of_free hp hs hf).trans (if_pos hfl)

variable (hfl : s.inFlight = false)
include hfl

theorem turnRequest_of_test {r : Reason} (ht : s.turnTests d = some r) :
    turnRequest d.place s = (.refused r, s) := by
  rw [turnRequest_of_free hp hs hf, hfl, ht]
  rfl

variable (ht : s.turnTests d = none)
include ht

theorem turnRequest_of_moving (hm : s.cradle.state = .lowering ∨ s.cradle.state = .turnGranted) :
    turnRequest d.place s = (.refused .cradleState, s) := by
  rw [turnRequest_of_free hp hs hf, hfl, ht]
  exact if_pos hm

theorem turnRequest_of_ok (hm : ¬(s.cradle.state = .lowering ∨ s.cradle.state = .turnGranted)) :
    turnRequest d.place s = (.accepted (s.takeRequest d).cradle.state.word, s.takeRequest d) := by
  rw [turnRequest_of_free hp hs hf, hfl, ht]
  exact if_neg hm

end Tests

/-! ### What an accepted request does (R56, R65) -/

/-- The turn record of a request, and whether its grant waits. -/
def turnTaken (s : State) (d : Direction) (phase : TurnPhase) (pending : Bool) : State :=
  { s with
    turn := ⟨phase, some d, none, false⟩
    cradle := { s.cradle with grantPending := pending } }

section Taken
variable {s : State} (d : Direction)

theorem takeRequest_of_opened (hs : s.cradle.state = .opened) (hu : s.cradle.upSwitch = true)
    (hd : s.cradle.downSwitch = false) :
    s.takeRequest d = (turnTaken s d .granted false).enter .turnGranted := by
  rw [State.takeRequest, hs]
  exact beginGrant_of_agree (by exact hu) (by exact hd)

theorem takeRequest_of_down (hs : s.cradle.state = .settling ∨ s.cradle.state = .ready)
    (ha : ¬(s.cradle.upSwitch = true ∧ s.cradle.downSwitch = true)) :
    s.takeRequest d = (turnTaken s d .pending true).enter .raising := by
  rcases hs with hs | hs <;> rw [State.takeRequest, hs] <;>
    exact enterChecked_of_agree (agree_raising_iff.2 (by exact ha))

theorem takeRequest_of_raising (hs : s.cradle.state = .raising) :
    s.takeRequest d = turnTaken s d .pending true := by
  rw [State.takeRequest, hs]
  rfl

end Taken

/-! ### The obligation -/

/-- Settles O32: each test refuses in its turn, and an accepted request writes the turn record and begins the grant or
leaves it to wait. -/
theorem turnRequestIsTestedAndTaken : Obligations.TurnRequestIsTestedAndTaken := by
  intro s w hi hc hp run refused st
  have hx := exec_turnRequest hi w
  let t := s.taking .turner 1
  have answer {r : Reason} (ha : turnRequest w.toNat t = (.refused r, t)) : refused r := exec_of_answer hc hx ha
  refine ⟨fun hw => answer (by rw [turnRequest, directionOf_of_above hw]), ?_⟩
  intro d hw held atEnd free pass after
  rw [hw] at answer
  have heldTest : held ↔ ∃ h, t.active = some h ∧ t.heldAt h (t.vol h).opening = true :=
    exists_congr fun h => and_congr Iff.rfl heldAt_iff.symm
  have endTest : atEnd ↔ ∃ h, t.active = some h ∧ t.pastEnd h d = true :=
    exists_congr fun h => and_congr Iff.rfl pastEnd_iff.symm
  have passes (hh : ¬held) (he : ¬atEnd) : t.turnTests d = none :=
    turnTests_of_pass (fun h ha hb => hh (heldTest.2 ⟨h, ha, hb⟩)) fun h ha hb => he (endTest.2 ⟨h, ha, hb⟩)
  have effect {u : State} {ws : List Word} (hu : u.cradle.state.word = ws) (hpass : pass)
      (hm : ¬(st = .lowering ∨ st = .turnGranted)) (ht : t.takeRequest d = u) :
      run = .next { u.modLink .turner (·.answer (.accepted ws)) with skippedNow := [] } := by
    obtain ⟨hs, hf, hfl, hh, he⟩ := hpass
    have ok := turnRequest_of_ok (s := t) hp hs hf hfl (passes hh he) hm
    rw [ht, hu, ← hw] at ok
    exact exec_of_effect hc hx ok
  refine ⟨fun hs => answer (turnRequest_of_halted (s := t) hp hs),
    fun hs hf => answer (turnRequest_of_running (s := t) hp hs hf),
    fun hs hf hfl => answer (turnRequest_of_flying (s := t) hp hs hf hfl), fun hs hf hfl hh => ?held,
    fun hs hf hfl hh he => ?atEnd, fun ⟨hs, hf, hfl, hh, he⟩ hm => ?moving, fun hpass hs hu hd => ?opened,
    fun hpass hs ha => ?down, fun hpass hs => ?raising⟩
  case held =>
    obtain ⟨h, ha, hb⟩ := heldTest.1 hh
    exact answer (turnRequest_of_test (s := t) hp hs hf hfl (turnTests_of_held ha hb))
  case atEnd =>
    obtain ⟨h, ha, hb⟩ := endTest.1 he
    exact answer (turnRequest_of_test (s := t) hp hs hf hfl
      (turnTests_of_end ha (fun hb' => hh (heldTest.2 ⟨h, ha, hb'⟩)) hb))
  case moving => exact answer (turnRequest_of_moving (s := t) hp hs hf hfl (passes hh he) hm)
  case opened =>
    exact effect rfl hpass (by simp [hs]) (takeRequest_of_opened (s := t) d hs hu hd)
  case down =>
    exact effect rfl hpass (by rcases hs with hs | hs <;> simp [hs]) (takeRequest_of_down (s := t) d hs ha)
  case raising =>
    have ht := takeRequest_of_raising (s := t) d hs
    exact effect (by rw [← ht]; exact congrArg CradleState.word ((congrArg (·.cradle.state) ht).trans hs)) hpass (by simp [hs]) ht

end Sys2Proof.Proofs
end

section
/-! SUPPORT. An answer that waits on a link is no part of what the run controller does next (R157, R162, R188): the
cycle's next step, with the exposure it may start, comes to the same whether the answer is queued before it or
after. -/
namespace Sys2Proof.Proofs
open Sys2Proof.Machine Sys2Proof.Laws

section Answering
variable (link : MasterLink) (r : Reply)

theorem foldl_answering {α : Type} {f : State → α → State}
    (hf : ∀ s a, f (answering link r s) a = answering link r (f s a)) (xs : List α) (s : State) :
    xs.foldl f (answering link r s) = answering link r (xs.foldl f s) := by
  induction xs generalizing s with
  | nil => rfl
  | cons x xs ih => rw [List.foldl_cons, hf, ih, List.foldl_cons]

/-! ### The cradle -/

theorem trip_answering (s : State) : (answering link r s).trip = answering link r s.trip :=
  halt_answering link r s .interlockCheck

theorem enterChecked_answering (s : State) (st : CradleState) :
    (answering link r s).enterChecked st = answering link r (s.enterChecked st) := by
  unfold State.enterChecked
  dsimp only
  rw [apply_ite (answering link r), ← trip_answering]
  rfl

theorem lowerRequest_answering (s : State) : (answering link r s).lowerRequest = answering link r s.lowerRequest := by
  unfold State.lowerRequest
  rw [enterChecked_answering]
  exact (apply_ite (answering link r) _ _ _).symm

/-! ### What an exposure reads (R107, R108) -/

theorem viewSide_answering (s : State) (h : Handle) (k : Nat) (q : Head × Nat) :
    (answering link r s).viewSide h k q = ((s.viewSide h k q).1, answering link r (s.viewSide h k q).2) := by
  unfold State.viewSide
  dsimp only
  rw [readLeaf_answering]
  rfl

theorem viewSides_answering (s : State) (h : Handle) (k : Nat) (qs : List (Head × Nat)) :
    (answering link r s).viewSides h k qs = ((s.viewSides h k qs).1, answering link r (s.viewSides h k qs).2) := by
  induction qs generalizing s with
  | nil => rfl
  | cons q qs ih =>
    unfold State.viewSides
    rw [viewSide_answering]
    dsimp only
    rw [ih]

theorem readDoses_answering (s : State) (h : Handle) (vs : List SideView) :
    (answering link r s).readDoses h vs = ((s.readDoses h vs).1, answering link r (s.readDoses h vs).2) := by
  induction vs generalizing s with
  | nil => rfl
  | cons v vs ih =>
    unfold State.readDoses
    rw [readLeaf_answering]
    dsimp only
    rw [ih]
    rfl

/-! ### The capture start (R109) -/

theorem replaceHeld_answering (s : State) (h : Handle) (v : SideView) :
    (answering link r s).replaceHeld h v = answering link r (s.replaceHeld h v) :=
  foldl_answering link r (discardSlot_answering link r) _ s

theorem allocate_answering (s : State) (h : Handle) (v : SideView) :
    (answering link r s).allocate h v = ((s.allocate h v).1, answering link r (s.allocate h v).2) := by
  unfold State.allocate
  rw [show (answering link r s).freeSlot? = s.freeSlot? from rfl]
  cases s.freeSlot? with
  | none => rfl
  | some i => exact congrArg (fun p : Bool × State => (some i, p.2)) (updateFace_answering link r (s.setSlot i _) h _ _ _)

theorem allocateAll_answering (s : State) (h : Handle) (vs : List SideView) :
    (answering link r s).allocateAll h vs = ((s.allocateAll h vs).1, answering link r (s.allocateAll h vs).2) := by
  induction vs generalizing s with
  | nil => rfl
  | cons v vs ih =>
    unfold State.allocateAll
    rw [allocate_answering]
    dsimp only
    rw [ih]

theorem chargeSide_answering (s : State) (h : Handle) (d : Side) (planned : Nat) :
    (answering link r s).chargeSide h d planned = answering link r (s.chargeSide h d planned) := by
  unfold State.chargeSide
  rw [updateFace_answering]
  rcases s.updateFace h d [.dose d.face] _ with ⟨- | -, t⟩
  · rfl
  · exact modVol_answering link r t h _

theorem fireAndCharge_answering (s : State) (h : Handle) (vs : List SideView) :
    (answering link r s).fireAndCharge h vs = answering link r (s.fireAndCharge h vs) := by
  unfold State.fireAndCharge
  let latch (v : SideView) : LightLatch := s.light.settings.latch v.head
  let fired := s.fire .normal ⟨(viewAt vs .left).map latch, (viewAt vs .right).map latch⟩
    (some ((s.vol h).serial, ⟨(viewAt vs .left).map (·.side), (viewAt vs .right).map (·.side)⟩))
  have charged := foldl_answering link r (f := fun t v => t.chargeSide h v.side (latch v).planned)
    (fun t v => chargeSide_answering link r t h v.side _) vs fired
  exact (congrArg (State.chargeVolume · h _) charged).trans (modVol_answering link r _ h _)

theorem startExposure_answering (s : State) (h : Handle) (vs : List SideView) :
    (answering link r s).startExposure h vs =
      ((s.startExposure h vs).1, answering link r (s.startExposure h vs).2) := by
  unfold State.startExposure
  rw [foldl_answering link r fun t v => replaceHeld_answering link r t h v]
  dsimp only
  rw [allocateAll_answering]
  dsimp only
  rw [State.count, modVol_answering, fireAndCharge_answering]
  exact congrArg (Prod.mk _) (foldl_answering link r (fun _ _ => rfl) vs _)

/-! ### The exposure attempt (R107, R108) -/

theorem attemptRemaining_answering (s : State) (h : Handle) (vs : List SideView) :
    (answering link r s).attemptRemaining h vs =
      ((s.attemptRemaining h vs).1, answering link r (s.attemptRemaining h vs).2) := by
  unfold State.attemptRemaining
  rw [show (answering link r s).available h vs = s.available h vs from rfl, readDoses_answering]
  split
  · rfl
  · rcases s.readDoses h vs with ⟨⟨- | -, lit⟩, t⟩
    · rfl
    · dsimp only
      rw [show (answering link r t).vol h = t.vol h from rfl, startExposure_answering]
      split <;> rfl

theorem attemptSides_answering (s : State) (h : Handle) (qs : List (Head × Nat)) :
    (answering link r s).attemptSides h qs = ((s.attemptSides h qs).1, answering link r (s.attemptSides h qs).2) := by
  unfold State.attemptSides
  rw [show (answering link r s).vol h = s.vol h from rfl, viewSides_answering]
  dsimp only
  rw [attemptRemaining_answering]
  repeat' split
  all_goals rfl

theorem attemptExposure_answering (s : State) (qs : List (Head × Nat)) :
    (answering link r s).attemptExposure qs =
      ((s.attemptExposure qs).1, answering link r (s.attemptExposure qs).2) := by
  unfold State.attemptExposure
  rw [show (answering link r s).active = s.active from rfl]
  cases s.active with
  | none => rfl
  | some h =>
    dsimp only
    rw [readVolume_answering, trip_answering, attemptSides_answering]
    generalize s.readVolume h = t
    rw [show (answering link r t).inFlight = t.inFlight from rfl, show (answering link r t).vol h = t.vol h from rfl,
      show (answering link r t).cradle = t.cradle from rfl]
    repeat' split
    all_goals rfl

/-! ### The cycle (R157, R158) -/

theorem askTurn_answering (s : State) (d : Direction) :
    (answering link r s).askTurn d = answering link r (s.askTurn d) :=
  postTurner_answering link r (s.modRun fun x => { x with wanted := some d }) .turnWanted

theorem chooseSide_answering (s : State) (h : Handle) (k : Nat) (p : Head) :
    (answering link r s).chooseSide h k p = ((s.chooseSide h k p).1, answering link r (s.chooseSide h k p).2) := by
  unfold State.chooseSide
  dsimp only
  rw [readLeaf_answering]
  rcases s.readLeaf h (sideAt k p).leaf _ with ⟨- | -, t⟩ <;> rfl

theorem prepare_answering (s : State) : (answering link r s).prepare = answering link r s.prepare :=
  lowerRequest_answering link r (s.modRun fun x => { x with state := .preparing })

theorem runAttempt_answering (s : State) (qs : List (Head × Nat)) :
    (answering link r s).runAttempt qs = answering link r (s.runAttempt qs) := by
  unfold State.runAttempt
  rw [show (answering link r s).countRequest = answering link r s.countRequest from rfl, attemptExposure_answering]
  rcases s.countRequest.attemptExposure qs with ⟨reason | slots, t⟩
  · cases reason
    case slotsFull => rfl
    all_goals exact endRun_answering link r t _ _
  · rfl

theorem captureChosen_answering (s : State) (qs : List (Head × Nat)) :
    (answering link r s).captureChosen qs = answering link r (s.captureChosen qs) := by
  unfold State.captureChosen
  rw [endRun_answering, trip_answering, prepare_answering, runAttempt_answering]
  simp only [apply_ite (answering link r)]
  rfl

theorem passOn_answering (s : State) (h : Handle) (k : Nat) :
    (answering link r s).passOn h k = answering link r (s.passOn h k) := by
  unfold State.passOn
  dsimp only
  rw [endRun_answering, endRun_answering, endRun_answering]
  simp only [apply_ite (answering link r), ← askTurn_answering]
  rfl

theorem cycleStep_answering (s : State) : (answering link r s).cycleStep = answering link r s.cycleStep := by
  unfold State.cycleStep
  rw [show (answering link r s).active = s.active from rfl]
  cases s.active with
  | none => rfl
  | some h =>
    dsimp only
    rw [readVolume_answering]
    generalize s.readVolume h = t
    rw [show (answering link r t).vol h = t.vol h from rfl, chooseSide_answering]
    dsimp only
    rw [chooseSide_answering, endRun_answering, passOn_answering, captureChosen_answering]
    simp only [apply_ite (answering link r)]
    rfl

end Answering

end Sys2Proof.Proofs
end

section
/-! SUPPORT. The turn that CLEAR records (R70 to R72): the move of the pointer and missed marking. -/
namespace Sys2Proof.Proofs
open Sys2Proof.Machine Sys2Proof.Laws

/-! ### Missed marking of a side (R72) -/

section Answering
variable (link : MasterLink) (r : Reply)

theorem readRescan_answering (s : State) : (answering link r s).readRescan = answering link r s.readRescan := by
  unfold State.readRescan
  rw [apply_ite (answering link r)]
  cases link <;> rfl

theorem joinRescan_answering (s : State) (h : Handle) (d : Side) :
    (answering link r s).joinRescan h d = answering link r (s.joinRescan h d) := by
  unfold State.joinRescan
  rw [readVolume_answering]
  generalize s.readVolume h = t
  dsimp only
  rw [readRescan_answering]
  generalize t.readRescan = u
  rw [State.count, modVol_answering, apply_ite (answering link r), ← postStation_answering,
    apply_ite (answering link r)]
  rfl

theorem markMissed_answering (s : State) (h : Handle) (d : Side) :
    (answering link r s).markMissed h d = answering link r (s.markMissed h d) := by
  unfold State.markMissed
  rw [show (answering link r s).face h d = s.face h d from rfl, readLeaf_answering]
  rcases s.readLeaf h d.leaf _ with ⟨- | -, t⟩
  · exact skipUpdate_answering link r t h d.leaf
  · dsimp only
    rw [show (answering link r t).face h d = t.face h d from rfl, State.count,
      show (answering link r t).setFace h d { t.face h d with missed := true } =
        answering link r (t.setFace h d { t.face h d with missed := true }) from rfl, modVol_answering]
    unfold State.setRescan
    simp only [apply_ite (answering link r), ← joinRescan_answering]
    rfl

end Answering

theorem any_isSettled_iff {f : FaceRecord} :
    f.panels.any (fun e => e.settled.isSettled) = true ↔ ∃ e ∈ f.panels, e.settled ≠ .none := by
  simp only [List.any_eq_true]
  exact exists_congr fun e => and_congr_right fun _ => by cases e.settled <;> simp [Settled.isSettled]

/-- A volume's record with one more missed side. -/
def sideMissed (v : Volume) : Volume :=
  { v with counters := { v.counters with missedSides := v.counters.missedSides + 1 } }

/-- A state with a side newly MISSED, before it joins the rescan list. -/
def faceMissed (s : State) (h : Handle) (d : Side) : State :=
  { s.setFace h d { s.face h d with missed := true } with vols := s.vols.set h (sideMissed (s.vol h)) }

theorem vol_faceMissed (s : State) (h : Handle) (d : Side) : (faceMissed s h d).vol h = sideMissed (s.vol h) :=
  PerHandle_get_set_same _ _ _

theorem faceMissed_clean {s : State} (hc : s.TableClean) (h : Handle) (d : Side) : (faceMissed s h d).TableClean :=
  tableClean_setVol (s := s.setFace h d { s.face h d with missed := true }) (h := h) ⟨hc.zero, hc.one, hc.rescan⟩ rfl

/-- A state with a side newly MISSED and its rescan flag set. -/
def missMarked (s : State) (h : Handle) (d : Side) : State :=
  if (s.face h d).rescan then faceMissed s h d
  else
    let t := faceMissed s h d
    let u := t.setFace h d { t.face h d with rescan := true }
    (if u.rescan.length < 64 then { u with rescan := u.rescan ++ [d] }
     else { u with vols := u.vols.set h (overflowed (u.vol h) (· + 1)) }).postStation .rescanAdded

section Marked
variable {s : State} {h : Handle} {d : Side}

theorem markMissed_of_invalid (hv : (s.leaf h d.leaf).valid = false) : s.markMissed h d = s.skipUpdate h d.leaf := by
  rw [State.markMissed, readLeaf_of_invalid hv]

variable (hl : s.cleanLeaf h d.leaf)
include hl

theorem markMissed_of_settled (hf : (s.face h d).skip = true ∨ ∃ e ∈ (s.face h d).panels, e.settled ≠ .none) :
    s.markMissed h d = s := by
  rw [State.markMissed, readLeaf_of_clean hl.1 hl.2]
  exact if_pos (Bool.or_eq_true_iff.2 (hf.imp_right any_isSettled_iff.2))

theorem markMissed_of_open (hc : s.TableClean) (ha : (s.vol h).state = .active)
    (hf : ¬((s.face h d).skip = true ∨ ∃ e ∈ (s.face h d).panels, e.settled ≠ .none)) :
    s.markMissed h d = missMarked s h d := by
  have hc' := faceMissed_clean hc h d
  have hcount : (s.setFace h d { s.face h d with missed := true }).count h
      (fun c => { c with missedSides := c.missedSides + 1 }) = faceMissed s h d :=
    modVol_of_clean (s := s.setFace h d { s.face h d with missed := true }) (vol_clean hc h) _
  have hactive : ((faceMissed s h d).vol h).state = .active :=
    (congrArg Volume.state (vol_faceMissed s h d)).trans ha
  rw [State.markMissed, readLeaf_of_clean hl.1 hl.2]
  refine (if_neg (mt Bool.or_eq_true_iff.1 (mt (Or.imp_right any_isSettled_iff.1) hf))).trans ?_
  dsimp only
  rw [hcount, State.setRescan, joinRescan_of_active (by exact ⟨hc'.zero, hc'.one, hc'.rescan⟩) (by exact hactive)]
  rfl

end Marked

section MissMarked
variable {s : State} (c : s.Canonical) {h : Handle} {d : Side}
include c

theorem canonical_faceMissed : (faceMissed s h d).Canonical := by
  have c' := canonical_setFace c h d { s.face h d with missed := true }
  exact ⟨c'.memory, c'.leaves, c'.gain⟩

theorem face_faceMissed : (faceMissed s h d).face h d = { s.face h d with missed := true } :=
  face_setFace_same c h d { s.face h d with missed := true }

theorem missMarked_face : (missMarked s h d).face h d = { s.face h d with missed := true, rescan := true } := by
  by_cases hr : (s.face h d).rescan = true
  · rw [missMarked, if_pos hr, face_faceMissed c, ← hr]
  · have hface := face_setFace_same (canonical_faceMissed c (h := h) (d := d)) h d
      { (faceMissed s h d).face h d with rescan := true }
    have hface := hface.trans (congrArg (fun f : FaceRecord => { f with rescan := true }) (face_faceMissed c))
    rw [missMarked, if_neg hr]
    dsimp only
    split <;> exact hface

theorem faceAlone_missMarked : FaceAlone s (missMarked s h d) h d := by
  have first := faceAlone_setFace c h d { s.face h d with missed := true }
  by_cases hr : (s.face h d).rescan = true
  · rw [missMarked, if_pos hr]
    exact faceAlone_of_leaves first rfl
  · have second := faceAlone_setFace (canonical_faceMissed c (h := h) (d := d)) h d
      { (faceMissed s h d).face h d with rescan := true }
    have both := FaceAlone.trans (faceAlone_of_leaves (u := faceMissed s h d) first rfl) second
    rw [missMarked, if_neg hr]
    dsimp only
    split <;> exact faceAlone_of_leaves both rfl

end MissMarked

theorem missMarked_of_listed {s : State} {h : Handle} {d : Side} (hr : (s.face h d).rescan = true) :
    missMarked s h d = faceMissed s h d := if_pos hr

theorem missMarked_of_unlisted {s : State} {h : Handle} {d : Side} (hr : (s.face h d).rescan = false) :
    missMarked s h d =
      let t := faceMissed s h d
      let leaves := (t.setFace h d { t.face h d with rescan := true }).leaves
      (if s.rescan.length < 64 then { t with leaves := leaves, rescan := s.rescan ++ [d] }
       else { t with leaves := leaves, vols := s.vols.set h (overflowed (sideMissed (s.vol h)) (· + 1)) }).postStation
        .rescanAdded := by
  have hvols : (faceMissed s h d).vols.set h (overflowed ((faceMissed s h d).vol h) (· + 1)) =
      s.vols.set h (overflowed (sideMissed (s.vol h)) (· + 1)) := by
    rw [vol_faceMissed]
    exact PerHandle_set_set _ _ _ _
  rw [← hvols, missMarked, hr]
  rfl

/-! ### The move of the pointer (R70, R71) -/

theorem movedOpening_forward (n k c : Nat) :
    movedOpening n k c .forward = (min n (k + c), decide (n < k + c)) := by
  rw [movedOpening]
  split
  · next h => rw [Nat.min_eq_left (Nat.le_of_lt h), decide_eq_true h]
  · next h => rw [Nat.min_eq_right (Nat.le_of_not_lt h), decide_eq_false h]

theorem movedOpening_back (n k c : Nat) : movedOpening n k c .back = (k - c, decide (k < c)) := by
  rw [movedOpening]
  split
  · next h => rw [Nat.sub_eq_zero_of_le (Nat.le_of_lt h), decide_eq_true h]
  · next h => rw [decide_eq_false h]

theorem turned_eq (c : VolumeCounters) (n : Nat) : c.turned n =
    { c with
      turns := c.turns + 1
      misfires := c.misfires + if n = 0 then 1 else 0
      doublePicks := c.doublePicks + if n = 2 then 1 else 0 } := by
  rw [VolumeCounters.turned]
  split <;> split <;> simp

/-- Where the turn in the record takes the pointer of a volume, and whether the move is clamped. -/
def turnMove (s : State) (h : Handle) : Nat × Bool :=
  movedOpening (s.vol h).leaves (s.vol h).opening (s.turn.picked.getD 0) (s.turn.direction.getD .forward)

/-- A volume's record after the turn in the record (R70, R71). -/
def volTurned (s : State) (h : Handle) : Volume :=
  { s.vol h with
    opening := (turnMove s h).1
    uncertain := (s.vol h).uncertain || (turnMove s h).2
    counters := (s.vol h).counters.turned (s.turn.picked.getD 0) }

/-- The pointer moved and the turn counted, the station told of a change. -/
def pointerMoved (s : State) (h : Handle) : State :=
  let t := { s with vols := s.vols.set h (volTurned s h) }
  if (turnMove s h).1 = (s.vol h).opening then t else t.postStation .openingChanged

theorem recordTurn_of_clean {s : State} {h : Handle} (hv : (s.vol h).errors.single = 0) :
    s.recordTurn h = ((turnMove s h).2,
      if s.turn.direction.getD .forward = .forward ∧ s.turn.picked.getD 0 = 2 then
        ((pointerMoved s h).markMissed h ⟨(s.vol h).opening + 1, .verso⟩).markMissed h
          ⟨(s.vol h).opening + 2, .recto⟩
      else pointerMoved s h) := by
  unfold State.recordTurn
  dsimp only
  rw [modVol_of_clean hv]
  rfl

theorem vol_pointerMoved (s : State) (h : Handle) : (pointerMoved s h).vol h = volTurned s h := by
  unfold pointerMoved
  split <;> exact PerHandle_get_set_same _ _ _

theorem active_pointerMoved (s : State) (h : Handle) : (pointerMoved s h).active = s.active := by
  have hset : State.active { s with vols := s.vols.set h (volTurned s h) } = s.active := by
    refine active_congr fun h' => ?_
    rw [vol_setVols]
    split
    · next e => rw [e]; rfl
    · rfl
  unfold pointerMoved
  split <;> exact hset

theorem openingWords_of_active {s : State} {h : Handle} (ha : s.active = some h) :
    s.openingWords = [BitVec.ofNat 16 (s.vol h).opening, if (s.vol h).uncertain then 1 else 0] := by
  simp only [State.openingWords, ha, flagWord_bit]
  rfl

theorem openingWords_of_noVolume {s : State} (ha : s.active = none) : s.openingWords = [0, 0] := by
  simp only [State.openingWords, ha]

/-! ### CLEAR and ABORTED in a grant (R69, R73) -/

section Granted
variable {s : State} (hg : s.turn.phase = .granted) (hp : s.cradle.parityGood = true)
  (hu : s.cradle.upSwitch = true) (hd : s.cradle.downSwitch = false)
include hg hp hu hd

theorem clear_of_granted_noVolume (ha : s.active = none) :
    clear s = (.accepted [0, 0], (grantEnded s .cleared).turnEnded false) := by
  simp only [clear, hg, hp, endGrant_of_raised hu hd, grantEnded_active, ha, ne_eq, not_true_eq_false,
    Bool.true_eq_false, if_false]
  rw [openingWords_of_noVolume (by exact ha)]

theorem clear_of_granted {h : Handle} (ha : s.active = some h) :
    clear s =
      let p := (grantEnded s .cleared).recordTurn h
      (.accepted p.2.openingWords, p.2.turnEnded p.1) := by
  simp only [clear, hg, hp, endGrant_of_raised hu hd, grantEnded_active, ha, ne_eq, not_true_eq_false,
    Bool.true_eq_false, if_false]

theorem aborted_of_granted {h : Handle} (ha : s.active = some h) :
    aborted s = (.accepted [], ((grantEnded s .aborted).count h fun c =>
      { c with misfires := c.misfires + 1 }).turnEnded false) := by
  simp only [aborted, hg, hp, endGrant_of_raised hu hd, grantEnded_active, ha, ne_eq, not_true_eq_false,
    Bool.true_eq_false, if_false]

end Granted

/-! ### Missed marking leaves the pointer (R72) -/

/-- No volume moves its pointer, is doubted or cleared of doubt, or becomes or ceases to be ACTIVE; the run goes on. -/
structure PointerKept (s t : State) : Prop where
  run : t.run = s.run
  opening : ∀ h, (t.vol h).opening = (s.vol h).opening
  uncertain : ∀ h, (t.vol h).uncertain = (s.vol h).uncertain
  active : ∀ h, (t.vol h).state = .active ↔ (s.vol h).state = .active

theorem Discarding.pointerKept {s t : State} (a : Discarding s t) : PointerKept s t :=
  ⟨(congrArg (·.run) a.frame : (discardFrame t).run = (discardFrame s).run), a.opening, a.uncertain, a.active⟩

theorem PointerKept.trans {s t u : State} (a : PointerKept s t) (b : PointerKept t u) : PointerKept s u where
  run := b.run.trans a.run
  opening h := (b.opening h).trans (a.opening h)
  uncertain h := (b.uncertain h).trans (a.uncertain h)
  active h := (b.active h).trans (a.active h)

theorem pointerKept_of_vols {s t : State} (hr : t.run = s.run) (hv : t.vols = s.vols) : PointerKept s t := by
  refine ⟨hr, fun h => ?_, fun h => ?_, fun h => ?_⟩ <;> rw [State.vol, State.vol, hv]

theorem pointerKept_readRescan (s : State) : PointerKept s s.readRescan := by
  unfold State.readRescan
  split
  · exact pointerKept_of_vols rfl rfl
  · exact (pointerKept_of_vols (s := s) (t := { s with rescanErrors := s.rescanErrors.corrected }) rfl rfl).trans
      (discarding_recovered _ _ _).pointerKept

theorem pointerKept_joinRescan (s : State) (h : Handle) (d : Side) : PointerKept s (s.joinRescan h d) := by
  unfold State.joinRescan
  refine (discarding_readVolume s h).pointerKept.trans ?_
  dsimp only
  split
  · refine (pointerKept_readRescan _).trans ?_
    split
    · exact pointerKept_of_vols rfl rfl
    · exact (discarding_count _ _ _).pointerKept.trans (discarding_postStation _ _).pointerKept
  · exact pointerKept_of_vols rfl rfl

theorem pointerKept_markMissed (s : State) (h : Handle) (d : Side) : PointerKept s (s.markMissed h d) := by
  have read := discarding_readLeaf s h d.leaf ((s.face h d).panelWords d.face)
  unfold State.markMissed
  rcases he : s.readLeaf h d.leaf ((s.face h d).panelWords d.face) with ⟨- | -, t⟩
  · rw [he] at read
    exact (read.trans (discarding_skipUpdate t h d.leaf)).pointerKept
  · rw [he] at read
    refine read.pointerKept.trans ?_
    dsimp only
    split
    · exact pointerKept_of_vols rfl rfl
    · have counted := ((discarding_setLeaf t h d.leaf _).trans (discarding_count
        (t.setFace h d { t.face h d with missed := true }) h
        fun c => { c with missedSides := c.missedSides + 1 })).pointerKept
      split
      · exact counted
      · exact counted.trans ((discarding_setLeaf _ h d.leaf _).pointerKept.trans (pointerKept_joinRescan _ h d))

theorem PointerKept.openingWords {s t : State} (a : PointerKept s t) : t.openingWords = s.openingWords := by
  simp only [State.openingWords, active_congr a.active, a.opening, a.uncertain]

/-! ### A FORWARD turn of two leaves (R70, R72) -/

/-- The sides that a double pick hid, marked. -/
def hiddenMarked (s t : State) (h : Handle) : State :=
  (t.markMissed h ⟨(s.vol h).opening + 1, .verso⟩).markMissed h ⟨(s.vol h).opening + 2, .recto⟩

theorem pointerKept_hiddenMarked (s t : State) (h : Handle) : PointerKept t (hiddenMarked s t h) :=
  (pointerKept_markMissed t h _).trans (pointerKept_markMissed _ h _)

theorem run_pointerMoved (s : State) (h : Handle) : (pointerMoved s h).run = s.run := by
  unfold pointerMoved
  split <;> rfl

theorem openingWords_pointerMoved {s : State} {h : Handle} (ha : s.active = some h) :
    (pointerMoved s h).openingWords =
      [BitVec.ofNat 16 (turnMove s h).1, if (s.vol h).uncertain || (turnMove s h).2 then 1 else 0] := by
  rw [openingWords_of_active ((active_pointerMoved s h).trans ha), vol_pointerMoved]
  rfl

section DoublePick
variable {s : State} (hg : s.turn.phase = .granted) (hp : s.cradle.parityGood = true)
  (hu : s.cradle.upSwitch = true) (hd : s.cradle.downSwitch = false)
  (hr : s.run.state = .idle ∨ s.run.wanted = none) {h : Handle} (ha : s.active = some h)
  (hv : (s.vol h).errors.single = 0)
include hg hp hu hd hr ha hv

theorem clear_of_doublePick (hdir : s.turn.direction = some .forward) (hn : s.turn.picked = some 2) :
    clear s =
      let t := grantEnded s .cleared
      (.accepted [BitVec.ofNat 16 (turnMove s h).1, if (s.vol h).uncertain || (turnMove s h).2 then 1 else 0],
       hiddenMarked s (pointerMoved t h) h) := by
  have record : (grantEnded s .cleared).recordTurn h = _ := recordTurn_of_clean (by exact hv)
  rw [if_pos ⟨congrArg (·.getD .forward) hdir, congrArg (·.getD 0) hn⟩] at record
  have kept := pointerKept_hiddenMarked s (pointerMoved (grantEnded s .cleared) h) h
  have words := kept.openingWords.trans (openingWords_pointerMoved (by exact ha))
  have hrun := kept.run.trans (run_pointerMoved (grantEnded s .cleared) h)
  have same := turnEnded_of_unwanted (s := hiddenMarked s (pointerMoved (grantEnded s .cleared) h) h)
    (by rw [hrun]; exact hr) (turnMove (grantEnded s .cleared) h).2
  rw [clear_of_granted hg hp hu hd ha, record]
  exact Prod.ext (congrArg Reply.accepted words) same

end DoublePick

/-! ### The obligation -/

theorem pointerMoved_answering (link : MasterLink) (r : Reply) (s : State) (h : Handle) :
    pointerMoved (answering link r s) h = answering link r (pointerMoved s h) := by
  unfold pointerMoved
  rw [apply_ite (answering link r), ← postStation_answering]
  rfl

/-- A turn that picked two leaves FORWARD, recorded whole. -/
def doublePickRecorded (s : State) (h : Handle) : State :=
  hiddenMarked s (pointerMoved (grantEnded s .cleared) h) h

theorem doublePickRecorded_answering (link : MasterLink) (r : Reply) (s : State) (h : Handle) :
    doublePickRecorded (answering link r s) h = answering link r (doublePickRecorded s h) := by
  unfold doublePickRecorded
  rw [show grantEnded (answering link r s) .cleared = answering link r (grantEnded s .cleared) from rfl,
    pointerMoved_answering]
  unfold hiddenMarked
  rw [markMissed_answering, markMissed_answering]
  rfl

theorem turnMove_of_doublePick {s : State} (hdir : s.turn.direction = some .forward) (hn : s.turn.picked = some 2)
    (h : Handle) : turnMove s h = (min (s.vol h).leaves ((s.vol h).opening + 2),
      decide ((s.vol h).leaves < (s.vol h).opening + 2)) := by
  rw [turnMove, hdir, hn]
  exact movedOpening_forward _ _ _

/-- A pointer that can move is moved. -/
theorem pointerMoved_of_moved {s : State} {h : Handle} (hm : (turnMove s h).1 ≠ (s.vol h).opening) :
    pointerMoved s h = State.postStation { s with vols := s.vols.set h (volTurned s h) } .openingChanged := if_neg hm

/-- Settles O35: a marking by the marks and the settled panels of its side, and the two of a double pick after the
pointer's move. -/
theorem missedMarking : Obligations.MissedMarking := by
  refine ⟨?marks, ?doublePick⟩
  case marks =>
    intro s h d c hc ha hl f settled t
    refine ⟨fun hv => markMissed_of_invalid hv, fun hv hf => markMissed_of_settled ⟨hv, hl hv⟩ hf,
      fun hv hskip hsettled => ?_⟩
    have hf : ¬((s.face h d).skip = true ∨ ∃ e ∈ (s.face h d).panels, e.settled ≠ .none) :=
      not_or.2 ⟨by rw [show (s.face h d).skip = false from hskip]; exact Bool.false_ne_true, hsettled⟩
    have ht : t = missMarked s h d := markMissed_of_open ⟨hv, hl hv⟩ hc (state_of_active ha) hf
    refine ⟨ht ▸ missMarked_face c, fun _ => ht ▸ faceAlone_missMarked c, ?_⟩
    cases hr : f.rescan with
    | true =>
      have ht := ht.trans (missMarked_of_listed hr)
      have hv : (t.vol h).counters.rescanOverflow = (s.vol h).counters.rescanOverflow := by
        rw [ht, vol_faceMissed]
        rfl
      exact ⟨by rw [hv, ht]; rfl, fun _ => ⟨by rw [ht]; rfl, by rw [ht]; rfl, hv⟩, nofun, by rw [ht]; rfl⟩
    | false =>
      have ht := ht.trans (missMarked_of_unlisted hr)
      by_cases hroom : s.rescan.length < 64
      · dsimp only at ht
        rw [if_pos hroom] at ht
        have hv : (t.vol h).counters.rescanOverflow = (s.vol h).counters.rescanOverflow := by
          rw [ht]
          exact congrArg (·.counters.rescanOverflow) (vol_faceMissed s h d)
        exact ⟨by rw [hv, ht]; rfl, nofun, fun _ => ⟨by rw [ht]; rfl, fun _ => ⟨by rw [ht]; rfl, hv⟩,
          fun hfull => absurd hroom (Nat.not_lt_of_le hfull)⟩, by rw [ht]; rfl⟩
      · dsimp only at ht
        rw [if_neg hroom] at ht
        have hv : (t.vol h).counters.rescanOverflow = (s.vol h).counters.rescanOverflow + 1 := by
          rw [ht]
          exact congrArg (·.counters.rescanOverflow) (PerHandle_get_set_same s.vols h _)
        exact ⟨by rw [hv, ht]; rfl, nofun, fun _ => ⟨by rw [ht]; rfl, fun h => (hroom h).elim,
          fun _ => ⟨by rw [ht]; rfl, hv⟩⟩, by rw [ht]; rfl⟩
  case doublePick =>
    intro s h hi hc hp hg hdir hn hu hd hr ha hk hskip v k u moved
    have ha' : Cmd.act .clear .turner [] (s.taking .turner 0) = (.accepted _, doublePickRecorded (s.taking .turner 0) h) :=
      (act_clear hc).trans (clear_of_doublePick (s := s.taking .turner 0) hg hp hu hd hr ha (vol_clean hc h) hdir hn)
    have hx := exec_of_act (g := (doublePickRecorded · h)) hskip (fun x => doublePickRecorded_answering _ _ x h)
      (exec_clear hi) ha'
    have hmove := turnMove_of_doublePick (s := s.taking .turner 0) hdir hn h
    rw [hmove] at hx
    refine hx.trans ?_
    let x := grantEnded (s.answered .turner 0 (.accepted [BitVec.ofNat 16 k, if u then 1 else 0])) .cleared
    have hmove' : turnMove x h = (k, decide (v.leaves < v.opening + 2)) := turnMove_of_doublePick (by exact hdir) (by exact hn) h
    have moves : min (s.vol h).leaves ((s.vol h).opening + 2) ≠ (s.vol h).opening := by omega
    have hmoved : pointerMoved x h = moved := by
      rw [pointerMoved_of_moved (by rw [hmove']; exact moves), volTurned, hmove']
      rw [show x.turn.picked = some 2 from hn]
      rfl
    exact congrArg (fun m => Host.Outcome.next { hiddenMarked s m h with skippedNow := [] }) hmoved

end Sys2Proof.Proofs
end

section
/-! SUPPORT. What the run controller does at the end of a turn that it asked for (R161, R162). -/
namespace Sys2Proof.Proofs
open Sys2Proof.Machine Sys2Proof.Laws

/-! ### CLEAR of a turn that marks no sides (R69 to R71) -/

theorem turnMove_eq {s : State} {d : Direction} {n : Nat} (hd : s.turn.direction = some d)
    (hn : s.turn.picked.getD 0 = n) (h : Handle) : turnMove s h = movedOpening (s.vol h).leaves (s.vol h).opening n d := by
  rw [turnMove, hd, hn]
  rfl

section SinglePick
variable {s : State} (hg : s.turn.phase = .granted) (hp : s.cradle.parityGood = true)
  (hu : s.cradle.upSwitch = true) (hd : s.cradle.downSwitch = false)
  (hr : s.run.state = .idle ∨ s.run.wanted = none) {h : Handle} (ha : s.active = some h)
  (hv : (s.vol h).errors.single = 0)
include hg hp hu hd hr ha hv

theorem clear_of_singlePick (hn : ¬(s.turn.direction.getD .forward = .forward ∧ s.turn.picked.getD 0 = 2)) :
    clear s =
      (.accepted [BitVec.ofNat 16 (turnMove s h).1, if (s.vol h).uncertain || (turnMove s h).2 then 1 else 0],
       pointerMoved (grantEnded s .cleared) h) := by
  have record : (grantEnded s .cleared).recordTurn h = _ := recordTurn_of_clean (by exact hv)
  rw [if_neg (by exact hn)] at record
  have words := openingWords_pointerMoved (s := grantEnded s .cleared) (by exact ha)
  have same := turnEnded_of_unwanted (s := pointerMoved (grantEnded s .cleared) h)
    (by rw [run_pointerMoved]; exact hr) (turnMove (grantEnded s .cleared) h).2
  rw [clear_of_granted hg hp hu hd ha, record]
  exact Prod.ext (congrArg Reply.accepted words) same

end SinglePick

/-! ### A turn that no run has asked for, beside one that it has -/

/-- A state whose run waits for no turn. -/
def unwanting (s : State) : State := s.modRun fun r => { r with wanted := none }

section Clean
variable {s : State} {h : Handle} {d : Side} {n : Nat}

theorem cleanLeaf_setFace (c : s.Canonical) (hl : s.cleanLeaf h n) (x : FaceRecord) :
    (s.setFace h d x).cleanLeaf h n := by
  unfold State.cleanLeaf
  rw [State.setFace, State.leaf, State.setLeaf, get_set _ _ _ c.leaves]
  split
  · next hk =>
    have hn : d.leaf = n := Nat.add_left_cancel hk
    rw [hn]
    cases d.face <;> exact hl
  · exact hl

end Clean

section MissMarked
variable {s : State} (c : s.Canonical) (hc : s.TableClean) (h : Handle) (d : Side)

/-- A side newly MISSED that takes its rescan flag. -/
def faceListed (s : State) (h : Handle) (d : Side) : State :=
  (faceMissed s h d).setFace h d { (faceMissed s h d).face h d with rescan := true }

theorem missMarked_of_room {s : State} {h : Handle} {d : Side} (hr : (s.face h d).rescan = false)
    (hroom : s.rescan.length < 64) :
    missMarked s h d = State.postStation { faceListed s h d with rescan := s.rescan ++ [d] } .rescanAdded := by
  rw [missMarked, hr]
  exact congrArg (State.postStation · .rescanAdded) (if_pos hroom)

theorem missMarked_of_full {s : State} {h : Handle} {d : Side} (hr : (s.face h d).rescan = false)
    (hfull : ¬s.rescan.length < 64) :
    missMarked s h d = State.postStation { faceListed s h d with
      vols := (faceListed s h d).vols.set h (overflowed ((faceListed s h d).vol h) (· + 1)) } .rescanAdded := by
  rw [missMarked, hr]
  exact congrArg (State.postStation · .rescanAdded) (if_neg hfull)

theorem missMarked_cases (s : State) (h : Handle) (d : Side) :
    missMarked s h d = faceMissed s h d ∨
    missMarked s h d = State.postStation { faceListed s h d with rescan := s.rescan ++ [d] } .rescanAdded ∨
    missMarked s h d = State.postStation { faceListed s h d with
      vols := (faceListed s h d).vols.set h (overflowed ((faceListed s h d).vol h) (· + 1)) } .rescanAdded := by
  cases hr : (s.face h d).rescan with
  | true => exact .inl (missMarked_of_listed hr)
  | false =>
    by_cases hroom : s.rescan.length < 64
    · exact .inr (.inl (missMarked_of_room hr hroom))
    · exact .inr (.inr (missMarked_of_full hr hroom))

include c in
theorem canonical_missMarked : (missMarked s h d).Canonical := by
  have one := canonical_faceMissed c (h := h) (d := d)
  have two : (faceListed s h d).Canonical := canonical_setFace one h d _
  rcases missMarked_cases s h d with e | e | e <;> rw [e]
  · exact one
  · exact ⟨two.memory, two.leaves, two.gain⟩
  · exact ⟨two.memory, two.leaves, two.gain⟩

include hc in
theorem tableClean_missMarked : (missMarked s h d).TableClean := by
  have one := faceMissed_clean hc h d
  have two : (faceListed s h d).TableClean := ⟨one.zero, one.one, one.rescan⟩
  have three := tableClean_setVol two (h := h) (v := overflowed ((faceListed s h d).vol h) (· + 1)) rfl
  rcases missMarked_cases s h d with e | e | e <;> rw [e]
  · exact one
  · exact ⟨two.zero, two.one, two.rescan⟩
  · exact ⟨three.zero, three.one, three.rescan⟩

theorem state_missMarked : ((missMarked s h d).vol h).state = (s.vol h).state := by
  have one : ((faceMissed s h d).vol h).state = (s.vol h).state := by
    rw [vol_faceMissed]
    rfl
  rcases missMarked_cases s h d with e | e | e <;> rw [e]
  · exact one
  · exact one
  · exact (congrArg Volume.state (PerHandle_get_set_same _ _ _)).trans one

include c in
theorem cleanLeaf_missMarked {n : Nat} (hl : s.cleanLeaf h n) : (missMarked s h d).cleanLeaf h n := by
  have one : (faceMissed s h d).cleanLeaf h n := cleanLeaf_setFace (d := d) c hl { s.face h d with missed := true }
  have two : (faceListed s h d).cleanLeaf h n := cleanLeaf_setFace (canonical_faceMissed c) one _
  rcases missMarked_cases s h d with e | e | e <;> rw [e]
  · exact one
  · exact two
  · exact two

theorem skippedNow_missMarked : (missMarked s h d).skippedNow = s.skippedNow := by
  rcases missMarked_cases s h d with e | e | e <;> rw [e] <;> rfl

theorem missMarked_unwanting : missMarked (unwanting s) h d = unwanting (missMarked s h d) := by
  cases hr : (s.face h d).rescan with
  | true =>
    rw [missMarked_of_listed hr, missMarked_of_listed (s := unwanting s) hr]
    rfl
  | false =>
    by_cases hroom : s.rescan.length < 64
    · rw [missMarked_of_room hr hroom, missMarked_of_room (s := unwanting s) hr hroom]
      rfl
    · rw [missMarked_of_full hr hroom, missMarked_of_full (s := unwanting s) hr hroom]
      rfl

end MissMarked

/-- What a marking of a side keeps, where the records it reads have no bit error. -/
structure MarkedClean (s t : State) (h : Handle) : Prop where
  canonical : t.Canonical
  tableClean : t.TableClean
  state : (t.vol h).state = (s.vol h).state
  leaf : ∀ n, s.cleanLeaf h n → t.cleanLeaf h n
  skipped : t.skippedNow = s.skippedNow

theorem markedClean_markMissed {s : State} {h : Handle} {d : Side} (c : s.Canonical) (hc : s.TableClean)
    (ha : (s.vol h).state = .active) (hl : s.cleanLeaf h d.leaf) : MarkedClean s (s.markMissed h d) h := by
  by_cases hf : (s.face h d).skip = true ∨ ∃ e ∈ (s.face h d).panels, e.settled ≠ .none
  · rw [markMissed_of_settled hl hf]
    exact ⟨c, hc, rfl, fun _ => id, rfl⟩
  · rw [markMissed_of_open hl hc ha hf]
    exact ⟨canonical_missMarked c h d, tableClean_missMarked hc h d, state_missMarked h d,
      fun _ => cleanLeaf_missMarked c h d, skippedNow_missMarked h d⟩

theorem markMissed_unwanting {s : State} {h : Handle} {d : Side} (hc : s.TableClean)
    (ha : (s.vol h).state = .active) (hl : s.cleanLeaf h d.leaf) :
    (unwanting s).markMissed h d = unwanting (s.markMissed h d) := by
  have hc' : (unwanting s).TableClean := ⟨hc.zero, hc.one, hc.rescan⟩
  by_cases hf : (s.face h d).skip = true ∨ ∃ e ∈ (s.face h d).panels, e.settled ≠ .none
  · rw [markMissed_of_settled hl hf, markMissed_of_settled (s := unwanting s) hl hf]
  · rw [markMissed_of_open hl hc ha hf, markMissed_of_open (s := unwanting s) hl hc' ha hf, missMarked_unwanting]

/-! ### The turn recorded, its run left aside -/

/-- What CLEAR records for the ACTIVE volume, before the run controller is told. -/
def clearRecorded (s : State) (h : Handle) : State := ((grantEnded s .cleared).recordTurn h).2

/-- What ABORTED records for the ACTIVE volume, before the run controller is told. -/
def abortRecorded (s : State) (h : Handle) : State :=
  (grantEnded s .aborted).count h fun c => { c with misfires := c.misfires + 1 }

/-- The condition under which a turn marks the sides it hid (R72). -/
abbrev hides (s : State) : Prop := s.turn.direction.getD .forward = .forward ∧ s.turn.picked.getD 0 = 2

theorem clearRecorded_of_hides {s : State} {h : Handle} (hv : (s.vol h).errors.single = 0) (hh : hides s) :
    clearRecorded s h = hiddenMarked s (pointerMoved (grantEnded s .cleared) h) h := by
  have record : (grantEnded s .cleared).recordTurn h = _ := recordTurn_of_clean (by exact hv)
  rw [if_pos (by exact hh)] at record
  rw [clearRecorded, record]
  rfl

theorem clearRecorded_of_shows {s : State} {h : Handle} (hv : (s.vol h).errors.single = 0) (hh : ¬hides s) :
    clearRecorded s h = pointerMoved (grantEnded s .cleared) h := by
  have record : (grantEnded s .cleared).recordTurn h = _ := recordTurn_of_clean (by exact hv)
  rw [if_neg (by exact hh)] at record
  rw [clearRecorded, record]

theorem pointerMoved_of_still {s : State} {h : Handle} (hm : (turnMove s h).1 = (s.vol h).opening) :
    pointerMoved s h = { s with vols := s.vols.set h (volTurned s h) } := if_pos hm

theorem pointerMoved_unwanting (s : State) (h : Handle) :
    pointerMoved (grantEnded (unwanting s) .cleared) h = unwanting (pointerMoved (grantEnded s .cleared) h) := by
  by_cases hm : (turnMove s h).1 = (s.vol h).opening
  · rw [pointerMoved_of_still (by exact hm), pointerMoved_of_still (s := grantEnded s .cleared) hm]
    rfl
  · rw [pointerMoved_of_moved (by exact hm), pointerMoved_of_moved (s := grantEnded s .cleared) hm]
    rfl

theorem state_pointerMoved (s : State) (h : Handle) : ((pointerMoved s h).vol h).state = (s.vol h).state := by
  rw [vol_pointerMoved]
  rfl

theorem fields_pointerMoved (s : State) (h : Handle) :
    (pointerMoved s h).leaves = s.leaves ∧ (pointerMoved s h).memory = s.memory ∧ (pointerMoved s h).gain = s.gain ∧
    (pointerMoved s h).skippedNow = s.skippedNow ∧ (pointerMoved s h).vols = s.vols.set h (volTurned s h) ∧
    (pointerMoved s h).rescanErrors = s.rescanErrors := by
  unfold pointerMoved
  split <;> exact ⟨rfl, rfl, rfl, rfl, rfl, rfl⟩

/-- What is recorded of a turn, beside what is recorded of the same turn that no run has asked for. -/
structure Recorded (s x x₀ : State) (h : Handle) : Prop where
  run : x.run = s.run
  active : x.active = s.active
  skipped : x.skippedNow = s.skippedNow
  unwanting : x₀ = unwanting x

section Recorded
variable {s : State} {h : Handle} (hc : s.TableClean)

include hc in
theorem recorded_abort : Recorded s (abortRecorded s h) (abortRecorded (unwanting s) h) h := by
  have counted := count_of_clean (s := grantEnded s .aborted) (vol_clean hc h)
    fun c => { c with misfires := c.misfires + 1 }
  have counted₀ := count_of_clean (s := grantEnded (unwanting s) .aborted) (vol_clean hc h)
    fun c => { c with misfires := c.misfires + 1 }
  have kept := (discarding_count (grantEnded s .aborted) h fun c => { c with misfires := c.misfires + 1 }).active
  have hactive := active_congr kept
  unfold abortRecorded
  rw [counted] at hactive
  rw [counted, counted₀]
  exact ⟨rfl, hactive, rfl, rfl⟩

theorem recorded_pointerMoved (s : State) (h : Handle) :
    Recorded s (pointerMoved (grantEnded s .cleared) h) (pointerMoved (grantEnded (unwanting s) .cleared) h) h where
  run := run_pointerMoved _ h
  active := active_pointerMoved (grantEnded s .cleared) h
  skipped := (fields_pointerMoved (grantEnded s .cleared) h).2.2.2.1
  unwanting := pointerMoved_unwanting s h

include hc in
theorem recorded_hidden (c : s.Canonical) (ha : s.active = some h)
    (hv : s.cleanLeaf h ((s.vol h).opening + 1)) (hr : s.cleanLeaf h ((s.vol h).opening + 2)) :
    Recorded s (hiddenMarked s (pointerMoved (grantEnded s .cleared) h) h)
      (hiddenMarked s (pointerMoved (grantEnded (unwanting s) .cleared) h) h) h := by
  obtain ⟨hleaves, hmemory, hgain, -, hvols, herrors⟩ := fields_pointerMoved (grantEnded s .cleared) h
  have hclean := tableClean_setVol (s := grantEnded s .cleared) (h := h) (v := volTurned (grantEnded s .cleared) h)
    ⟨hc.zero, hc.one, hc.rescan⟩ rfl
  have hstate := (state_pointerMoved (grantEnded s .cleared) h).trans (state_of_active ha)
  have moved := recorded_pointerMoved s h
  generalize pointerMoved (grantEnded s .cleared) h = x at *
  have cx : x.Canonical := ⟨hmemory ▸ c.memory, hleaves ▸ c.leaves, hgain ▸ c.gain⟩
  have hcx : x.TableClean := ⟨hvols ▸ hclean.zero, hvols ▸ hclean.one, herrors ▸ hc.rescan⟩
  have leaf (n : Nat) (hl : s.cleanLeaf h n) : x.cleanLeaf h n := by
    unfold State.cleanLeaf State.leaf
    rw [hleaves]
    exact hl
  have first := markedClean_markMissed (d := ⟨(s.vol h).opening + 1, .verso⟩) cx hcx hstate (leaf _ hv)
  have hstate₁ := first.state.trans hstate
  have second := markedClean_markMissed (d := ⟨(s.vol h).opening + 2, .recto⟩) first.canonical first.tableClean
    hstate₁ (first.leaf _ (leaf _ hr))
  have kept := pointerKept_hiddenMarked s x h
  refine ⟨kept.run.trans moved.run, (active_congr kept.active).trans moved.active,
    (second.skipped.trans first.skipped).trans moved.skipped, ?_⟩
  rw [moved.unwanting, hiddenMarked, markMissed_unwanting hcx hstate (leaf _ hv),
    markMissed_unwanting first.tableClean hstate₁ (first.leaf _ (leaf _ hr))]
  rfl

include hc in
theorem recorded_clear (c : s.Canonical) (ha : s.active = some h)
    (hl : hides s → s.cleanLeaf h ((s.vol h).opening + 1) ∧ s.cleanLeaf h ((s.vol h).opening + 2)) :
    Recorded s (clearRecorded s h) (clearRecorded (unwanting s) h) h := by
  have hv := vol_clean hc h
  by_cases hh : hides s
  · rw [clearRecorded_of_hides hv hh, clearRecorded_of_hides (s := unwanting s) hv hh]
    exact recorded_hidden hc c ha (hl hh).1 (hl hh).2
  · rw [clearRecorded_of_shows hv hh, clearRecorded_of_shows (s := unwanting s) hv hh]
    exact recorded_pointerMoved s h

end Recorded

/-! ### What the run controller does (R161, R162) -/

section TurnEnded
variable {x : State} (hr : x.run.state ≠ .idle) (hw : x.run.wanted.isSome = true)
include hr hw

theorem turnEnded_of_wanted (doubted : Bool) :
    x.turnEnded doubted =
      if doubted then (unwanting x).endRun .uncertain .none
      else if x.run.kind = some .seek then
        ((unwanting x).modRun fun r => { r with turnsTaken := r.turnsTaken + 1 }).seekOn
      else ((unwanting x).modRun fun r => { r with cycles := r.cycles + 1, remaining := r.remaining - 1 }).runOn := by
  rw [State.turnEnded, runActive_of_busy hr, hw]
  refine (if_pos rfl).trans ?_
  dsimp only
  split
  · rfl
  · rw [show (x.modRun fun r => { r with wanted := none }).run.kind = x.run.kind from rfl]
    rcases x.run.kind with - | - | - <;> rfl

end TurnEnded

theorem runOn_answering (link : MasterLink) (r : Reply) (s : State) :
    (answering link r s).runOn = answering link r s.runOn := by
  unfold State.runOn
  rw [endRun_answering, endRun_answering, cycleStep_answering]
  simp only [apply_ite (answering link r)]
  rfl

theorem seekOn_answering (link : MasterLink) (r : Reply) (s : State) :
    (answering link r s).seekOn = answering link r s.seekOn := by
  unfold State.seekOn
  rw [show (answering link r s).run = s.run from rfl, show (answering link r s).openingNow = s.openingNow from rfl]
  cases s.run.target with
  | none => rfl
  | some t =>
    dsimp only
    rw [endRun_answering, endRun_answering, endRun_answering, askTurn_answering]
    simp only [apply_ite (answering link r)]

end Sys2Proof.Proofs
end

section
/-! SUPPORT. CLEAR and ABORTED of a turn, with and without a run that has asked for it (R69 to R73, R161, R162). -/
namespace Sys2Proof.Proofs
open Sys2Proof.Machine Sys2Proof.Laws

/-! ### CLEAR without a run's turn -/

section Clear
variable {s : State} (hi : s.initRunning = false) (hc : s.TableClean) (hp : s.cradle.parityGood = true)
  (hg : s.turn.phase = .granted) (hu : s.cradle.upSwitch = true) (hd : s.cradle.downSwitch = false)
  (hr : s.run.state = .idle ∨ s.run.wanted = none)
include hi hc hp hg hu hd hr

theorem exec_clear_of_noVolume (ha : s.active = none) :
    exec .clear s = .next (grantEnded (s.answered .turner 0 (.accepted [0, 0])) .cleared) := by
  have same := turnEnded_of_unwanted (s := grantEnded (s.taking .turner 0) .cleared) hr false
  have act : clear (s.taking .turner 0) = _ := clear_of_granted_noVolume (s := s.taking .turner 0) hg hp hu hd ha
  exact exec_of_effect hc (exec_clear hi) (act.trans (congrArg (Prod.mk _) same))

theorem exec_clear_of_shows {h : Handle} (ha : s.active = some h) (hs : ¬hides s) :
    exec .clear s = .next (pointerMoved (grantEnded (s.answered .turner 0 (.accepted
      [BitVec.ofNat 16 (turnMove s h).1, if (s.vol h).uncertain || (turnMove s h).2 then 1 else 0])) .cleared) h) := by
  have act : clear (s.taking .turner 0) = _ :=
    clear_of_singlePick (s := s.taking .turner 0) hg hp hu hd hr ha (vol_clean hc h) hs
  refine (exec_of_effect hc (exec_clear hi) act).trans (congrArg _ ?_)
  by_cases hm : (turnMove s h).1 = (s.vol h).opening
  · rw [pointerMoved_of_still (by exact hm), pointerMoved_of_still (by exact hm)]
    rfl
  · rw [pointerMoved_of_moved (by exact hm), pointerMoved_of_moved (by exact hm)]
    rfl

end Clear

/-! ### The turn a run has asked for -/

/-- What a run does at the end of its turn, by the move and its kind (R162). -/
def runAfterTurn (t : State) (doubted : Bool) : State :=
  if doubted then t.endRun .uncertain .none
  else if t.run.kind = some .seek then (t.modRun fun r => { r with turnsTaken := r.turnsTaken + 1 }).seekOn
  else (t.modRun fun r => { r with cycles := r.cycles + 1, remaining := r.remaining - 1 }).runOn

theorem runAfterTurn_answering (link : MasterLink) (r : Reply) (t : State) (doubted : Bool) :
    runAfterTurn (answering link r t) doubted = answering link r (runAfterTurn t doubted) := by
  have hseek := seekOn_answering link r (t.modRun fun r => { r with turnsTaken := r.turnsTaken + 1 })
  have hrun := runOn_answering link r
    (t.modRun fun r => { r with cycles := r.cycles + 1, remaining := r.remaining - 1 })
  unfold runAfterTurn
  rw [endRun_answering, apply_ite (answering link r), apply_ite (answering link r), ← hseek, ← hrun]
  rfl

/-- A report that ends a turn, beside the same report of a turn no run has asked for. -/
theorem exec_of_recorded {s x x₀ u : State} {i : Instr} {c : Cmd} {r : Reply} {h : Handle} {doubted : Bool}
    (hk : s.skippedNow = []) (hrun : s.run.state ≠ .idle) (hw : s.run.wanted.isSome = true)
    (both : Recorded (s.taking .turner 0) x x₀ h)
    (hx : exec i s = done (handed s .turner c [])) (hx₀ : exec i (unwanting s) = done (handed (unwanting s) .turner c []))
    (ha : c.act .turner [] (s.taking .turner 0) = (r, x.turnEnded doubted))
    (ha₀ : c.act .turner [] ((unwanting s).taking .turner 0) = (r, x₀)) (hu : exec i (unwanting s) = .next u) :
    u.run = { s.run with wanted := none } ∧ u.active = s.active ∧
    exec i s = .next { runAfterTurn u doubted with skippedNow := [] } := by
  have hx : exec i s = .next { answering .turner r (x.turnEnded doubted) with skippedNow := [] } :=
    hx.trans (handed_next ha)
  have hx₀ : exec i (unwanting s) = .next { answering .turner r x₀ with skippedNow := [] } := hx₀.trans (handed_next ha₀)
  have hskip : x.skippedNow = [] := both.skipped.trans hk
  have hself : { answering .turner r (unwanting x) with skippedNow := [] } = answering .turner r (unwanting x) := by
    rw [← hskip]
    rfl
  have hu : u = answering .turner r (unwanting x) := by
    rw [hu, both.unwanting, hself] at hx₀
    exact Host.Outcome.next.inj hx₀
  have hrun' : x.run.state ≠ .idle := by rw [both.run]; exact hrun
  have hw' : x.run.wanted.isSome = true := by rw [both.run]; exact hw
  have hxrun : (unwanting x).run = { s.run with wanted := none } :=
    congrArg (fun r : RunRecord => { r with wanted := none }) both.run
  refine ⟨hu ▸ hxrun, hu ▸ both.active, ?_⟩
  rw [hx, hu, runAfterTurn_answering, turnEnded_of_wanted hrun' hw']
  rfl

theorem runAfterTurn_of_run {s u : State} (hu : u.run = { s.run with wanted := none }) (hk : s.run.kind = some .run) :
    runAfterTurn u false =
      let t : State := { u with run := { u.run with cycles := s.run.cycles + 1, remaining := s.run.remaining - 1 } }
      if s.run.stopRequested then t.endRun .stopped .none
      else if s.run.remaining ≤ 1 then t.endRun .countDone .none
      else t.cycleStep := by
  have hkind : ¬u.run.kind = some .seek := by
    rw [hu, show ({ s.run with wanted := none } : RunRecord).kind = some .run from hk]
    exact nofun
  have hcond : (s.run.remaining - 1 = 0) = (s.run.remaining ≤ 1) := propext Nat.sub_eq_zero_iff_le
  refine (if_neg Bool.false_ne_true).trans ((if_neg hkind).trans ?_)
  rw [State.runOn]
  simp only [State.modRun, hu, hcond]

theorem runAfterTurn_of_seek {s u : State} {h : Handle} {target : Nat} (hu : u.run = { s.run with wanted := none })
    (ha : u.active = some h) (hk : s.run.kind = some .seek) (ht : s.run.target = some target)
    (hb : s.run.turnsTaken < s.run.budget) :
    runAfterTurn u false =
      let t : State := { u with run := { u.run with turnsTaken := s.run.turnsTaken + 1 } }
      let k := (u.vol h).opening
      if k = target then t.endRun .arrived .none
      else if s.run.stopRequested then t.endRun .stopped .none
      else if s.run.turnsTaken + 1 = s.run.budget then t.endRun .noProgress .none
      else { t with
        run := { t.run with wanted := some (if k < target then .forward else .back) }
        links := { t.links with turner := { t.links.turner with
          notices := addNotice t.links.turner.notices TurnerNotice.turnWanted.place } } } := by
  have hkind : u.run.kind = some .seek := by rw [hu]; exact hk
  have hcond : (s.run.budget ≤ s.run.turnsTaken + 1) = (s.run.turnsTaken + 1 = s.run.budget) :=
    propext ⟨fun h => by omega, fun h => by omega⟩
  refine (if_neg Bool.false_ne_true).trans ((if_pos hkind).trans ?_)
  rw [State.seekOn]
  have hnow (t : State) (hv : t.vols = u.vols) : t.openingNow = (u.vol h).opening := by
    have hact : t.active = some h := by simpa only [State.active, hv] using ha
    simp only [State.openingNow, hact, State.vol, hv]
  simp only [State.modRun, hu, ht, hcond, hnow]
  rfl

/-! ### The obligation -/

section Wanted
variable {s u : State} {h : Handle} (hi : s.initRunning = false) (c : s.Canonical) (hc : s.TableClean)
  (hk : s.skippedNow = []) (hp : s.cradle.parityGood = true) (hg : s.turn.phase = .granted)
  (hup : s.cradle.upSwitch = true) (hdown : s.cradle.downSwitch = false) (hrun : s.run.state ≠ .idle)
  (hw : s.run.wanted.isSome = true) (ha : s.active = some h)
include hi hc hk hp hg hup hdown hrun hw ha

include c in
theorem exec_clear_of_wanted
    (hl : hides s → s.cleanLeaf h ((s.vol h).opening + 1) ∧ s.cleanLeaf h ((s.vol h).opening + 2))
    (hu : exec .clear (unwanting s) = .next u) :
    u.run = { s.run with wanted := none } ∧ u.active = s.active ∧
    exec .clear s = .next { runAfterTurn u (turnMove s h).2 with skippedNow := [] } := by
  let t := s.taking .turner 0
  have both := recorded_clear (s := t) (taking_tableClean hc .turner 0) ⟨c.memory, c.leaves, c.gain⟩ ha hl
  have record : (grantEnded t .cleared).recordTurn h = _ :=
    recordTurn_of_clean (s := grantEnded t .cleared) (vol_clean hc h)
  have doubt : ((grantEnded t .cleared).recordTurn h).1 = (turnMove s h).2 := congrArg Prod.fst record
  have act : clear t = _ := clear_of_granted (s := t) hg hp hup hdown ha
  have act₀ : clear (unwanting t) = _ := clear_of_granted (s := unwanting t) hg hp hup hdown ha
  have same := turnEnded_of_unwanted (s := clearRecorded (unwanting t) h)
    (.inr (by rw [both.unwanting]; rfl)) ((grantEnded (unwanting t) .cleared).recordTurn h).1
  have words : (clearRecorded (unwanting t) h).openingWords = (clearRecorded t h).openingWords := by
    rw [both.unwanting]
    rfl
  rw [← doubt]
  exact exec_of_recorded hk hrun hw both (exec_clear hi) (exec_clear (s := unwanting s) hi) ((act_clear hc).trans act)
    ((act_clear (s := unwanting s) ⟨hc.zero, hc.one, hc.rescan⟩).trans
      (act₀.trans (Prod.ext (congrArg Reply.accepted words) same))) hu

theorem exec_aborted_of_wanted (hu : exec .aborted (unwanting s) = .next u) :
    u.run = { s.run with wanted := none } ∧ u.active = s.active ∧
    exec .aborted s = .next { runAfterTurn u false with skippedNow := [] } := by
  let t := s.taking .turner 0
  have both := recorded_abort (s := t) (h := h) (taking_tableClean hc .turner 0)
  have act : aborted t = _ := aborted_of_granted (s := t) hg hp hup hdown ha
  have act₀ : aborted (unwanting t) = _ := aborted_of_granted (s := unwanting t) hg hp hup hdown ha
  have same := turnEnded_of_unwanted (s := abortRecorded (unwanting t) h) (.inr (by rw [both.unwanting]; rfl)) false
  exact exec_of_recorded hk hrun hw both (exec_aborted hi) (exec_aborted (s := unwanting s) hi)
    ((act_aborted hc).trans act) ((act_aborted (s := unwanting s) ⟨hc.zero, hc.one, hc.rescan⟩).trans
      (act₀.trans (Prod.ext rfl same))) hu

end Wanted

/-- Settles O34: a CLEAR by the move of the pointer it records, and a turn of the run by what the same report does when
no run waits. -/
theorem clearRecordsTheTurn : Obligations.ClearRecordsTheTurn := by
  refine ⟨?free, ?wanted⟩
  case free =>
    intro s d n hi hc hp hg hdir hn hn2 hu hd hr hone ended
    have shows : ¬hides s := fun ⟨hf, h2⟩ => hone ⟨by rwa [hdir] at hf, hn.symm.trans h2⟩
    refine ⟨exec_clear_of_noVolume hi hc hp hg hu hd hr, fun h ha => ?_⟩
    intro v clamped k hle u t
    have move : turnMove s h = (k, clamped) := by
      rw [turnMove_eq hdir hn]
      cases d
      · exact movedOpening_forward _ _ _
      · exact movedOpening_back _ _ _
    have hx := exec_clear_of_shows hi hc hp hg hu hd hr ha shows
    rw [move] at hx
    refine hx.trans (congrArg _ ?_)
    have hvol (x : State) (hv : x.vol h = s.vol h) (ht : x.turn.direction = s.turn.direction)
        (ht' : x.turn.picked = s.turn.picked) : turnMove x h = (k, clamped) ∧
        volTurned x h = { v with
            opening := k, uncertain := u
            counters := { v.counters with
              turns := v.counters.turns + 1
              misfires := v.counters.misfires + if n = 0 then 1 else 0
              doublePicks := v.counters.doublePicks + if n = 2 then 1 else 0 } } := by
      have hm : turnMove x h = (k, clamped) := by rw [← move, turnMove, turnMove, hv, ht, ht']
      refine ⟨hm, ?_⟩
      rw [volTurned, hm, hv, ht', hn, turned_eq]
    obtain ⟨hm, hv⟩ := hvol (grantEnded (s.answered .turner 0 (.accepted
      [BitVec.ofNat 16 k, if u then 1 else 0])) .cleared) rfl rfl rfl
    by_cases still : k = v.opening
    · exact (pointerMoved_of_still (by rw [hm]; exact still)).trans (by rw [hv, if_pos still]; rfl)
    · exact (pointerMoved_of_moved (by rw [hm]; exact still)).trans (by rw [hv, if_neg still]; rfl)
  case wanted =>
    intro s d h i u hi c hc hk hp hg hdir hup hdown hrun hw ha hl hcase n clamped fin hu
    have hhides : hides s → s.cleanLeaf h ((s.vol h).opening + 1) ∧ s.cleanLeaf h ((s.vol h).opening + 2) := by
      intro ⟨hf, h2⟩
      rw [hdir] at hf
      refine hl hf ?_
      cases hpick : s.turn.picked with
      | none => rw [hpick] at h2; cases h2
      | some m => rw [hpick] at h2; exact congrArg some h2
    have ended : ∃ doubted : Bool, (doubted = true ↔ clamped) ∧ u.run = { s.run with wanted := none } ∧
        u.active = s.active ∧ exec i s = .next (fin (runAfterTurn u doubted)) := by
      rcases hcase with rfl | rfl
      · refine ⟨(turnMove s h).2, ?_, exec_clear_of_wanted hi c hc hk hp hg hup hdown hrun hw ha hhides hu⟩
        rw [turnMove_eq hdir (n := n) rfl]
        cases d
        · rw [movedOpening_forward]
          exact decide_eq_true_iff.trans ⟨fun h => ⟨rfl, h⟩, fun h => h.2⟩
        · rw [movedOpening_back]
          exact decide_eq_true_iff.trans ⟨fun h => ⟨rfl, h⟩, fun h => h.2⟩
      · exact ⟨false, ⟨nofun, fun h => nomatch h.1⟩,
          exec_aborted_of_wanted hi hc hk hp hg hup hdown hrun hw ha hu⟩
    obtain ⟨doubted, hdoubt, hurun, huact, hx⟩ := ended
    refine ⟨fun hcl => ?_, fun hcl hkind => ?_, fun target hcl hkind ht hb => ?_⟩
    · rw [hx, hdoubt.2 hcl]
      rfl
    · rw [hx, eq_false_of_ne_true (mt hdoubt.1 hcl), runAfterTurn_of_run hurun hkind]
    · rw [hx, eq_false_of_ne_true (mt hdoubt.1 hcl), runAfterTurn_of_seek hurun (huact.trans ha) hkind ht hb]

end Sys2Proof.Proofs
end

section
/-! SUPPORT. The readouts that change nothing but their link (R45, R102, R120, R136, R151, R165, R177, R186, R198). -/
namespace Sys2Proof.Proofs
open Sys2Proof.Machine Sys2Proof.Laws

/-! ### Operands -/

theorem slotOf_of_ge {n : Nat} (hn : 8 ≤ n) : slotOf n = none := dif_neg (Nat.not_lt_of_le hn)

theorem slotOf_val (i : SlotNo) : slotOf i.val = some i := dif_pos i.isLt

theorem headOf_of_ge {n : Nat} (hn : 2 ≤ n) : headOf n = none :=
  match n, hn with
  | _ + 2, _ => rfl

theorem headOf_place (h : Head) : headOf (headPlace h) = some h := by cases h <;> rfl

/-! ### The commands -/

section Commands
variable {s : State} (hi : s.initRunning = false)
include hi

theorem exec_readSlot (w : Word) : exec (.readSlot w) s = done (handed s .station .readSlot [w]) :=
  exec_action rfl rfl rfl (completes_of_arity (fun _ => rfl) rfl) hi

theorem exec_readCapture (w : Word) : exec (.readCapture w) s = done (handed s .station .readCapture [w]) :=
  exec_action rfl rfl rfl (completes_of_arity (fun _ => rfl) rfl) hi

theorem exec_readCalibration (w : Word) :
    exec (.readCalibration w) s = done (handed s .station .readCalibration [w]) :=
  exec_action rfl rfl rfl (completes_of_arity (fun _ => rfl) rfl) hi

theorem exec_readMeasurement (w : Word) :
    exec (.readMeasurement w) s = done (handed s .station .readMeasurement [w]) :=
  exec_action rfl rfl rfl (completes_of_arity (fun _ => rfl) rfl) hi

theorem exec_readRun : exec .readRun s = done (handed s .station .readRun []) :=
  exec_action rfl rfl rfl (completes_of_arity (fun _ => rfl) rfl) hi

theorem exec_readDelivery : exec .readDelivery s = done (handed s .station .readDelivery []) :=
  exec_action rfl rfl rfl (completes_of_arity (fun _ => rfl) rfl) hi

theorem exec_readLighting : exec .readLighting s = done (handed s .station .readLighting []) :=
  exec_action rfl rfl rfl (completes_of_arity (fun _ => rfl) rfl) hi

theorem exec_readFaults : exec .readFaults s = done (handed s .station .readFaults []) :=
  exec_action rfl rfl rfl (completes_of_arity (fun _ => rfl) rfl) hi

end Commands

theorem readSlot_of_ge {n : Nat} (hn : 8 ≤ n) (s : State) : readSlot n s = (.refused .badParam, s) := by
  rw [readSlot, slotOf_of_ge hn]

theorem readSlot_val (i : SlotNo) (s : State) : readSlot i.val s = (.accepted (s.slot i).words, s) := by
  rw [readSlot, slotOf_val]

theorem readCapture_of_ge {n : Nat} (hn : 2 ≤ n) (s : State) : readCapture n s = (.refused .badParam, s) := by
  rw [readCapture, headOf_of_ge hn]

theorem readCalibration_of_ge {n : Nat} (hn : 2 ≤ n) (s : State) : readCalibration n s = (.refused .badParam, s) := by
  rw [readCalibration, headOf_of_ge hn]

theorem readMeasurement_of_ge {n : Nat} (hn : 2 ≤ n) (s : State) : readMeasurement n s = (.refused .badParam, s) := by
  rw [readMeasurement, headOf_of_ge hn]

/-! ### READ FAULTS (R186, R198) -/

/-- Word 1 of READ FAULTS with a record present, by its fields. -/
theorem faultWord_fields {r : FaultRecord} {w : Word} (hw : w = BitVec.ofNat 16 (bitAt 15 true + r.cls.place.val + r.fieldBits)) :
    w.toNat / 32768 = 1 ∧ w.toNat % 16 = r.cls.place.val ∧
    (w.toNat / 256 % 2 = 1 ↔ r.volume.isSome = true) ∧ (w.toNat / 512 % 2 = 1 ↔ r.leaf.isSome = true) ∧
    (w.toNat / 1024 % 2 = 1 ↔ r.head.isSome = true) ∧ (w.toNat / 2048 % 2 = 1 ↔ r.channel.isSome = true) ∧
    (w.toNat / 4096 % 2 = 1 ↔ r.column.isSome = true) ∧ (w.toNat / 8192 % 2 = 1 ↔ r.slot.isSome = true) := by
  simp only [FaultRecord.fieldBits, bitAt_eq, Bool.toNat_true] at hw
  have := r.cls.place.isLt
  have := r.volume.isSome.toNat_le
  have := r.leaf.isSome.toNat_le
  have := r.head.isSome.toNat_le
  have := r.channel.isSome.toNat_le
  have := r.column.isSome.toNat_le
  have := r.slot.isSome.toNat_le
  have hn := congrArg BitVec.toNat hw
  rw [BitVec.toNat_ofNat, Nat.mod_eq_of_lt (by omega)] at hn
  refine ⟨?_, ?_, iff_of_toNat ?_, iff_of_toNat ?_, iff_of_toNat ?_, iff_of_toNat ?_, iff_of_toNat ?_,
    iff_of_toNat ?_⟩ <;> omega

/-- The words of a fault record after the first. -/
def faultFigures : Option FaultRecord → List Nat
  | none => [0, 0, 0, 0, 0, 0, 0]
  | some r => [(r.volume.map (·.1.place)).getD 0, (r.volume.map (·.2)).getD 0, r.leaf.getD 0,
      (r.head.map headPlace).getD 0, (r.channel.map Channel.place).getD 0, r.column.getD 0, (r.slot.map (·.val)).getD 0]

/-- The first word of a fault record. -/
def faultHead : Option FaultRecord → Word
  | none => 0
  | some r => BitVec.ofNat 16 (bitAt 15 true + r.cls.place.val + r.fieldBits)

theorem faultRecordWords_eq (r : Option FaultRecord) :
    faultRecordWords r = faultHead r :: (faultFigures r).map (BitVec.ofNat 16) := by
  cases r <;> rfl

theorem length_faultFigures (r : Option FaultRecord) : (faultFigures r).length = 7 := by cases r <;> rfl

/-- The words of READ FAULTS after the first. -/
def faultWords (f : FaultReport) : List Word :=
  ((faultFigures f.record).map (BitVec.ofNat 16) ++ f.counts.toList.map (BitVec.ofNat 16)) ++ [BitVec.ofNat 16 f.skipped]

theorem readFaults_eq (s : State) : readFaults s = (.accepted (faultHead s.faults.record :: faultWords s.faults), s) := by
  have counts : s.faults.counts.toList.flatMap num16 = s.faults.counts.toList.map (BitVec.ofNat 16) := by
    rw [flatMap_words num16_eq, List.flatMap_singleton']
  rw [readFaults, faultRecordWords_eq, counts]
  rfl

theorem length_counts (f : FaultReport) : (f.counts.toList.map (BitVec.ofNat 16)).length = 13 := by
  rw [List.length_map, Vector.length_toList]

theorem faultWords_parts (f : FaultReport) :
    (faultWords f).length = 21 ∧ (faultWords f).take 7 = (faultFigures f.record).map (BitVec.ofNat 16) ∧
    ((faultWords f).drop 7).take 13 = f.counts.toList.map (BitVec.ofNat 16) ∧
    (faultWords f).drop 20 = [BitVec.ofNat 16 f.skipped] := by
  have hfigures : ((faultFigures f.record).map (BitVec.ofNat 16)).length = 7 := by
    rw [List.length_map, length_faultFigures]
  have hcounts := length_counts f
  unfold faultWords
  generalize (faultFigures f.record).map (BitVec.ofNat 16) = a at *
  generalize f.counts.toList.map (BitVec.ofNat 16) = b at *
  refine ⟨by simp [hfigures, hcounts], ?_, ?_, ?_⟩
  · rw [List.append_assoc, List.take_left' hfigures]
  · rw [List.append_assoc, List.drop_left' hfigures, List.take_left' hcounts]
  · exact List.drop_left' (by rw [List.length_append, hfigures, hcounts])

/-! ### The obligation -/

/-- Settles O37: each readout answers with its words and leaves the rest. -/
theorem readoutsChangeOnlyTheirLink : Obligations.ReadoutsChangeOnlyTheirLink := by
  intro s w hi answers bad
  have capture := exec_readCapture hi w
  have calibration := exec_readCalibration hi w
  have measurement := exec_readMeasurement hi w
  refine ⟨fun hw => exec_of_answer_unread (exec_readSlot hi w) rfl rfl (readSlot_of_ge hw _), fun i hw => ?slot,
    fun hw => ⟨exec_of_answer_unread capture rfl rfl (readCapture_of_ge hw _),
      exec_of_answer_unread calibration rfl rfl (readCalibration_of_ge hw _),
      exec_of_answer_unread measurement rfl rfl (readMeasurement_of_ge hw _)⟩, fun h hw => ?heads,
    exec_of_answer_unread (exec_readRun hi) rfl rfl rfl, exec_of_answer_unread (exec_readDelivery hi) rfl rfl rfl,
    exec_of_answer_unread (exec_readLighting hi) rfl rfl rfl, ?faults⟩
  case slot =>
    have ha : readSlot w.toNat (s.taking .station 1) = _ := hw ▸ readSlot_val i _
    exact exec_of_answer_unread (exec_readSlot hi w) rfl rfl ha
  case heads =>
    refine ⟨exec_of_answer_unread capture rfl rfl ((congrArg (readCapture · _) hw).trans ?_),
      exec_of_answer_unread calibration rfl rfl ((congrArg (readCalibration · _) hw).trans ?_),
      exec_of_answer_unread measurement rfl rfl ((congrArg (readMeasurement · _) hw).trans ?_)⟩ <;> cases h <;> rfl
  case faults =>
    obtain ⟨hlen, htake, hcounts, hskip⟩ := faultWords_parts s.faults
    refine ⟨faultHead s.faults.record, faultWords s.faults,
      exec_of_answer_unread (exec_readFaults hi) rfl rfl (readFaults_eq _), hlen, fun hr => ⟨?_, ?_⟩, fun r hr => ?_,
      hcounts, hskip⟩
    · rw [hr]; rfl
    · rw [htake, hr]; rfl
    · rw [htake, hr]
      obtain ⟨h1, h2, h3, h4, h5, h6, h7, h8⟩ := faultWord_fields (r := r) rfl
      exact ⟨h1, h2, h3, h4, h5, h6, h7, h8, rfl⟩

end Sys2Proof.Proofs
end

section
/-! SUPPORT. The settings commands (R87, R88, R105, R124, R140, R148, R168) and the arithmetic of lighting (R86, R90 to
R92, R99, R100). -/
namespace Sys2Proof.Proofs
open Sys2Proof.Machine Sys2Proof.Laws

/-! ### Values and the clamps on them -/

/-- A clamp whose upper limit no word exceeds. -/
theorem clamp_word (w : Word) {lo : Nat} (h : lo ≤ 65535) : clamp w.toNat lo 65535 = max lo w.toNat := by
  rw [clamp_eq h, Nat.min_eq_left (Nat.le_of_lt_succ w.isLt)]

/-- Numbered fields of a record written one after another, the first of them the n-th. -/
def recordFrom {α : Type} (field : Nat → Nat → α → α) : Nat → List Word → α → α
  | _, [], a => a
  | n, w :: ws, a => recordFrom field (n + 1) ws (field n w.toNat a)

/-- Fields of a settings command that are fields of one part of the state. -/
theorem fieldsFrom_eq {α : Type} {field : Nat → Nat → State → State} {part : Nat → Nat → α → α} {get : State → α}
    {put : State → α → State} (hf : ∀ i v s, field i v s = put s (part i v (get s)))
    (hget : ∀ s a, get (put s a) = a) (hput : ∀ s a b, put (put s a) b = put s b) (hself : ∀ s, put s (get s) = s)
    (n : Nat) (ws : List Word) (s : State) :
    fieldsFrom field n ws s = put s (recordFrom part n ws (get s)) := by
  induction ws generalizing n s with
  | nil => exact (hself s).symm
  | cons w ws ih => rw [fieldsFrom, ih, hf, hget, hput, recordFrom]

/-- The fields of a settings command with a head word, once the head is known. -/
theorem applyFields_head {c : Cmd} {field : Nat → Nat → State → State} {w : Word}
    (hc : ∀ ws s, c.applyField (w :: ws) s = field ws.length (arg (w :: ws) ws.length) s) (pre ws : List Word)
    (s : State) : applyFields c (w :: pre) ws s = fieldsFrom field (pre.length + 1) ws s := by
  induction ws generalizing pre s with
  | nil => rfl
  | cons v ws ih =>
    have hlast : arg ((w :: pre) ++ [v]) (pre.length + 1) = v.toNat := arg_append_last (w :: pre) v
    rw [applyFields, List.cons_append, ih, hc, List.length_append]
    rw [List.cons_append] at hlast
    rw [List.length_singleton, hlast]
    rfl

/-! ### SET KEEP and SET DELIVERY (R148, R168) -/

theorem pos_iff_ne_zero_word (w : Word) : decide (0 < w.toNat) = (w != 0) := by
  rw [Bool.eq_iff_iff, decide_eq_true_iff, bne_iff_ne, Nat.pos_iff_ne_zero, ne_eq, ne_eq, BitVec.toNat_eq]
  rfl

theorem toNat_eq_zero_word (w : Word) : (w.toNat = 0) = (w = 0) := propext (BitVec.toNat_eq (y := 0)).symm

theorem exec_setting {s : State} {i : Instr} {link : MasterLink} {c : Cmd} {ws : List Word}
    (hi : s.initRunning = false) (hx : i.spelled = some (link, c, ws)) (ho : c.ownedBy link = true)
    (hs : c.isSetting = true) (hr : ∀ n, c.headRefused (ws.take (n + 1)) = false) (hf : Completes c ws) :
    exec i s = done ((applyFields c [] ws s).modLink link fun l => (l.taking ws.length).answer (.accepted [])) := by
  rw [exec_spelled s hx, transact_setting ho hi hs hr hf]

theorem exec_setKeep {s : State} (hi : s.initRunning = false) (mode motion degraded : Word) :
    exec (.setKeep mode motion degraded) s = .next
      { s.answered .station 3 (.accepted []) with
        keep := ⟨if mode = 0 then .gate else .decideAll, motion != 0, degraded != 0⟩ } := by
  rw [exec_setting hi rfl rfl rfl (fun _ => rfl) (completes_of_arity (fun _ => rfl) rfl),
    applyFields_eq (field := setKeepField) fun _ _ => rfl]
  simp only [fieldsFrom, setKeepField, List.length_nil, pos_iff_ne_zero_word, toNat_eq_zero_word]
  rfl

/-- The format word of SET DELIVERY. -/
theorem setDeliveryField_format (w : Word) (s : State) :
    setDeliveryField 0 w.toNat s = { s with delivery := { s.delivery with settings := { s.delivery.settings with
      format := if w = 0 then .w16 else if w = 1 then .w8 else if w = 2 then .g16 else .g8 } } } := by
  have value (k : Nat) (hk : k < 65536) : (w = BitVec.ofNat 16 k) = (w.toNat = k) := by
    rw [BitVec.toNat_eq, BitVec.toNat_ofNat, Nat.mod_eq_of_lt hk]
  rw [show (0 : Word) = BitVec.ofNat 16 0 from rfl, show (1 : Word) = BitVec.ofNat 16 1 from rfl,
    show (2 : Word) = BitVec.ofNat 16 2 from rfl]
  simp only [value 0 (by decide), value 1 (by decide), value 2 (by decide)]
  rcases w.toNat with - | - | - | n <;> rfl

theorem exec_setDelivery {s : State} (hi : s.initRunning = false) (format auto : Word) :
    exec (.setDelivery format auto) s = .next
      { s.answered .station 2 (.accepted []) with delivery := { s.delivery with settings :=
          ⟨if format = 0 then .w16 else if format = 1 then .w8 else if format = 2 then .g16 else .g8,
           auto != 0⟩ } } := by
  rw [exec_setting hi rfl rfl rfl (fun _ => rfl) (completes_of_arity (fun _ => rfl) rfl),
    applyFields_eq (field := setDeliveryField) fun _ _ => rfl]
  simp only [fieldsFrom, List.length_nil, setDeliveryField_format]
  rw [← pos_iff_ne_zero_word]
  rfl

/-! ### SET CORRECTION and SET MEASUREMENT (R105, R124, R140) -/

theorem headRefused_head {c : Cmd} {ws : List Word} {h : Head} (hh : headOf (arg ws 0) = some h) (n : Nat) :
    c.headRefused (ws.take (n + 1)) = false := by
  rw [Cmd.headRefused, take_getD_ge (Nat.succ_pos n), hh]
  exact Bool.and_false _

theorem set_get_self (p : PerHead HeadUnit) (h : Head) : p.set h (p.get h) = p := by cases h <;> rfl

theorem setCorrectionFields (h : Head) (n : Nat) (ws : List Word) (s : State) :
    fieldsFrom (setCorrectionField h) n ws s =
      { s with heads := s.heads.set h { s.head h with
          correction := recordFrom (fun i v c => Correction.setField c i v) n ws (s.head h).correction } } := by
  refine fieldsFrom_eq (field := setCorrectionField h) (part := fun i v c => Correction.setField c i v) (get := fun s => (s.head h).correction)
    (put := fun s c => { s with heads := s.heads.set h { s.head h with correction := c } }) (fun _ _ _ => rfl)
    (fun s a => ?_) (fun s a b => ?_) (fun s => ?_) n ws s
  · exact congrArg HeadUnit.correction (PerHead_get_set_same _ _ _)
  · simp only [State.head, PerHead_get_set_same, PerHead_set_set]
  · exact congrArg (fun p => { s with heads := p }) (set_get_self s.heads h)

theorem darkModeOf_eq (n : Nat) :
    darkModeOf n = if n = 0 then .fixed else if n = 1 then .running else .trimmed := by
  rcases n with - | - | n <;> rfl

theorem exec_setCorrection {s : State} (hi : s.initRunning = false) {ws : List Word} (hl : ws.length = 10) {h : Head}
    (hh : arg ws 0 = headPlace h) :
    exec (.setCorrection ws) s = .next
      { s.answered .station 10 (.accepted []) with heads := s.heads.set h { s.head h with
          correction := recordFrom (fun i v c => Correction.setField c i v) 1 ws.tail (s.head h).correction } } := by
  have ho : headOf (arg ws 0) = some h := hh ▸ headOf_place h
  have hx := exec_setting (i := .setCorrection ws) hi rfl rfl rfl (headRefused_head ho)
    (completes_of_arity (fun _ => rfl) (by exact hl))
  rw [hx, hl]
  obtain ⟨w, vs, rfl⟩ := List.exists_cons_of_length_eq_add_one hl
  have first (us : List Word) (t : State) : Cmd.setCorrection.applyField (w :: us) t =
      setCorrectionField h us.length (arg (w :: us) us.length) t := by
    have hw : headOf (arg (w :: us) 0) = some h := ho
    simp only [Cmd.applyField, hw, List.length_cons, Nat.add_sub_cancel]
  have zero : Cmd.setCorrection.applyField ([] ++ [w]) s = s := by
    rw [List.nil_append, first]
    exact congrArg (fun p => { s with heads := p }) (set_get_self s.heads h)
  rw [applyFields, zero, List.nil_append, applyFields_head first [] vs, setCorrectionFields]
  rfl

theorem correctionWritten {ws : List Word} (hl : ws.length = 10) (old : Correction) :
    recordFrom (fun i v c => Correction.setField c i v) 1 ws.tail old =
      { w := max 1024 (min (arg ws 1) 6144) / 16 * 16
        h := max 1024 (min (arg ws 2) 8192)
        darkMode := if arg ws 3 = 0 then .fixed else if arg ws 3 = 1 then .running else .trimmed
        fixed := ⟨min (arg ws 4) 1023, min (arg ws 5) 1023, min (arg ws 6) 1023⟩
        offset := min (arg ws 7) 255
        winLo := min (min (arg ws 8) 1023) old.winHi
        winHi := max (min (arg ws 9) 1023) (min (min (arg ws 8) 1023) old.winHi) } :=
  match ws, hl with
  | [_, _, _, _, _, _, _, _, _, _], _ => by
    simp only [List.tail_cons, recordFrom, Correction.setField, widthOf, darkModeOf_eq,
      clamp_eq (show 1024 ≤ 6144 by decide), clamp_eq (show 1024 ≤ 8192 by decide)]
    rfl

/-- The fields of SET MEASUREMENT written one after another, each from the words that have come in with it. -/
def measuredFrom : List Word → List Word → Measurement → Measurement
  | _, [], m => m
  | pre, w :: ws, m => measuredFrom (pre ++ [w]) ws (m.setField (pre ++ [w]))

theorem setMeasurementFields {h : Head} {w : Word} (hw : headOf w.toNat = some h) (pre ws : List Word) (s : State) :
    applyFields .setMeasurement (w :: pre) ws s =
      { s with heads := s.heads.set h { s.head h with
          measurement := measuredFrom (w :: pre) ws (s.head h).measurement } } := by
  induction ws generalizing pre s with
  | nil => exact (congrArg (fun p => { s with heads := p }) (set_get_self s.heads h)).symm
  | cons v ws ih =>
    have field (us : List Word) (t : State) : Cmd.setMeasurement.applyField (w :: us) t = setMeasurementField h (w :: us) t := by
      have hw : headOf (arg (w :: us) 0) = some h := hw
      simp only [Cmd.applyField, hw]
    rw [applyFields, List.cons_append, ih, field]
    simp only [setMeasurementField, State.modHead, State.head, PerHead_get_set_same, PerHead_set_set]
    rfl

theorem exec_setMeasurement {s : State} (hi : s.initRunning = false) {ws : List Word} (hl : ws.length = 12) {h : Head}
    (hh : arg ws 0 = headPlace h) :
    exec (.setMeasurement ws) s = .next
      { s.answered .station 12 (.accepted []) with heads := s.heads.set h { s.head h with
          measurement := measuredFrom [] ws (s.head h).measurement } } := by
  have ho : headOf (arg ws 0) = some h := hh ▸ headOf_place h
  have hx := exec_setting (i := .setMeasurement ws) hi rfl rfl rfl (headRefused_head ho)
    (completes_of_arity (fun _ => rfl) (by exact hl))
  rw [hx, hl]
  obtain ⟨w, vs, rfl⟩ := List.exists_cons_of_length_eq_add_one hl
  have zero : Cmd.setMeasurement.applyField ([] ++ [w]) s = s := by
    have hw : headOf (arg [w] 0) = some h := ho
    simp only [Cmd.applyField, List.nil_append, hw]
    exact congrArg (fun p => { s with heads := p }) (set_get_self s.heads h)
  rw [applyFields, zero, List.nil_append, setMeasurementFields (by exact ho) [] vs]
  rfl

/-! ### A bad head word (R190) -/

theorem headRefused_of_ge {c : Cmd} {w : Word} (hc : (c == .setCorrection || c == .setMeasurement) = true)
    (hw : 2 ≤ w.toNat) : c.headRefused [w] = true := by
  rw [Cmd.headRefused, hc, show arg [w] 0 = w.toNat from rfl, headOf_of_ge hw]
  rfl

theorem transact_badHead {s : State} {c : Cmd} (hi : s.initRunning = false) (ho : c.ownedBy .station = true)
    (hc : c.complete [] = false) {w : Word} (hr : c.headRefused [w] = true) :
    done (s.transact .station c [w]) = .next
      { s with
        links := s.links.set .station
          { s.links.station.taking 1 with rx := .discarding, response := [.status (some .badParam)] }
        skippedNow := [] } := by
  have word : (s.modLink .station (collectingLink · c [])).otherWord .station w (parityBit false w) =
      s.modLink .station fun l => { l.taking 1 with rx := .discarding, response := [.status (some .badParam)] } := by
    unfold State.otherWord
    simp only [link_modLink, parityHolds_parityBit, if_true, modLink_modLink]
    unfold collectingLink State.collect
    simp only [List.nil_append, hr, if_true, modLink_modLink]
    apply modLink_congr
    simp [Link.clockOut, Link.taking, Link.lastOut, Link.outgoing, Link.attention, Link.refuse, Reply.response]
  rw [State.transact, commandWord_owned ho (.inl hi), hc]
  exact congrArg done word

/-! ### SET LIGHTING (R87, R88) -/

theorem setLightingFields (n : Nat) (ws : List Word) (s : State) :
    fieldsFrom setLightingField n ws s =
      { s with light := { s.light with
          settings := recordFrom (fun i v l => LightingSettings.setField l i v) n ws s.light.settings } } :=
  fieldsFrom_eq (field := setLightingField) (part := fun i v l => LightingSettings.setField l i v)
    (get := fun s => s.light.settings) (put := fun s l => { s with light := { s.light with settings := l } })
    (fun _ _ _ => rfl) (fun _ _ => rfl) (fun _ _ _ => rfl) (fun _ => rfl) n ws s

theorem exec_setLighting {s : State} (hi : s.initRunning = false) {fs : List Word} (hl : fs.length = 15) :
    exec (.setLighting fs) s = .next
      { s.answered .station 15 (.accepted []) with light := { s.light with
          settings := recordFrom (fun i v l => LightingSettings.setField l i v) 0 fs s.light.settings } } := by
  have hx := exec_setting (i := .setLighting fs) hi rfl rfl rfl (fun _ => rfl)
    (completes_of_arity (fun _ => rfl) (by exact hl))
  rw [hx, hl, applyFields_eq (field := setLightingField) fun _ _ => rfl, setLightingFields]
  rfl

section Fields
variable (l : LightingSettings) (v : Nat)

theorem setField_dMin : l.setField 8 v = { l with dMin := min (clamp v 100 65535) l.dMax }.pinBases := rfl

theorem setField_dMax : l.setField 9 v = { l with dMax := max (clamp v 100 65535) l.dMin }.pinBases := rfl

theorem setField_left : l.setField 10 v = { l with base := { l.base with left := clamp v l.dMin l.dMax } } := rfl

theorem setField_right : l.setField 11 v = { l with base := { l.base with right := clamp v l.dMin l.dMax } } := rfl

theorem setField_target : l.setField 12 v = { l with target := clamp v 1 65535 } := rfl

theorem setField_autoLeft : l.setField 13 v = { l with auto := { l.auto with left := decide (0 < v) } } := rfl

theorem setField_autoRight : l.setField 14 v = { l with auto := { l.auto with right := decide (0 < v) } } := rfl

end Fields

/-- The two words of each bank, its level and its weight. -/
theorem banksWritten (a b c d e f g h : Word) (ws : List Word) (l : LightingSettings) :
    recordFrom (fun i v l => LightingSettings.setField l i v) 0 (a :: b :: c :: d :: e :: f :: g :: h :: ws) l =
      recordFrom (fun i v l => LightingSettings.setField l i v) 8 ws { l with
        banks := ⟨⟨min a.toNat 255, min b.toNat 255⟩, ⟨min c.toNat 255, min d.toNat 255⟩,
          ⟨min e.toNat 255, min f.toNat 255⟩, ⟨min g.toNat 255, min h.toNat 255⟩⟩ } := by
  simp only [recordFrom]
  rfl

theorem lightingWritten {fs : List Word} (hl : fs.length = 15) (old : LightingSettings) :
    recordFrom (fun i v l => LightingSettings.setField l i v) 0 fs old =
      let level (i : Nat) : BankSetting := ⟨min (arg fs (2 * i)) 255, min (arg fs (2 * i + 1)) 255⟩
      let lo := min (max 100 (arg fs 8)) old.dMax
      let hi := max (max 100 (arg fs 9)) lo
      { banks := ⟨level 0, level 1, level 2, level 3⟩
        dMin := lo
        dMax := hi
        base := ⟨max lo (min (arg fs 10) hi), max lo (min (arg fs 11) hi)⟩
        target := max 1 (arg fs 12)
        auto := ⟨decide (0 < arg fs 13), decide (0 < arg fs 14)⟩ } :=
  match fs, hl with
  | [a, b, c, d, e, f, g, h, i, j, k, l, m, n, o], _ => by
    have hle : min (max 100 i.toNat) old.dMax ≤ max (max 100 j.toNat) (min (max 100 i.toNat) old.dMax) := Nat.le_max_right _ _
    rw [banksWritten]
    simp only [recordFrom, Nat.reduceAdd, setField_dMin, setField_dMax, setField_left, setField_right, setField_target,
      setField_autoLeft, setField_autoRight, LightingSettings.pinBases, clamp_word _ (show 100 ≤ 65535 by decide),
      clamp_word _ (show 1 ≤ 65535 by decide), clamp_eq hle]
    rfl

/-- Settles O40: each settings command carried to its end, and a head word that names no head. -/
theorem settingsWriteTheirFields : Obligations.SettingsWriteTheirFields := by
  intro s hi took badHead
  refine ⟨exec_setKeep hi, exec_setDelivery hi, fun ws hl h hh => ?correction, fun ws hl h hh => ?measurement,
    fun w hw => ⟨?badCorrection, ?badMeasurement⟩, fun fs hl => ?lighting⟩
  case correction =>
    intro old lo
    refine (exec_setCorrection hi hl hh).trans ?_
    rw [correctionWritten hl]
  case measurement =>
    refine (exec_setMeasurement hi hl hh).trans ?_
    have record : measuredFrom [] ws (s.head h).measurement =
        { left := min (arg ws 1) 6143
          top := min (arg ws 2) 8191
          width := max 1 (min (arg ws 3) 6144)
          height := max 1 (min (arg ws 4) 8192)
          threshold := arg ws 5
          runLength := max 1 (min (arg ws 6) 8)
          guardColumns := min (arg ws 7) 255
          guardLines := min (arg ws 8) 255
          blankMinimum := min (arg ws 9) 255
          clipLimit := arg ws 10 * 65536 + arg ws 11 } := by
      match ws, hl with
      | [a0, a1, a2, a3, a4, a5, a6, a7, a8, a9, a10, a11], _ =>
        simp only [measuredFrom, Measurement.setField, List.nil_append, List.cons_append, List.length_cons,
          List.length_nil, clamp_eq (show 1 ≤ 6144 by decide), clamp_eq (show 1 ≤ 8192 by decide),
          clamp_eq (show 1 ≤ 8 by decide)]
        rfl
    rw [record]
  case badCorrection =>
    rw [exec_spelled s (i := .setCorrection [w]) rfl]
    exact transact_badHead hi rfl rfl (headRefused_of_ge rfl hw)
  case badMeasurement =>
    rw [exec_spelled s (i := .setMeasurement [w]) rfl]
    exact transact_badHead hi rfl rfl (headRefused_of_ge rfl hw)
  case lighting =>
    intro level lo hi'
    refine (exec_setLighting hi hl).trans ?_
    rw [lightingWritten hl]

end Sys2Proof.Proofs
end

section
/-! SUPPORT. The arithmetic of lighting (R86, R90 to R92, R99, R100). -/
namespace Sys2Proof.Proofs
open Sys2Proof.Machine Sys2Proof.Laws

theorem positionFails_iff {v : Volume} {ps : List LitPosition} {h : Head} :
    positionFails v ps h = true ↔ ∃ p ∈ ps, p.head = h ∧ v.sideCeiling < p.dose + p.latch.planned := by
  simp only [positionFails, List.any_eq_true, Bool.and_eq_true, decide_eq_true_eq]
  rfl

/-- A ceiling of 0, a side beyond its ceiling, or the volume beyond its own. -/
theorem doseRefused_iff {v : Volume} {ps : List LitPosition} :
    doseRefused v ps = true ↔ v.volumeCeiling = 0 ∨ v.sideCeiling = 0 ∨
      (∃ p ∈ ps, v.sideCeiling < p.dose + p.latch.planned) ∨
      v.volumeCeiling < v.dose + (ps.map (·.latch.planned)).sum := by
  have sides : (positionFails v ps .left = true ∨ positionFails v ps .right = true) ↔
      ∃ p ∈ ps, v.sideCeiling < p.dose + p.latch.planned := by
    rw [positionFails_iff, positionFails_iff]
    constructor
    · rintro (⟨p, hp, -, hs⟩ | ⟨p, hp, -, hs⟩) <;> exact ⟨p, hp, hs⟩
    · rintro ⟨p, hp, hs⟩
      rcases hh : p.head with - | -
      · exact .inl ⟨p, hp, hh, hs⟩
      · exact .inr ⟨p, hp, hh, hs⟩
  simp only [doseRefused, Bool.or_eq_true, decide_eq_true_eq, or_assoc]
  rw [← or_assoc (a := positionFails v ps .left = true), sides, plannedDose]

theorem incSat_eq (n : Nat) : incSat n = min (n + 1) 65535 := by
  rw [incSat]
  split <;> omega

theorem clamp_base (base v : Nat) :
    clamp v (base - base / 4) (base + base / 4) = max (base - base / 4) (min v (base + base / 4)) :=
  clamp_eq (by omega)

section AutoExpose
variable {l : Lighting} {p : Head} {base mean : Nat} {blank : Bool}

theorem autoExpose_of_off (ha : l.settings.auto.get p = false) : l.autoExpose p base mean blank = l := by
  rw [Lighting.autoExpose, ha]
  rfl

variable (ha : l.settings.auto.get p = true)
include ha

theorem autoExpose_of_bright (hm : 0 < mean ∧ blank = false) (hd : l.settings.dMin ≤ l.settings.dMax) :
    let ideal := base * l.settings.target / mean
    let new := max l.settings.dMin
      (min (max (base - base / 4) (min ideal (base + base / 4))) l.settings.dMax)
    l.autoExpose p base mean blank =
      { l with
        settings := { l.settings with base := l.settings.base.set p new }
        lastUpdate := some ⟨p, mean, base, .updated ideal new⟩ } := by
  rw [Lighting.autoExpose, ha]
  refine (if_pos rfl).trans ((if_pos hm).trans ?_)
  rw [newDuration, clamp_eq hd, clamp_base]
  rfl

theorem autoExpose_of_held (hm : mean = 0 ∨ blank = true) :
    l.autoExpose p base mean blank =
      { l with
        holds := l.holds.set p (min (l.holds.get p + 1) 65535)
        lastUpdate := some ⟨p, mean, base, if mean = 0 then .holdDark else .holdBlank⟩ } := by
  have hno : ¬(0 < mean ∧ blank = false) := by
    rintro ⟨hpos, hb⟩
    rcases hm with rfl | rfl
    · exact absurd hpos (Nat.lt_irrefl 0)
    · cases hb
  rw [Lighting.autoExpose, ha, ← incSat_eq]
  exact (if_pos rfl).trans (if_neg hno)

end AutoExpose

/-- Settles O41: durations, latches, ceilings, the update and its holds, and the end of a pulse. -/
theorem lightingArithmetic : Obligations.LightingArithmetic := by
  refine ⟨fun base b => ⟨fun h => if_pos h, fun hw hl => if_neg (not_or.2 ⟨hw, hl⟩)⟩, fun l p => ?latch,
    fun v ps => doseRefused_iff, fun l p base mean blank => ?update, fun s b => rfl⟩
  case latch => cases p <;> exact ⟨_, _, rfl, rfl⟩
  case update =>
    exact ⟨autoExpose_of_off, fun ha hm hb => autoExpose_of_bright ha ⟨hm, hb⟩, autoExpose_of_held⟩

end Sys2Proof.Proofs
end

section
/-! SUPPORT. What an exposure's tests see (R107, R108): the views of the requested sides, the slots available to them,
and the doses they would receive. -/
namespace Sys2Proof.Proofs
open Sys2Proof.Machine Sys2Proof.Laws

/-! ### Views of the sides (R108) -/

/-- A requested side as the tests see it, where its record is invalid or has no bit error. -/
def sideSeen (s : State) (h : Handle) (k : Nat) (r : Head × Nat) : SideView :=
  let d := sideAt k r.1
  if (s.leaf h d.leaf).valid then
    ⟨r.1, d, r.2, true, (s.face h d).declared, (s.face h d).skip, ((s.face h d).panel r.2).generation⟩
  else ⟨r.1, d, r.2, false, 4, false, 0⟩

section Views
variable {s : State} {h : Handle} {k : Nat}

theorem viewSide_of_clean {r : Head × Nat} (hl : (s.leaf h (sideAt k r.1).leaf).valid = true →
    (s.leaf h (sideAt k r.1).leaf).errors = []) : s.viewSide h k r = (sideSeen s h k r, s) := by
  cases hv : (s.leaf h (sideAt k r.1).leaf).valid with
  | true => simp only [State.viewSide, readLeaf_of_clean hv (hl hv), sideSeen, hv, if_true]
  | false =>
    simp only [State.viewSide, readLeaf_of_invalid hv, sideSeen, hv, Bool.false_eq_true, if_false]

theorem viewSides_of_clean {rs : List (Head × Nat)} (hl : ∀ r ∈ rs, (s.leaf h (sideAt k r.1).leaf).valid = true →
    (s.leaf h (sideAt k r.1).leaf).errors = []) : s.viewSides h k rs = (rs.map (sideSeen s h k), s) := by
  induction rs with
  | nil => rfl
  | cons r rs ih =>
    rw [State.viewSides, viewSide_of_clean (hl r List.mem_cons_self), List.map_cons]
    dsimp only
    rw [ih fun r hr => hl r (List.mem_cons_of_mem _ hr)]

variable (s h k) (r : Head × Nat)

theorem head_sideSeen : (sideSeen s h k r).head = r.1 := by
  unfold sideSeen
  dsimp only
  split <;> rfl

theorem side_sideSeen : (sideSeen s h k r).side = sideAt k r.1 := by
  unfold sideSeen
  dsimp only
  split <;> rfl

theorem panel_sideSeen : (sideSeen s h k r).panel = r.2 := by
  unfold sideSeen
  dsimp only
  split <;> rfl

theorem declared_sideSeen : (sideSeen s h k r).declared =
    if (s.leaf h (sideAt k r.1).leaf).valid then (s.face h (sideAt k r.1)).declared else 4 := by
  unfold sideSeen
  dsimp only
  split <;> rfl

theorem skip_sideSeen : (sideSeen s h k r).skip =
    ((s.leaf h (sideAt k r.1).leaf).valid && (s.face h (sideAt k r.1)).skip) := by
  unfold sideSeen
  dsimp only
  cases (s.leaf h (sideAt k r.1).leaf).valid <;> rfl

theorem valid_sideSeen : (sideSeen s h k r).valid = (s.leaf h (sideAt k r.1).leaf).valid := by
  unfold sideSeen
  dsimp only
  cases (s.leaf h (sideAt k r.1).leaf).valid <;> rfl

theorem generation_sideSeen (hv : (s.leaf h (sideAt k r.1).leaf).valid = true) : (sideSeen s h k r).generation =
    ((s.face h (sideAt k r.1)).panel r.2).generation := by
  rw [sideSeen, hv]
  rfl

theorem owner_sideSeen : (sideSeen s h k r).owner h = panelAt h k r.1 r.2 := by
  rw [SideView.owner, side_sideSeen, panel_sideSeen]
  rfl

end Views

/-! ### Slots available (R31, R32) -/

theorem countP_or {α : Type} {p q : α → Bool} (hd : ∀ a, p a = true → q a = false) (l : List α) :
    l.countP (fun a => p a || q a) = l.countP p + l.countP q := by
  induction l with
  | nil => rfl
  | cons a l ih =>
    rw [List.countP_cons, List.countP_cons, List.countP_cons, ih]
    cases hp : p a with
    | true => simp [hd a hp]; omega
    | false => cases q a <;> simp <;> omega

/-- A slot that holds one of some panels undecided. -/
def heldFor (x : Slot) (owners : List Owner) : Bool :=
  x.state == .provisional && owners.any fun o => x.owner == some o

theorem availableFor_eq (x : Slot) (owners : List Owner) :
    x.availableFor owners = (x.state == .free || heldFor x owners) := rfl

theorem heldFor_cons (x : Slot) (o : Owner) (os : List Owner) :
    heldFor x (o :: os) = ((x.state == .provisional && x.owner == some o) || heldFor x os) := by
  rw [heldFor, heldFor, List.any_cons, Bool.and_or_distrib_left]

theorem length_heldSlots (s : State) (o : Owner) :
    (s.heldSlots o).length = allSlots.countP fun i => (s.slot i).state == .provisional && (s.slot i).owner == some o := by
  rw [State.heldSlots, List.countP_eq_length_filter]
  congr 1

theorem countP_heldFor (s : State) {owners : List Owner} (hn : owners.Nodup) :
    allSlots.countP (fun i => heldFor (s.slot i) owners) = (owners.map fun o => (s.heldSlots o).length).sum := by
  induction owners with
  | nil =>
    rw [List.countP_eq_zero.2 fun i _ => by simp [heldFor]]
    rfl
  | cons o os ih =>
    obtain ⟨ho, hos⟩ := List.nodup_cons.1 hn
    rw [List.map_cons, List.sum_cons, ← ih hos, length_heldSlots, ← countP_or]
    · exact congrArg (fun p => allSlots.countP p) (funext fun i => heldFor_cons _ _ _)
    · intro i hi
      obtain ⟨-, hi⟩ := Bool.and_eq_true_iff.1 hi
      refine eq_false_of_ne_true fun hb => ?_
      obtain ⟨-, hb⟩ := Bool.and_eq_true_iff.1 hb
      obtain ⟨o', hmem, ho'⟩ := List.any_eq_true.1 hb
      exact ho (Option.some.inj ((beq_iff_eq.1 ho').symm.trans (beq_iff_eq.1 hi)) ▸ hmem)

theorem freeCount_eq (s : State) : s.freeCount = allSlots.countP fun i => (s.slot i).state == .free := rfl

/-- The slot check counts the slots a start could take. -/
theorem available_eq (s : State) (h : Handle) {vs : List SideView} (hn : (vs.map (·.owner h)).Nodup) :
    s.available h vs = allSlots.countP fun i => (s.slot i).availableFor (vs.map (·.owner h)) := by
  have held := countP_heldFor s hn
  rw [List.map_map] at held
  have split := countP_or (p := fun i => (s.slot i).state == .free)
    (q := fun i => heldFor (s.slot i) (vs.map (·.owner h))) (fun i hi => by
      rw [heldFor, beq_iff_eq.1 hi]
      rfl) allSlots
  rw [State.available, freeCount_eq]
  exact (congrArg (_ + ·) held.symm).trans split.symm

/-! ### The requests (R107) -/

theorem requestsOf_nodup (sides left right : Nat) : ((requestsOf sides left right).map Prod.fst).Nodup := by
  unfold requestsOf
  split <;> simp

theorem panelAt_inj {h : Handle} {k : Nat} {p q : Head} {m n : Nat} (e : panelAt h k p m = panelAt h k q n) : p = q := by
  have hf := congrArg Owner.face e
  cases p <;> cases q <;> first | rfl | cases hf

theorem owners_nodup {h : Handle} {k : Nat} {rs : List (Head × Nat)} (hn : (rs.map Prod.fst).Nodup) :
    (rs.map fun r => panelAt h k r.1 r.2).Nodup := by
  induction rs with
  | nil => exact List.nodup_nil
  | cons r rs ih =>
    obtain ⟨hr, hrs⟩ := List.nodup_cons.1 hn
    refine List.nodup_cons.2 ⟨fun hmem => ?_, ih hrs⟩
    obtain ⟨q, hq, e⟩ := List.mem_map.1 hmem
    exact hr (List.mem_map.2 ⟨q, hq, panelAt_inj e⟩)

/-! ### Doses (R92, R93, R108) -/

/-- A lit position of a requested side. -/
def litAt (s : State) (h : Handle) (k : Nat) (r : Head × Nat) : LitPosition :=
  ⟨r.1, (s.face h (sideAt k r.1)).dose, s.light.settings.latch r.1⟩

theorem readDoses_of_clean {s : State} {h : Handle} {k : Nat} {rs : List (Head × Nat)}
    (hl : ∀ r ∈ rs, s.cleanLeaf h (sideAt k r.1).leaf) :
    s.readDoses h (rs.map (sideSeen s h k)) = ((true, rs.map (litAt s h k)), s) := by
  induction rs with
  | nil => rfl
  | cons r rs ih =>
    have hr := hl r List.mem_cons_self
    have read : s.readLeaf h (sideSeen s h k r).side.leaf [.dose (sideSeen s h k r).side.face] = (true, s) := by
      rw [side_sideSeen]
      exact readLeaf_of_clean hr.1 hr.2 _
    rw [List.map_cons, State.readDoses, read]
    dsimp only
    rw [ih fun r hr => hl r (List.mem_cons_of_mem _ hr), head_sideSeen, side_sideSeen]
    rfl

end Sys2Proof.Proofs
end

section
/-! SUPPORT. EXPOSE's tests in their order (R107, R108, R92, R93, R33). -/
namespace Sys2Proof.Proofs
open Sys2Proof.Machine Sys2Proof.Laws

/-! ### Tests 1 to 5 -/

theorem expose_of_running {s : State} (hr : s.run.state ≠ .idle) (a b c : Nat) :
    expose a b c s = (.refused .runActive, s.countRequest) := by
  rw [expose]
  exact if_pos hr

/-- What EXPOSE answers to the outcome of its attempt (R109). -/
def exposeReply : Attempt → Reply
  | .refused r => .refused r
  | .started slots => .accepted (num16 (sidesWord slots) ++ [slotWord slots.left, slotWord slots.right])

theorem expose_of_idle {s : State} (hr : s.run.state = .idle) (a b c : Nat) :
    expose a b c s =
      (exposeReply (s.countRequest.attemptExposure (requestsOf a b c)).1,
       (s.countRequest.attemptExposure (requestsOf a b c)).2) := by
  rw [expose]
  refine (if_neg fun h => h hr).trans ?_
  rcases s.countRequest.attemptExposure (requestsOf a b c) with ⟨- | -, t⟩ <;> rfl

section Attempt
variable {s : State} {rs : List (Head × Nat)}

theorem attemptExposure_of_noVolume (ha : s.active = none) : s.attemptExposure rs = (.refused .noVolume, s) := by
  rw [State.attemptExposure, ha]

variable {h : Handle} (hc : (s.vol h).errors.single = 0) (ha : s.active = some h) (hp : s.cradle.parityGood = true)
include hc ha hp

theorem attemptExposure_of_good : s.attemptExposure rs =
    if s.cradle.state ≠ .ready then (.refused .cradleState, s)
    else if s.inFlight then (.refused .exposureInFlight, { s with overlap := true })
    else if (s.vol h).uncertain then (.refused .openingUncertain, s)
    else s.attemptSides h rs := by
  simp only [State.attemptExposure, ha, readVolume_of_clean hc, hp, Bool.true_eq_false, if_false]

theorem attemptExposure_of_unready (hs : s.cradle.state ≠ .ready) :
    s.attemptExposure rs = (.refused .cradleState, s) :=
  (attemptExposure_of_good hc ha hp).trans (if_pos hs)

variable (hs : s.cradle.state = .ready)
include hs

theorem attemptExposure_of_flying (hf : s.inFlight = true) :
    s.attemptExposure rs = (.refused .exposureInFlight, { s with overlap := true }) :=
  (attemptExposure_of_good hc ha hp).trans ((if_neg fun h => h hs).trans (if_pos hf))

variable (hf : s.inFlight = false)
include hf

theorem attemptExposure_of_uncertain (hu : (s.vol h).uncertain = true) :
    s.attemptExposure rs = (.refused .openingUncertain, s) :=
  (attemptExposure_of_good hc ha hp).trans ((if_neg fun h => h hs).trans
    ((if_neg (by rw [hf]; exact Bool.false_ne_true)).trans (if_pos hu)))

theorem attemptExposure_of_certain (hu : (s.vol h).uncertain = false) :
    s.attemptExposure rs = s.attemptSides h rs :=
  (attemptExposure_of_good hc ha hp).trans ((if_neg fun h => h hs).trans
    ((if_neg (by rw [hf]; exact Bool.false_ne_true)).trans (if_neg (by rw [hu]; exact Bool.false_ne_true))))

end Attempt

/-! ### Tests 6 to 11, of sides whose records have no bit error -/

/-- The requests that are left when the sides marked skipped have dropped out. -/
def requestsLeft (s : State) (h : Handle) (k : Nat) (asked : List (Head × Nat)) : List (Head × Nat) :=
  asked.filter fun r => !((s.leaf h (sideAt k r.1).leaf).valid && (s.face h (sideAt k r.1)).skip)

/-- A request of no side, or of a panel its side does not have. -/
def badRequest (s : State) (h : Handle) (k : Nat) (asked : List (Head × Nat)) : Prop :=
  asked = [] ∨ ∃ r ∈ asked, r.2 < 1 ∨
    (if (s.leaf h (sideAt k r.1).leaf).valid then (s.face h (sideAt k r.1)).declared else 4) < r.2

section Sides
variable {s : State} {h : Handle} {asked : List (Head × Nat)}

theorem filter_sideSeen (k : Nat) :
    (asked.map (sideSeen s h k)).filter (fun v => !v.skip) = (requestsLeft s h k asked).map (sideSeen s h k) := by
  rw [List.filter_map, requestsLeft]
  congr 2
  funext r
  exact congrArg not (skip_sideSeen s h k r)

theorem badRequest_iff {k : Nat} (hne : asked ≠ []) :
    (asked.map (sideSeen s h k)).any (fun v => decide (v.panel < 1) || decide (v.declared < v.panel)) = true ↔
      badRequest s h k asked := by
  rw [badRequest, or_iff_right hne, List.any_map, List.any_eq_true]
  refine exists_congr fun r => and_congr_right fun _ => ?_
  rw [Function.comp_apply, Bool.or_eq_true, decide_eq_true_iff, decide_eq_true_iff, panel_sideSeen, declared_sideSeen]

theorem attemptSides_of_noSide : s.attemptSides h [] = (.refused .badParam, s) := if_pos rfl

variable (hne : asked ≠ []) (hl : ∀ r ∈ asked, (s.leaf h (sideAt (s.vol h).opening r.1).leaf).valid = true →
    (s.leaf h (sideAt (s.vol h).opening r.1).leaf).errors = [])
include hne hl

theorem attemptSides_of_clean : s.attemptSides h asked =
    let vs := asked.map (sideSeen s h (s.vol h).opening)
    let rest := (requestsLeft s h (s.vol h).opening asked).map (sideSeen s h (s.vol h).opening)
    if vs.any (fun v => decide (v.panel < 1) || decide (v.declared < v.panel)) then (.refused .badParam, s)
    else if rest = [] then (.refused .nothingToCapture, s)
    else if rest.any (fun v => !v.valid) then (.refused .recordDamaged, s)
    else if rest.any (fun v => decide (255 ≤ v.generation)) then (.refused .generationLimit, s)
    else s.attemptRemaining h rest := by
  rw [State.attemptSides, viewSides_of_clean hl]
  refine (if_neg hne).trans ?_
  dsimp only
  rw [filter_sideSeen]

theorem attemptSides_of_bad (hb : badRequest s h (s.vol h).opening asked) :
    s.attemptSides h asked = (.refused .badParam, s) :=
  (attemptSides_of_clean hne hl).trans (if_pos ((badRequest_iff hne).2 hb))

variable (hb : ¬badRequest s h (s.vol h).opening asked)
include hb

theorem attemptSides_of_nothing (hr : requestsLeft s h (s.vol h).opening asked = []) :
    s.attemptSides h asked = (.refused .nothingToCapture, s) :=
  (attemptSides_of_clean hne hl).trans ((if_neg (mt (badRequest_iff hne).1 hb)).trans
    (if_pos (congrArg (List.map _) hr)))

variable (hr : requestsLeft s h (s.vol h).opening asked ≠ [])
include hr

theorem attemptSides_of_rest : s.attemptSides h asked =
    let rest := (requestsLeft s h (s.vol h).opening asked).map (sideSeen s h (s.vol h).opening)
    if rest.any (fun v => !v.valid) then (.refused .recordDamaged, s)
    else if rest.any (fun v => decide (255 ≤ v.generation)) then (.refused .generationLimit, s)
    else s.attemptRemaining h rest :=
  (attemptSides_of_clean hne hl).trans ((if_neg (mt (badRequest_iff hne).1 hb)).trans
    (if_neg (mt List.map_eq_nil_iff.1 hr)))

theorem attemptSides_of_damaged (hd : ∃ r ∈ requestsLeft s h (s.vol h).opening asked,
      (s.leaf h (sideAt (s.vol h).opening r.1).leaf).valid = false) :
    s.attemptSides h asked = (.refused .recordDamaged, s) := by
  obtain ⟨r, hmem, hv⟩ := hd
  refine (attemptSides_of_rest hne hl hb hr).trans (if_pos (List.any_eq_true.2 ⟨_, List.mem_map_of_mem hmem, ?_⟩))
  rw [valid_sideSeen, hv]
  rfl

variable (hv : ∀ r ∈ requestsLeft s h (s.vol h).opening asked,
  (s.leaf h (sideAt (s.vol h).opening r.1).leaf).valid = true)
include hv

theorem attemptSides_of_valid : s.attemptSides h asked =
    let rest := (requestsLeft s h (s.vol h).opening asked).map (sideSeen s h (s.vol h).opening)
    if rest.any (fun v => decide (255 ≤ v.generation)) then (.refused .generationLimit, s)
    else s.attemptRemaining h rest := by
  refine (attemptSides_of_rest hne hl hb hr).trans (if_neg fun hany => ?_)
  obtain ⟨v, hmem, hno⟩ := List.any_eq_true.1 hany
  obtain ⟨r, hr, rfl⟩ := List.mem_map.1 hmem
  rw [valid_sideSeen, hv r hr] at hno
  cases hno

theorem attemptSides_of_spent (hg : ∃ r ∈ requestsLeft s h (s.vol h).opening asked,
      255 ≤ ((s.face h (sideAt (s.vol h).opening r.1)).panel r.2).generation) :
    s.attemptSides h asked = (.refused .generationLimit, s) := by
  obtain ⟨r, hmem, hg⟩ := hg
  refine (attemptSides_of_valid hne hl hb hr hv).trans (if_pos (List.any_eq_true.2 ⟨_, List.mem_map_of_mem hmem, ?_⟩))
  rw [generation_sideSeen _ _ _ _ (hv r hmem)]
  exact decide_eq_true hg

theorem attemptSides_of_fresh (hg : ∀ r ∈ requestsLeft s h (s.vol h).opening asked,
      ((s.face h (sideAt (s.vol h).opening r.1)).panel r.2).generation < 255) :
    s.attemptSides h asked = s.attemptRemaining h
      ((requestsLeft s h (s.vol h).opening asked).map (sideSeen s h (s.vol h).opening)) := by
  refine (attemptSides_of_valid hne hl hb hr hv).trans (if_neg fun hany => ?_)
  obtain ⟨v, hmem, hno⟩ := List.any_eq_true.1 hany
  obtain ⟨r, hr, rfl⟩ := List.mem_map.1 hmem
  rw [generation_sideSeen _ _ _ _ (hv r hr)] at hno
  exact Nat.not_le_of_lt (hg r hr) (of_decide_eq_true hno)

end Sides

section Remaining
variable {s : State} {h : Handle} {k : Nat} {rest : List (Head × Nat)} (hn : (rest.map Prod.fst).Nodup)
include hn

/-- The owners that the remaining sides' captures would have. -/
theorem available_rest : s.available h (rest.map (sideSeen s h k)) =
    allSlots.countP fun i => (s.slot i).availableFor (rest.map fun r => panelAt h k r.1 r.2) := by
  have owners : (rest.map (sideSeen s h k)).map (·.owner h) = rest.map fun r => panelAt h k r.1 r.2 := by
    rw [List.map_map]
    exact List.map_congr_left fun r _ => owner_sideSeen s h k r
  rw [available_eq s h (by rw [owners]; exact owners_nodup hn), owners]

theorem attemptRemaining_of_full
    (hf : (allSlots.countP fun i => (s.slot i).availableFor (rest.map fun r => panelAt h k r.1 r.2)) < rest.length) :
    s.attemptRemaining h (rest.map (sideSeen s h k)) = (.refused .slotsFull, { s with full := true }) := by
  rw [State.attemptRemaining, available_rest hn, List.length_map]
  exact if_pos hf

variable (hf : ¬(allSlots.countP fun i => (s.slot i).availableFor (rest.map fun r => panelAt h k r.1 r.2)) < rest.length)
  (hl : ∀ r ∈ rest, s.cleanLeaf h (sideAt k r.1).leaf)
include hf hl

theorem attemptRemaining_of_dosed (hd : doseRefused (s.vol h) (rest.map (litAt s h k)) = true) :
    s.attemptRemaining h (rest.map (sideSeen s h k)) =
      (.refused .doseLimit, { s with light := { s.light with
        lastRefusal := some (doseRefusal (s.vol h) (rest.map (litAt s h k))) } }) := by
  rw [State.attemptRemaining, available_rest hn, List.length_map, readDoses_of_clean hl]
  exact (if_neg hf).trans (if_pos hd)

theorem attemptRemaining_of_ok (hd : doseRefused (s.vol h) (rest.map (litAt s h k)) = false) :
    s.attemptRemaining h (rest.map (sideSeen s h k)) =
      (.started (s.startExposure h (rest.map (sideSeen s h k))).1, (s.startExposure h (rest.map (sideSeen s h k))).2) := by
  rw [State.attemptRemaining, available_rest hn, List.length_map, readDoses_of_clean hl]
  exact (if_neg hf).trans (if_neg (by rw [hd]; exact Bool.false_ne_true))

end Remaining

/-! ### The record of a refusal (R93) -/

theorem find_head {ps : List LitPosition} (hn : (ps.map (·.head)).Nodup) {p : LitPosition} (hp : p ∈ ps) :
    ps.find? (fun q => q.head = p.head) = some p := by
  induction ps with
  | nil => cases hp
  | cons q ps ih =>
    obtain ⟨hq, hps⟩ := List.nodup_cons.1 hn
    rcases List.mem_cons.1 hp with rfl | hp
    · exact List.find?_cons_of_pos (decide_eq_true rfl)
    · have hne : ¬q.head = p.head := fun e => hq (List.mem_map.2 ⟨p, hp, e.symm⟩)
      rw [List.find?_cons_of_neg (by simpa using hne), ih hps hp]

theorem positionFigures_of_mem {ps : List LitPosition} (hn : (ps.map (·.head)).Nodup) {p : LitPosition} (hp : p ∈ ps) :
    positionFigures ps p.head = some (p.latch.planned, p.dose + p.latch.planned) := by
  rw [positionFigures, find_head hn hp]
  rfl

theorem positionFigures_of_none {ps : List LitPosition} {h : Head} (hh : ∀ p ∈ ps, p.head ≠ h) :
    positionFigures ps h = none := by
  rw [positionFigures, List.find?_eq_none.2 fun p hp => by simpa using hh p hp]
  rfl

theorem positions_doseRefusal (v : Volume) (ps : List LitPosition) (h : Head) :
    (doseRefusal v ps).positions.get h = positionFigures ps h := by cases h <;> rfl

theorem heads_litAt (s : State) (h : Handle) (k : Nat) (rs : List (Head × Nat)) :
    (rs.map (litAt s h k)).map (·.head) = rs.map Prod.fst := by
  rw [List.map_map]
  rfl

/-! ### The obligation -/

theorem requestsOf_of_above {n : Nat} (hn : 3 < n) (left right : Nat) : requestsOf n left right = [] :=
  match n, hn with
  | _ + 4, _ => rfl

/-- Settles O42: each test refuses in its turn, by the views of the sides asked for. -/
theorem exposeIsTested : Obligations.ExposeIsTested := by
  refine ⟨?first, ?second,
    fun left right => ⟨rfl, rfl, rfl, rfl, fun n hn => requestsOf_of_above hn left right⟩⟩
  case first =>
    intro s sides left right hi hc refused
    let x := (s.taking .station 3).countRequest
    have hx := exec_expose hi sides left right
    have attempt {r : Reason} {t : State} (hr : s.run.state = .idle)
        (ha : x.attemptExposure (requestsOf sides.toNat left.toNat right.toNat) = (.refused r, t)) :
        exec (.expose sides left right) s =
          .next { t.modLink .station (·.answer (.refused r)) with skippedNow := [] } :=
      exec_of_effect hc hx ((expose_of_idle (s := s.taking .station 3) hr _ _ _).trans
        (congrArg (fun p : Attempt × State => (exposeReply p.1, p.2)) ha))
    refine ⟨fun hr => exec_of_effect hc hx (expose_of_running (s := s.taking .station 3) hr _ _ _),
      fun hr ha => attempt hr (attemptExposure_of_noVolume (s := x) ha), fun h hr ha hp => ⟨fun hs => ?_,
        fun hs hf => ?_, fun hs hf hu => ?_⟩⟩
    · exact attempt hr (attemptExposure_of_unready (s := x) (vol_clean hc h) ha hp hs)
    · exact attempt hr (attemptExposure_of_flying (s := x) (vol_clean hc h) ha hp hs hf)
    · exact attempt hr (attemptExposure_of_uncertain (s := x) (vol_clean hc h) ha hp hs hf hu)
  case second =>
    intro s h sides left right ready hc k asked leafOf faceOf declared rest badParam damaged spent full lit refused hl
    let x := (s.taking .station 3).countRequest
    have attempt {r : Reason} {t : State} (ha : x.attemptSides h asked = (.refused r, t)) :
        exec (.expose sides left right) s =
          .next { t.modLink .station (·.answer (.refused r)) with skippedNow := [] } :=
      exec_of_effect hc (exec_expose ready.running sides left right)
        ((expose_of_idle (s := s.taking .station 3) ready.idle _ _ _).trans
          (congrArg (fun p : Attempt × State => (exposeReply p.1, p.2))
            ((attemptExposure_of_certain (s := x) (vol_clean hc h) ready.active ready.parity ready.ready ready.free
              ready.certain).trans ha)))
    have hheads : (rest.map Prod.fst).Nodup :=
      (List.Sublist.map _ List.filter_sublist).nodup (requestsOf_nodup _ _ _)
    have valid (hd : ¬damaged) : ∀ r ∈ rest, (leafOf r.1).valid = true := fun r hr =>
      eq_true_of_ne_false fun hv => hd ⟨r, hr, hv⟩
    have clean (hd : ¬damaged) : ∀ r ∈ rest, s.cleanLeaf h (sideAt k r.1).leaf := fun r hr =>
      ⟨valid hd r hr, hl r (List.mem_filter.1 hr).1 (valid hd r hr)⟩
    have fresh (hg : ¬spent) : ∀ r ∈ rest, ((faceOf r.1).panel r.2).generation < 255 := fun r hr =>
      Nat.lt_of_not_le fun h255 => hg ⟨r, hr, h255⟩
    have asks (hb : ¬badParam) : asked ≠ [] := fun he => hb (.inl he)
    refine ⟨fun hb => ?_, fun hb hr => ?_, fun hb hr hd => ?_, fun hb hr hd hg => ?_, fun hb hr hd hg hf => ?_,
      fun hb hr hd hg hf hdose => ?_⟩
    · by_cases hne : asked = []
      · exact attempt (by rw [hne]; exact attemptSides_of_noSide)
      · exact attempt (attemptSides_of_bad (s := x) hne hl hb)
    · exact attempt (attemptSides_of_nothing (s := x) (asks hb) hl hb hr)
    · exact attempt (attemptSides_of_damaged (s := x) (asks hb) hl hb hr hd)
    · exact attempt (attemptSides_of_spent (s := x) (asks hb) hl hb hr (valid hd) hg)
    · exact attempt ((attemptSides_of_fresh (s := x) (asks hb) hl hb hr (valid hd) (fresh hg)).trans
        (attemptRemaining_of_full (s := x) hheads hf))
    · have hnodup : (lit.map (·.head)).Nodup :=
        (congrArg List.Nodup (heads_litAt s h k rest)).mpr hheads
      refine ⟨doseRefusal (s.vol h) lit, attempt ((attemptSides_of_fresh (s := x) (asks hb) hl hb hr (valid hd)
        (fresh hg)).trans (attemptRemaining_of_dosed (s := x) hheads hf (clean hd) hdose)), positionFails_iff,
        positionFails_iff, decide_eq_true_iff, fun p hp => ?_, fun p hp => ?_, rfl, rfl, rfl, rfl⟩
      · rw [positions_doseRefusal, positionFigures_of_mem hnodup hp]
      · rw [positions_doseRefusal, positionFigures_of_none hp]

end Sys2Proof.Proofs
end

section
/-! SUPPORT. The sensor ports' lines and samples (R104, R111, R116 to R119, R125, R130, R131). -/
namespace Sys2Proof.Proofs
open Sys2Proof.Machine Sys2Proof.Laws

/-! ### One head's half of the pipeline -/

theorem modHead_eq (s : State) (h : Head) (f : HeadUnit → HeadUnit) :
    s.modHead h f = { s with heads := s.heads.set h (f (s.head h)) } := rfl

theorem modHead_modHead (s : State) (h : Head) (f g : HeadUnit → HeadUnit) :
    (s.modHead h f).modHead h g = s.modHead h fun u => g (f u) := by
  simp only [State.modHead, PerHead_get_set_same, PerHead_set_set]

theorem head_modHead_same (s : State) (h : Head) (f : HeadUnit → HeadUnit) : (s.modHead h f).head h = f (s.head h) :=
  PerHead_get_set_same _ _ _

theorem modHead_of_heads {s t : State} {h : Head} {u : HeadUnit} (ht : t.heads = s.heads.set h u)
    (f : HeadUnit → HeadUnit) : t.modHead h f = { t with heads := s.heads.set h (f u) } := by
  rw [State.modHead, ht, PerHead_get_set_same, PerHead_set_set]

theorem atCapture_of_idle {s : State} {h : Head} (hi : (s.head h).phase = .idle)
    (event : CaptureRecord → Snapshot → State) : s.atCapture h event = s := by
  rw [State.atCapture, hi]

theorem atCapture_of_capturing {s : State} {h : Head} {c : CaptureRecord} {snap : Snapshot}
    (hp : (s.head h).phase = .capturing) (hc : (s.head h).capture = some c) (hs : (s.head h).snapshot = some snap)
    (event : CaptureRecord → Snapshot → State) : s.atCapture h event = event c snap := by
  rw [State.atCapture, hp, hc, hs]

/-! ### Line starts and line ends (R111) -/

theorem not_overlong {c : CaptureRecord} {snap : Snapshot} (hl : c.lines < snap.correction.h) :
    ¬overlongLine c snap = true := fun h => Nat.not_le_of_lt hl (of_decide_eq_true h)

section Lines
variable {s : State} {h : Head} {c : CaptureRecord} {snap : Snapshot} (hp : (s.head h).phase = .capturing)
  (hc : (s.head h).capture = some c) (hs : (s.head h).snapshot = some snap)
include hp hc hs

theorem lineStart_of_between (ho : (s.head h).port = .between) :
    lineStart h s = s.modHead h fun u =>
      { u with
        port := .inLine 0, lineBuffer := []
        capture := some { c with overlong := c.overlong || overlongLine c snap } } := by
  rw [lineStart, atCapture_of_capturing hp hc hs, ho]

theorem lineStart_of_inLine {n : Nat} (ho : (s.head h).port = .inLine n) :
    lineStart h s = s.headError h .lineLength := by
  rw [lineStart, atCapture_of_capturing hp hc hs, ho]

theorem lineEnd_of_between (ho : (s.head h).port = .between) : lineEnd h s = s.headError h .lineLength := by
  rw [lineEnd, atCapture_of_capturing hp hc hs, ho]

theorem sample_of_between (ho : (s.head h).port = .between) (v : Nat) :
    sample h v s = s.headError h .lineLength := by
  rw [sample, atCapture_of_capturing hp hc hs, ho]

variable {n : Nat} (ho : (s.head h).port = .inLine n)
include ho

theorem lineEnd_of_inLine : lineEnd h s =
    if overlongLine c snap then s.setPort h .between
    else if n = snap.lineSamples then s.completeLine h c snap
    else s.headError h .lineLength := by
  rw [lineEnd, atCapture_of_capturing hp hc hs, ho]

theorem sample_of_inLine (v : Nat) : sample h v s =
    if overlongLine c snap then s.setPort h (.inLine (n + 1))
    else if snap.lineSamples < n + 1 then s.headError h .lineLength
    else (s.setPort h (.inLine (n + 1))).takeSample h c.kind snap n v := by
  rw [sample, atCapture_of_capturing hp hc hs, ho]

theorem lineEnd_of_overlong (hl : snap.correction.h ≤ c.lines) : lineEnd h s = s.setPort h .between :=
  (lineEnd_of_inLine hp hc hs ho).trans (if_pos (decide_eq_true hl))

theorem sample_of_overlong (hl : snap.correction.h ≤ c.lines) (v : Nat) :
    sample h v s = s.setPort h (.inLine (n + 1)) :=
  (sample_of_inLine hp hc hs ho v).trans (if_pos (decide_eq_true hl))

variable (hl : c.lines < snap.correction.h)
include hl

theorem lineEnd_of_complete (hn : n = snap.lineSamples) : lineEnd h s = s.completeLine h c snap :=
  (lineEnd_of_inLine hp hc hs ho).trans ((if_neg (not_overlong hl)).trans (if_pos hn))

theorem lineEnd_of_misshapen (hn : n ≠ snap.lineSamples) : lineEnd h s = s.headError h .lineLength :=
  (lineEnd_of_inLine hp hc hs ho).trans ((if_neg (not_overlong hl)).trans (if_neg hn))

theorem sample_of_beyond (hn : snap.lineSamples < n + 1) (v : Nat) : sample h v s = s.headError h .lineLength :=
  (sample_of_inLine hp hc hs ho v).trans ((if_neg (not_overlong hl)).trans (if_pos hn))

theorem sample_of_within (hn : n < snap.lineSamples) (v : Nat) :
    sample h v s = (s.setPort h (.inLine (n + 1))).takeSample h c.kind snap n v :=
  (sample_of_inLine hp hc hs ho v).trans ((if_neg (not_overlong hl)).trans
    (if_neg (Nat.not_lt_of_le hn)))

end Lines

/-! ### Samples (R117 to R119, R125, R130, R131) -/

theorem channelAt_eq (n : Nat) : channelAt n = if n % 3 = 0 then .r else if n % 3 = 1 then .g else .b := by
  unfold channelAt
  have := Nat.mod_lt n (show 0 < 3 by decide)
  rcases n % 3 with - | - | - | m <;> rfl

theorem takeSample_of_masked {s : State} {h : Head} {kind : CaptureKind} {snap : Snapshot} {n : Nat} (hn : n < 96)
    (v : Nat) : s.takeSample h kind snap n v =
      s.modHead h fun u => { u with darkSums := u.darkSums.add (channelAt n) v } := if_pos hn

section Active
variable {s : State} {h : Head} {snap : Snapshot} {n : Nat} (hn : 96 ≤ n) (v : Nat)
include hn

theorem takeSample_of_normal : s.takeSample h .normal snap n v =
    s.correctSample h snap (channelAt n) ((n - 96) / 3) v := if_neg (Nat.not_lt_of_le hn)

theorem takeSample_of_dark : s.takeSample h .dark snap n v =
    s.modHead h fun u => { u with activeSums := u.activeSums.add (channelAt n) v } := if_neg (Nat.not_lt_of_le hn)

theorem takeSample_of_flat : s.takeSample h .flat snap n v =
    s.modHead h fun u => u.flatSample snap (channelAt n) (n - 96) v := if_neg (Nat.not_lt_of_le hn)

end Active

section Gain
variable {s : State} {h : Head} {ch : Channel} {x : Nat}

theorem gainFor_of_good (he : (s.gainEntry (gainKey h ch x)).error = none) :
    s.gainFor h ch x = ((s.gainEntry (gainKey h ch x)).value.toNat, s) := by
  simp only [State.gainFor, State.readGain, he]

theorem gainFor_of_single (he : (s.gainEntry (gainKey h ch x)).error = some .single) :
    s.gainFor h ch x = ((s.gainEntry (gainKey h ch x)).value.toNat,
      (s.setGain (gainKey h ch x) { s.gainEntry (gainKey h ch x) with error := none }).recovered .recoveredGain 1) := by
  simp only [State.gainFor, State.readGain, he]

theorem gainFor_of_uncorrectable (he : (s.gainEntry (gainKey h ch x)).error = some .uncorrectable) :
    s.gainFor h ch x = (16384, (s.modHead h HeadUnit.substituted).report
       { FaultRecord.plain .gainSubstitute with head := some h, channel := some ch, column := some x }) := by
  simp only [State.gainFor, State.readGain, he]
  rfl

end Gain

/-- A clip counted in the capture of a head. -/
theorem clipIf_eq {u : HeadUnit} {c : CaptureRecord} (hc : u.capture = some c) (b : Bool) :
    u.clipIf b = { u with capture := some { c with clipCount := c.clipCount + if b then 1 else 0 } } := by
  cases b with
  | true => rw [HeadUnit.clipIf, hc]; rfl
  | false => exact (congrArg (fun x => { u with capture := x }) hc : { u with capture := u.capture } = _)

/-- A head after an active sample of a NORMAL capture, corrected with a gain (R117 to R119). -/
def corrected (u : HeadUnit) (snap : Snapshot) (ch : Channel) (v g : Nat) : HeadUnit :=
  let s2 := gainResult (flooredSample v snap.correction.offset (darkLevel snap.correction snap.running ch)) g
  { u.clipIf (isClipped v s2) with lineBuffer := BitVec.ofNat 16 (storedValue s2) :: u.lineBuffer }

section Correct
variable {s : State} {h : Head} {snap : Snapshot} {ch : Channel} {x : Nat} (v : Nat)

theorem correctSample_of_good (he : (s.gainEntry (gainKey h ch x)).error = none) :
    s.correctSample h snap ch x v =
      s.modHead h (corrected · snap ch v (s.gainEntry (gainKey h ch x)).value.toNat) := by
  rw [State.correctSample, gainFor_of_good he]
  rfl

theorem correctSample_of_single (he : (s.gainEntry (gainKey h ch x)).error = some .single) :
    s.correctSample h snap ch x v =
      ((s.setGain (gainKey h ch x) { s.gainEntry (gainKey h ch x) with error := none }).recovered
        .recoveredGain 1).modHead h (corrected · snap ch v (s.gainEntry (gainKey h ch x)).value.toNat) := by
  rw [State.correctSample, gainFor_of_single he]
  rfl

theorem correctSample_of_uncorrectable (he : (s.gainEntry (gainKey h ch x)).error = some .uncorrectable) :
    s.correctSample h snap ch x v =
      ((s.modHead h HeadUnit.substituted).report
        { FaultRecord.plain .gainSubstitute with head := some h, channel := some ch, column := some x }).modHead h
        (corrected · snap ch v 16384) := by
  rw [State.correctSample, gainFor_of_uncorrectable he]
  rfl

end Correct

theorem clipped_eq (r s2 : Nat) : (if isClipped r s2 then 1 else 0) = if r = 4095 ∨ 65535 < s2 then 1 else 0 := by
  simp only [isClipped, Bool.or_eq_true, decide_eq_true_eq]

theorem corrected_eq {u : HeadUnit} {c : CaptureRecord} (hc : u.capture = some c) (snap : Snapshot) (ch : Channel)
    (v g : Nat) : corrected u snap ch v g =
      let s2 := (min (v + snap.correction.offset - darkLevel snap.correction snap.running ch) 4095 * g + 512) / 1024
      { u with
        lineBuffer := BitVec.ofNat 16 (min s2 65535) :: u.lineBuffer
        capture := some { c with clipCount := c.clipCount + (if v = 4095 ∨ 65535 < s2 then 1 else 0) } } := by
  rw [corrected, clipIf_eq hc, clipped_eq]
  rfl

theorem flatSample_eq {u : HeadUnit} {c : CaptureRecord} (hc : u.capture = some c) (snap : Snapshot) (ch : Channel)
    (i v : Nat) : u.flatSample snap ch i v =
      { u with
        flatSums := u.flatSums.modify i
          (· + min (v + snap.correction.offset - darkLevel snap.correction snap.running ch) 4095)
        capture := some { c with clipCount := c.clipCount + (if v = 4095 then 1 else 0) } } := by
  rw [HeadUnit.flatSample, clipIf_eq hc]
  simp only [decide_eq_true_eq]
  rfl

/-! ### The obligation -/

/-- Settles O44: each event by the port's line state, the place of the sample in its line and the kind of the
capture. -/
theorem linesAndSamples : Obligations.LinesAndSamples := by
  intro s h v u put same broken
  refine ⟨fun hi => ⟨congrArg done (atCapture_of_idle hi _), congrArg done (atCapture_of_idle hi _),
    congrArg done (atCapture_of_idle hi _)⟩, fun c snap hp hc hs => ?_⟩
  intro k expected
  refine ⟨fun ho => ⟨congrArg done (lineStart_of_between hp hc hs ho), congrArg done (sample_of_between hp hc hs ho _),
    congrArg done (lineEnd_of_between hp hc hs ho)⟩, fun n ho => ?_⟩
  intro ch x key e dark s1 counted
  have hch : channelAt n = ch := channelAt_eq n
  have hdark : darkLevel k snap.running ch = dark := rfl
  have within (hl : c.lines < k.h) (hn : n < expected) :
      exec (.sample h v) s = done ((s.setPort h (.inLine (n + 1))).takeSample h c.kind snap n v.toNat) :=
    congrArg done (sample_of_within hp hc hs ho hl hn _)
  have moved (f : HeadUnit → HeadUnit) :
      done ((s.setPort h (.inLine (n + 1))).modHead h f) = .next (put (f { u with port := .inLine (n + 1) })) := by
    rw [State.setPort, modHead_modHead]
    rfl
  have unit (g : Nat) : corrected { u with port := .inLine (n + 1) } snap ch v.toNat g = counted g :=
    corrected_eq (u := { u with port := .inLine (n + 1) }) hc snap ch v.toNat g
  refine ⟨congrArg done (lineStart_of_inLine hp hc hs ho), fun hl => ⟨congrArg done (sample_of_overlong hp hc hs ho hl _),
    congrArg done (lineEnd_of_overlong hp hc hs ho hl)⟩, fun hl hn => congrArg done (lineEnd_of_misshapen hp hc hs ho hl hn),
    fun hl hn => congrArg done (sample_of_beyond hp hc hs ho hl hn _), fun hl hn => ?masked, fun hl h96 hn hk => ?dark,
    fun hl h96 hn hk => ?flat, fun hl h96 hn hk => ?normal⟩
  case masked =>
    have hle : n < expected := Nat.lt_of_lt_of_le hn (Nat.mul_le_mul_left 3 (Nat.le_add_right 32 _))
    rw [within hl hle, takeSample_of_masked hn, moved, hch]
    rfl
  case dark =>
    rw [within hl hn, hk, takeSample_of_dark h96, moved, hch]
    rfl
  case flat =>
    have sampled : exec (.sample h v) s =
        done ((s.setPort h (.inLine (n + 1))).takeSample h .flat snap n v.toNat) := hk ▸ within hl hn
    rw [sampled, takeSample_of_flat h96, moved, hch]
    exact congrArg (fun x => Host.Outcome.next (put x))
      (flatSample_eq (u := { u with port := .inLine (n + 1) }) (c := c) hc snap ch (n - 96) v.toNat)
  case normal =>
    have sampled : exec (.sample h v) s = done ((s.setPort h (.inLine (n + 1))).correctSample h snap ch x v.toNat) := by
      rw [within hl hn, hk, takeSample_of_normal h96, hch]
    refine ⟨fun he => ?_, fun he canon => ?_, fun he => ?_⟩
    · rw [sampled, correctSample_of_good _ (by exact he), moved, unit]
      rfl
    · have ported : (s.setPort h (.inLine (n + 1))).heads = s.heads.set h { u with port := .inLine (n + 1) } := rfl
      have hx := sampled.trans (congrArg done ((correctSample_of_single v.toNat (by exact he)).trans
        (modHead_of_heads (by exact ported) _)))
      rw [unit] at hx
      refine ⟨_, hx, ?_, fun j hj => ?_, rfl⟩
      · exact (get_set _ _ _ canon.gain).trans (if_pos rfl)
      · exact (get_set _ _ _ canon.gain).trans (if_neg (Ne.symm hj))
    · let w : HeadUnit := HeadUnit.substituted { u with port := .inLine (n + 1) }
      have hw : w.capture = some { c with substitutions := c.substitutions + 1 } :=
        (congrArg (Option.map fun c : CaptureRecord => { c with substitutions := c.substitutions + 1 }) hc :)
      have heads : ((s.setPort h (.inLine (n + 1))).modHead h HeadUnit.substituted).heads = s.heads.set h w := by
        rw [State.setPort, modHead_modHead]
        rfl
      have hx := sampled.trans (congrArg done ((correctSample_of_uncorrectable v.toNat (by exact he)).trans
        (modHead_of_heads (by exact heads) _)))
      rw [corrected_eq hw] at hx
      exact ⟨_, hx, rfl, rfl, rfl⟩

end Sys2Proof.Proofs
end

section
/-! SUPPORT. A complete line written to its slot (R25, R111, R184). -/
namespace Sys2Proof.Proofs
open Sys2Proof.Machine Sys2Proof.Laws

/-! ### The bytes of a line -/

theorem length_sampleBytes (vs : List Word) : (vs.flatMap sampleBytes).length = 2 * vs.length := by
  induction vs with
  | nil => rfl
  | cons v vs ih => rw [List.flatMap_cons, List.length_append, ih, List.length_cons, Nat.mul_succ, Nat.add_comm]; rfl

/-- Two bytes of a line stand for each of its samples, the low one first. -/
theorem getElem?_sampleBytes (vs : List Word) {n : Nat} (hn : n < vs.length) :
    (vs.flatMap sampleBytes)[2 * n]? = some (vs[n].extractLsb' 0 8) ∧
    (vs.flatMap sampleBytes)[2 * n + 1]? = some (vs[n].extractLsb' 8 8) := by
  induction vs generalizing n with
  | nil => cases hn
  | cons v vs ih =>
    cases n with
    | zero => exact ⟨rfl, rfl⟩
    | succ n => exact ih (Nat.lt_of_succ_lt_succ hn)

section Stored
variable {m : List Host.Cell} (hm : Memory.wf m = true) (a : Nat) (vs : List Word)
include hm

theorem readByte_line {n : Nat} (hn : n < vs.length) :
    readByte (writeBytes m a (vs.flatMap sampleBytes)) (a + 2 * n) = vs[n].extractLsb' 0 8 ∧
    readByte (writeBytes m a (vs.flatMap sampleBytes)) (a + 2 * n + 1) = vs[n].extractLsb' 8 8 := by
  obtain ⟨low, high⟩ := getElem?_sampleBytes vs hn
  obtain ⟨hlow, low⟩ := List.getElem?_eq_some_iff.1 low
  obtain ⟨hhigh, high⟩ := List.getElem?_eq_some_iff.1 high
  exact ⟨(readByte_writeBytes_inside _ a _ hm hlow).trans low, (readByte_writeBytes_inside _ a _ hm hhigh).trans high⟩

theorem readByte_outside_line {x : Nat} (hx : x < a ∨ a + 2 * vs.length ≤ x) :
    readByte (writeBytes m a (vs.flatMap sampleBytes)) x = readByte m x :=
  readByte_writeBytes_outside _ a x hm (by rwa [length_sampleBytes])

end Stored

/-! ### The line taken by its head -/

/-- A head that has handed over a complete line (R111, R139). -/
def lineTaken (u : HeadUnit) (c : CaptureRecord) (snap : Snapshot) : HeadUnit :=
  { u with
    port := .between, lineBuffer := [], capture := some { c with lines := c.lines + 1 }
    work := if u.work.measuring then u.work.measure snap.measurement c.lines (graysOf u.lineBuffer.reverse) else u.work }

theorem completeLine_of_noSlot {s : State} {h : Head} {c : CaptureRecord} {snap : Snapshot} (hc : c.slot = none) :
    s.completeLine h c snap = { s with heads := s.heads.set h (lineTaken (s.head h) c snap) } := by
  cases c
  cases hc
  rfl

theorem completeLine_of_slot {s : State} {h : Head} {c : CaptureRecord} {snap : Snapshot} {i : SlotNo}
    (hc : c.slot = some i) : s.completeLine h c snap =
      State.storeLine { s with heads := s.heads.set h (lineTaken (s.head h) c snap) } i c.lines
        (s.head h).lineBuffer.reverse := by
  cases c
  cases hc
  rfl

theorem slot_setSlot_eq (s : State) (i j : SlotNo) (x : Slot) :
    (s.setSlot i x).slot j = if j = i then x else s.slot j := by
  rw [State.slot, State.setSlot]
  by_cases hj : j = i
  · rw [hj, if_pos rfl]
    exact Vector.getElem_set_self i.isLt
  · rw [if_neg hj]
    exact Vector.getElem_set_ne i.isLt j.isLt fun e => hj (Fin.ext e.symm)

theorem sampleAddress_line (i : SlotNo) (l : Nat) : sampleAddress i l 0 0 = i.val * 536870912 + l * 36864 := by
  simp only [sampleAddress, Config.slotBytes, Config.lineStride, Nat.mul_zero, Nat.add_zero]

section Stored
variable {s : State} (canon : s.Canonical) {i : SlotNo} {l : Nat} {vs : List Word} {a : Nat}
  (ha : sampleAddress i l 0 0 = a)
include ha

theorem memory_storeLine : (s.storeLine i l vs).memory = writeBytes s.memory a (vs.flatMap sampleBytes) := by
  rw [← ha]
  rfl

theorem mem_memoryErrors_storeLine (e : Nat × WordErr) : e ∈ (s.storeLine i l vs).memoryErrors ↔
    e ∈ s.memoryErrors ∧ ¬(a ≤ 8 * e.1 ∧ 8 * e.1 < a + 2 * vs.length) := by
  rw [← ha]
  refine List.mem_filter.trans (and_congr_right fun _ => ?_)
  rw [Bool.not_eq_true', Bool.eq_false_iff, ne_eq, Bool.and_eq_true, decide_eq_true_iff, decide_eq_true_iff]

include canon

theorem readByte_storeLine {n : Nat} (hn : n < vs.length) :
    readByte (s.storeLine i l vs).memory (a + 2 * n) = vs[n].extractLsb' 0 8 ∧
    readByte (s.storeLine i l vs).memory (a + 2 * n + 1) = vs[n].extractLsb' 8 8 := by
  rw [memory_storeLine ha]
  exact readByte_line canon.memory a vs hn

theorem readByte_storeLine_outside {x : Nat} (hx : x < a ∨ a + 2 * vs.length ≤ x) :
    readByte (s.storeLine i l vs).memory x = readByte s.memory x := by
  rw [memory_storeLine ha]
  exact readByte_outside_line canon.memory a vs hx

end Stored

theorem slot_storeLine (s : State) (i j : SlotNo) (l : Nat) (vs : List Word) : (s.storeLine i l vs).slot j =
    if j = i then { s.slot i with lines := (s.slot i).lines + 1 } else s.slot j := slot_setSlot_eq s i j _

/-- Settles O45: a complete line of a capture with no slot, and of one with a slot. -/
theorem completeLineIsStored : Obligations.CompleteLineIsStored := by
  intro s h c snap canon u hp hc hs hl ho values after
  have hx : exec (.lineEnd h) s = done (s.completeLine h c snap) := congrArg done (lineEnd_of_complete hp hc hs ho hl rfl)
  refine ⟨fun hslot => hx.trans (congrArg done (completeLine_of_noSlot hslot)), fun i hslot => ?_⟩
  let x : State := { s with heads := s.heads.set h (lineTaken u c snap) }
  have canon' : x.Canonical := ⟨canon.memory, canon.leaves, canon.gain⟩
  have address := sampleAddress_line i c.lines
  exact ⟨{ x.storeLine i c.lines values with skippedNow := [] }, hx.trans (congrArg done (completeLine_of_slot hslot)),
    (slot_storeLine x i i c.lines values).trans (if_pos rfl),
    fun j hj => (slot_storeLine x i j c.lines values).trans (if_neg hj),
    fun n hn => readByte_storeLine canon' address hn, fun a ha => readByte_storeLine_outside canon' address ha,
    fun e => mem_memoryErrors_storeLine address e, rfl⟩

end Sys2Proof.Proofs
end

section
/-! SUPPORT. Head errors and the end of an exposure (R54, R112 to R115, R35). -/
namespace Sys2Proof.Proofs
open Sys2Proof.Machine Sys2Proof.Laws

/-! ### The end of an exposure (R54, R115) -/

/-- With no run that waits for it, the end of an exposure is told and the interlock settles. -/
theorem exposureEnd_of_idle {s t : State} (ht : (s.postStation .captureDone).settleAfterExposure = t)
    (hr : t.run.state ≠ .exposing) : s.exposureEnd = t := by
  rw [State.exposureEnd, ht]
  exact if_neg hr

theorem run_halt_idle {s : State} (hr : s.run.state = .idle) (cause : HaltCause) : (s.halt cause).run.state ≠ .exposing := by
  rw [run_halt, haltedRun, if_pos hr, hr]
  exact nofun

section ExposureEnd
variable {s : State} (hr : s.run.state = .idle) (hp : s.cradle.parityGood = true) (hs : s.cradle.state = .ready)
include hr hp hs

theorem exposureEnd_of_agree (ha : s.switchesAllowEnd) :
    s.exposureEnd = (s.postStation .captureDone).afterExposure := by
  refine exposureEnd_of_idle (settleAfterExposure_of_agree (by exact hp) (by exact hs) (by exact ha)) ?_
  have hrun : ((s.postStation .captureDone).afterExposure).run = s.run := by
    unfold State.afterExposure
    split
    · rfl
    · split <;> rfl
  rw [hrun, hr]
  exact nofun

end ExposureEnd

section Settle
variable {s : State} (hp : s.cradle.parityGood = true) (hs : s.cradle.state = .ready)
include hp hs

theorem settleAfterExposure_of_ready : s.settleAfterExposure =
    if s.cradle.raisePending then
      (s.modCradle fun c => { c with raisePending := false }).enterChecked .raising
    else if s.cradle.pressure = false then s.enterSettling
    else s := by
  rw [State.settleAfterExposure, hp]
  exact (if_neg Bool.true_eq_false.mp).trans (if_pos hs)

theorem settleAfterExposure_of_raise (hw : s.cradle.raisePending = true) : s.settleAfterExposure =
    (s.modCradle fun c => { c with raisePending := false }).enterChecked .raising :=
  (settleAfterExposure_of_ready hp hs).trans (if_pos hw)

variable (hw : s.cradle.raisePending = false)
include hw

theorem settleAfterExposure_of_lost (hl : s.cradle.pressure = false) : s.settleAfterExposure = s.enterSettling :=
  (settleAfterExposure_of_ready hp hs).trans ((if_neg (by rw [hw]; exact Bool.false_ne_true)).trans (if_pos hl))

theorem settleAfterExposure_of_kept (hl : s.cradle.pressure = true) : s.settleAfterExposure = s :=
  (settleAfterExposure_of_ready hp hs).trans ((if_neg (by rw [hw]; exact Bool.false_ne_true)).trans
    (if_neg (by rw [hl]; exact Bool.true_eq_false.mp)))

end Settle

/-! ### An aborted capture, counted exactly (R114, R35) -/

/-- A face with an entry written in a record reads back as written, canonical form or not. -/
theorem get_set_self {α : Type} [DecidableEq α] {d v : α} (hv : v ≠ d) (m : List (Nat × α)) (x : Nat) :
    Sparse.get d (Sparse.set d m x v) x = v := by
  induction m with
  | nil => rw [Sparse.set, if_neg hv, Sparse.get, if_pos rfl]
  | cons e m ih =>
    obtain ⟨k, w⟩ := e
    rw [Sparse.set, if_neg hv, if_neg hv]
    split
    · rw [Sparse.get, if_pos rfl]
    · split
      · rw [Sparse.get, if_pos rfl]
      · next hne => rw [Sparse.get, if_neg fun e => hne e.symm, ih]

theorem insertPanel_ne_nil (e : PanelEntry) (l : List PanelEntry) : insertPanel e l ≠ [] := by
  cases l with
  | nil => exact List.cons_ne_nil _ _
  | cons x xs =>
    rw [insertPanel]
    split
    · exact List.cons_ne_nil _ _
    · split <;> exact List.cons_ne_nil _ _

theorem face_setFace_modPanel (s : State) (h : Handle) (d : Side) (f : FaceRecord) (p : Nat)
    (g : PanelEntry → PanelEntry) : (s.setFace h d (f.modPanel p g)).face h d = f.modPanel p g := by
  have hne : (s.leaf h d.leaf).setFace d.face (f.modPanel p g) ≠ LeafRecord.fresh .leaf := by
    intro e
    have he := congrArg (fun r : LeafRecord => (r.face d.face).panels) e
    rw [face_setFace] at he
    refine insertPanel_ne_nil (g (f.panel p)) f.panels (he.trans ?_)
    cases d.face <;> rfl
  rw [State.face, State.setFace, State.leaf, State.setLeaf, get_set_self hne, face_setFace]

/-- What a capture's abort does to its slot, if it has one, where its owner's record is sound (R35). -/
def captureDropped (s : State) : Option SlotNo → State
  | none => s
  | some i => s.discardSlot i

section Dropped
variable {s : State} {i : SlotNo} {o : Owner} (hc : s.TableClean) (ho : (s.slot i).owner = some o)
  (hl : s.cleanLeaf o.handle o.leaf) (hv : (s.vol o.handle).state ≠ .draining)
include hc ho hl hv

theorem discardSlot_of_stays : s.discardSlot i = slotTaken s i o false
    (s.setFace o.handle o.side ((s.face o.handle o.side).modPanel o.panel withoutPending)).leaves := by
  rw [discardSlot_of_clean hc ho hl, drainIfLast_of_clean _ (vol_clean (tableClean_slotTaken hc i o false _) _)]
  refine if_neg fun h => hv ?_
  rw [vol_slotTaken] at h
  exact h.1

theorem vol_discardSlot : (s.discardSlot i).vol o.handle = { s.vol o.handle with counters :=
    { (s.vol o.handle).counters with discarded := (s.vol o.handle).counters.discarded + 1 } } := by
  rw [discardSlot_of_stays hc ho hl hv, vol_slotTaken]
  simp only [discounted, Bool.toNat_false, BitVec.sub_zero]
  rfl

theorem face_discardSlot : (s.discardSlot i).face o.handle o.side =
    (s.face o.handle o.side).modPanel o.panel withoutPending := by
  rw [discardSlot_of_stays hc ho hl hv]
  exact face_setFace_modPanel s o.handle o.side _ _ _

theorem slot_discardSlot (j : SlotNo) : (s.discardSlot i).slot j = if j == i then Slot.cleared else s.slot j := by
  rw [discardSlot_of_stays hc ho hl hv]
  exact slot_clearSlot _ i j

theorem discardSlot_eq : s.discardSlot i = { s with
    vols := (s.discardSlot i).vols, leaves := (s.discardSlot i).leaves, slots := (s.discardSlot i).slots
    delivery := { s.delivery with queue := s.delivery.queue.filter fun j => !(j == i) } } := by
  rw [discardSlot_of_stays hc ho hl hv]
  rfl

end Dropped

theorem abortCapture_of_recorded {s : State} {h : Head} {c : CaptureRecord} {cause : AbortCause} {f : FaultClass}
    (hp : (s.head h).phase = .capturing) (hc : (s.head h).capture = some c) (hf : cause.fault = some f) :
    s.abortCapture h cause =
      (captureDropped (s.modHead h (·.aborted cause)) c.slot).report { FaultRecord.plain f with head := some h } := by
  rw [State.abortCapture, if_neg (by rw [hp]; exact nofun), hc, hf]
  cases hslot : c.slot with
  | none => simp only [Option.bind_some, hslot]; rfl
  | some i => simp only [Option.bind_some, hslot]; rfl

section CaptureDropped
variable {s : State} (hc : s.TableClean) {slot : Option SlotNo}
  (ho : ∀ i, slot = some i → ∃ o, (s.slot i).owner = some o ∧ s.cleanLeaf o.handle o.leaf ∧
    (s.vol o.handle).state ≠ .draining)
include hc ho

theorem slot_captureDropped (j : SlotNo) :
    (captureDropped s slot).slot j = if slot == some j then Slot.cleared else s.slot j := by
  cases slot with
  | none => rfl
  | some i =>
    obtain ⟨o, hown, hl, hv⟩ := ho i rfl
    refine (slot_discardSlot hc hown hl hv j).trans ?_
    rw [show (some i == some j) = (j == i) from Bool.beq_comm]

theorem captureDropped_eq : captureDropped s slot = { s with
    vols := (captureDropped s slot).vols, leaves := (captureDropped s slot).leaves
    slots := (captureDropped s slot).slots
    delivery := { s.delivery with queue := s.delivery.queue.filter fun j => !(slot == some j) } } := by
  cases slot with
  | none =>
    have hq : s.delivery.queue.filter (fun j => !((none : Option SlotNo) == some j)) = s.delivery.queue :=
      List.filter_eq_self.2 fun _ _ => rfl
    rw [hq]
    rfl
  | some i =>
    obtain ⟨o, hown, hl, hv⟩ := ho i rfl
    have hq : (fun j => !(some i == some j)) = fun j => !(j == i) := funext fun j =>
      congrArg not (Bool.beq_comm : (some i == some j) = (some j == some i))
    rw [hq]
    exact discardSlot_eq hc hown hl hv

theorem partsGone_captureDropped (c : s.Canonical)
    (hn : ∀ i o, slot = some i → (s.slot i).owner = some o → o.leaf ≤ 2047) :
    PartsGone s (captureDropped s slot) (fun j => slot == some j) (fun _ => false) := by
  cases slot with
  | none => exact PartsGone.refl s
  | some i =>
    obtain ⟨o, hown, hl, hv⟩ := ho i rfl
    have hq : (fun j => some i == some j) = fun j => j == i := funext fun j =>
      (Bool.beq_comm : (some i == some j) = (some j == some i))
    rw [hq]
    exact partsGone_discardSlot c hc (.inr ⟨o, hown, hn i o rfl hown, hl, hv⟩)

end CaptureDropped

/-! ### The obligation -/

theorem frameTimerExpiry_of_running {s : State} {h : Head} (hp : (s.head h).phase = .capturing)
    (ht : (s.head h).frameTimer.isSome = true) : frameTimerExpiry h s = s.headError h .timeout := by
  obtain ⟨n, ht⟩ := Option.isSome_iff_exists.1 ht
  rw [frameTimerExpiry, hp, ht]

theorem frameTimerExpiry_of_still {s : State} {h : Head}
    (hp : (s.head h).phase = .idle ∨ (s.head h).frameTimer = none) : frameTimerExpiry h s = s := by
  rw [frameTimerExpiry]
  rcases hp with hp | ht
  · rw [hp]
  · rw [ht]
    cases (s.head h).phase <;> rfl

theorem frameEnd_of_short {s : State} {h : Head} {c : CaptureRecord} {snap : Snapshot}
    (hp : (s.head h).phase = .capturing) (hc : (s.head h).capture = some c) (hs : (s.head h).snapshot = some snap)
    (hl : c.lines < snap.correction.h) : frameEnd h s = s.headError h .shortFrame := by
  rw [frameEnd, if_neg (by rw [hp]; exact nofun), atCapture_of_capturing hp hc hs]
  exact if_pos hl

/-- The other head of the two. -/
def otherHead : Head → Head
  | .left => .right
  | .right => .left

theorem otherHead_eq (s : State) (h : Head) :
    s.head (otherHead h) = (match h with | .left => s.heads.right | .right => s.heads.left) := by cases h <;> rfl

theorem inFlight_of_idle {s : State} {h : Head} (hi : (s.head h).phase = .idle) :
    s.inFlight = ((s.head (otherHead h)).phase == .capturing) := by
  cases h
  · have hi : s.heads.left.phase = .idle := hi
    rw [State.inFlight, hi]
    rfl
  · have hi : s.heads.right.phase = .idle := hi
    rw [State.inFlight, hi]
    exact Bool.or_false _

theorem headError_of_idle {s : State} {h : Head} {cause : AbortCause} (hr : s.run.state = .idle)
    (hp : s.cradle.parityGood = true) (hs : s.cradle.state = .ready) (ha : s.switchesAllowEnd) :
    s.headError h cause = if (s.head (otherHead h)).phase = .capturing then s.abortCapture h cause
      else ((s.abortCapture h cause).postStation .captureDone).afterExposure := by
  have kept := discarding_abortCapture_stopped s h cause
  have hrun : (s.abortCapture h cause).run = s.run := kept.same State.run fun _ => rfl
  have hcradle : (s.abortCapture h cause).cradle = s.cradle := kept.same State.cradle fun _ => rfl
  have hreport : (s.abortCapture h cause).reportFreed s = s.abortCapture h cause := by
    refine if_neg fun hx => ?_
    have hx := hx.1
    rw [hrun, hr] at hx
    cases hx
  have hidle : ((s.abortCapture h cause).head h).phase = .idle := by rw [phase_abortCapture, if_pos rfl]
  have hother : ((s.abortCapture h cause).head (otherHead h)).phase = (s.head (otherHead h)).phase := by
    rw [phase_abortCapture, if_neg (by cases h <;> exact nofun)]
  have hend := exposureEnd_of_agree (s := s.abortCapture h cause) (by rw [hrun]; exact hr)
    (by rw [hcradle]; exact hp) (by rw [hcradle]; exact hs) (by rw [State.switchesAllowEnd, hcradle]; exact ha)
  rw [State.headError, hreport]
  rw [inFlight_of_idle hidle, hother, hend]
  simp only [beq_iff_eq]

/-- Settles O46: each head error by the abort it makes and the end of the exposure it may bring. -/
theorem headErrorsAbortTheCapture : Obligations.HeadErrorsAbortTheCapture := by
  refine ⟨fun s h hp ht => done_congr (frameTimerExpiry_of_running hp ht),
    fun s h hi => done_congr (frameTimerExpiry_of_still hi),
    fun s h c snap hp hc hs hl => done_congr (frameEnd_of_short hp hc hs hl), ?abort, fun s hr hp hs => ?ending⟩
  case abort =>
    intro s h c cause hc other u hcause hp hcap hr hpar hs hsw hown gone t cls
    have hfault : cause.fault = some cls := by
      rcases hcause with rfl | rfl | rfl <;> rfl
    have ht : t = (captureDropped (s.modHead h (·.aborted cause)) c.slot).report
        { FaultRecord.plain cls with head := some h } := abortCapture_of_recorded hp hcap hfault
    let x := s.modHead h (·.aborted cause)
    have hcx : x.TableClean := ⟨hc.zero, hc.one, hc.rescan⟩
    have hownx : ∀ i, c.slot = some i → ∃ o, (x.slot i).owner = some o ∧ x.cleanLeaf o.handle o.leaf ∧
        (x.vol o.handle).state ≠ .draining := fun i hi =>
      have ⟨o, ho, hl, hv⟩ := hown i hi
      ⟨o, ho, hl, by rw [show (x.vol o.handle).state = .active from hv]; exact nofun⟩
    have hslots := slot_captureDropped hcx hownx
    have hshape := captureDropped_eq hcx hownx
    have hheads : t.heads = s.heads.set h (u.aborted cause) := by rw [ht, hshape]; rfl
    refine ⟨?_, ?_, fun p hne => ?_, fun i hi => ⟨?_, fun o ho => ?_⟩, fun j hj => ?_, fun hnone => ?_,
      fun canon hclean => ?_, ?_⟩
    · have hother : (s.head (otherHead h)).phase = other.phase := congrArg HeadUnit.phase (otherHead_eq s h)
      rw [headError_of_idle hr hpar hs hsw, hother]
    · rw [State.head, hheads, PerHead_get_set_same, HeadUnit.aborted, hcap]
      rcases hcause with rfl | rfl | rfl <;> rfl
    · rw [State.head, hheads, PerHead_get_set_ne _ _ (Ne.symm hne)]
      rfl
    · rw [ht]
      exact (hslots i).trans (if_pos (by rw [hi, beq_self_eq_true]))
    · obtain ⟨o', ho', hl, hv⟩ := hownx i hi
      obtain rfl : o' = o := Option.some.inj (ho'.symm.trans ho)
      have hface := face_discardSlot hcx ho' hl hv
      rw [ht, hi]
      refine ⟨vol_discardSlot hcx ho' hl hv, ?_, ?_⟩
      · exact (congrArg (·.panel o'.panel) hface).trans ((panel_modPanel (panel_number _ _) _).trans (if_pos rfl))
      · exact (congrArg FaceRecord.dose hface :)
    · rw [ht]
      exact (hslots j).trans (if_neg (by rw [beq_iff_eq]; exact hj))
    · rw [ht, hnone]
      exact ⟨rfl, rfl⟩
    · have parts := partsGone_captureDropped hcx hownx ⟨canon.memory, canon.leaves, canon.gain⟩ fun i o hi ho => ?_
      · have same : SameAccount s x := ⟨rfl, rfl, rfl, rfl⟩
        have freed := parts.slotsFreed
        simp only [Bool.or_false] at freed
        refine ⟨slotsFreed_of_same same freed (by rw [ht]; rfl) (by rw [ht]; rfl),
          partsRemoved_of_same same parts.partsRemoved (by rw [ht]; rfl), fun h' => ?_⟩
        have hvol := parts.vols h'
        have hzero : (x.ownedAmong h' fun _ => false) = 0 := by simp [State.ownedAmong]
        simp only [Bool.or_false, hzero] at hvol
        rw [ht]
        refine hvol.trans ?_
        simp only [discounted, BitVec.sub_zero]
        rfl
      · obtain ⟨o', ho', hn, -⟩ := hclean i (beq_iff_eq.2 hi)
        obtain rfl : o' = o := Option.some.inj (ho'.symm.trans ho)
        exact hn
    · rw [ht, hshape]
      rfl
  case ending =>
    intro t
    have settle {u : State} (hu : t.settleAfterExposure = u) (hrun : u.run.state ≠ .exposing) : s.exposureEnd = u :=
      exposureEnd_of_idle hu hrun
    have hidle {u : State} (hu : u.run = s.run) : u.run.state ≠ .exposing := by rw [hu, hr]; exact nofun
    refine ⟨fun hw ha => ?_, fun hw hu hd => ?_, fun hw hl hu hd => ?_, fun hw hl ha => ?_, fun hw hl => ?_⟩
    · exact settle ((settleAfterExposure_of_raise (s := t) hp hs hw).trans
        (enterChecked_of_agree (agree_raising_iff.2 (by exact ha)))) (hidle rfl)
    · exact settle ((settleAfterExposure_of_raise (s := t) hp hs hw).trans
        (enterChecked_of_disagree (mt agree_raising_iff.1 fun h => h ⟨hu, hd⟩))) (run_halt_idle (by exact hr) _)
    · exact settle ((settleAfterExposure_of_lost (s := t) hp hs hw hl).trans
        (enterSettling_of_noPressure (by exact hu) (by exact hd) (by exact hl))) (hidle rfl)
    · exact settle ((settleAfterExposure_of_lost (s := t) hp hs hw hl).trans
        (enterSettling_of_disagree (by exact ha))) (run_halt_idle (by exact hr) _)
    · exact settle (settleAfterExposure_of_kept (s := t) hp hs hw hl) (hidle rfl)

end Sys2Proof.Proofs
end

section
/-! SUPPORT. The start of a calibration capture (R97, R127 to R129). -/
namespace Sys2Proof.Proofs
open Sys2Proof.Machine Sys2Proof.Laws

theorem exec_darkSeed {s : State} (hi : s.initRunning = false) (w : Word) :
    exec (.darkSeed w) s = done (handed s .station .darkSeed [w]) :=
  exec_action rfl rfl rfl (completes_of_arity (fun _ => rfl) rfl) hi

theorem darkSeed_of_ge {n : Nat} (hn : 2 ≤ n) (s : State) : darkSeed n s = (.refused .badParam, s) := by
  rw [darkSeed, headOf_of_ge hn]

theorem darkSeed_place (h : Head) (s : State) : darkSeed (headPlace h) s =
    (.accepted (channelWords num16 (s.head h).correction.fixed),
      s.modHead h fun u => { u with running := u.correction.fixed }) := by
  rw [darkSeed, headOf_place]

/-! ### The heads set (R128) -/

theorem headsOf_toNat (w : Word) : headsOf w.toNat =
    if w = 1 then [Head.left] else if w = 2 then [.right] else if w = 3 then [.left, .right] else [] := by
  by_cases h1 : w = 1
  · subst h1; rfl
  by_cases h2 : w = 2
  · subst h2; rfl
  by_cases h3 : w = 3
  · subst h3; rfl
  rw [if_neg h1, if_neg h2, if_neg h3]
  have n1 : w.toNat ≠ 1 := fun h => h1 (BitVec.eq_of_toNat_eq h)
  have n2 : w.toNat ≠ 2 := fun h => h2 (BitVec.eq_of_toNat_eq h)
  have n3 : w.toNat ≠ 3 := fun h => h3 (BitVec.eq_of_toNat_eq h)
  unfold headsOf
  split
  · exact absurd ‹_› n1
  · exact absurd ‹_› n2
  · exact absurd ‹_› n3
  · rfl

theorem headsOf_cases {n : Nat} (h : headsOf n ≠ []) :
    headsOf n = [.left] ∨ headsOf n = [.right] ∨ headsOf n = [.left, .right] := by
  unfold headsOf at *
  split at h
  · exact .inl rfl
  · exact .inr (.inl rfl)
  · exact .inr (.inr rfl)
  · exact absurd rfl h

/-! ### The tests (R128) -/

section Tests
variable {s : State} {heads : List Head}

theorem calibrationTests_of_nil : s.calibrationTests [] = (some .badParam, s) := if_pos rfl

variable (hh : heads ≠ [])
include hh

theorem calibrationTests_of_run (hr : s.run.state ≠ .idle) : s.calibrationTests heads = (some .runActive, s) :=
  (if_neg hh).trans (if_pos (runActive_of_busy hr))

variable (hr : s.run.state = .idle)
include hr

theorem calibrationTests_of_active (ha : s.active ≠ none) : s.calibrationTests heads = (some .busy, s) := by
  rw [State.calibrationTests, if_neg hh, runActive_of_idle hr]
  exact if_pos (Option.isSome_iff_ne_none.2 ha)

variable (ha : s.active = none) (hp : s.cradle.parityGood = true)
include ha hp

theorem calibrationTests_of_good : s.calibrationTests heads =
    if s.cradle.state ≠ .ready then (some .cradleState, s)
    else if s.inFlight then (some .exposureInFlight, s)
    else (none, s) := by
  rw [State.calibrationTests, if_neg hh, runActive_of_idle hr, ha, hp]
  rfl

theorem calibrationTests_of_notReady (hs : s.cradle.state ≠ .ready) :
    s.calibrationTests heads = (some .cradleState, s) :=
  (calibrationTests_of_good hh hr ha hp).trans (if_pos hs)

variable (hs : s.cradle.state = .ready)
include hs

theorem calibrationTests_of_inFlight (hf : s.inFlight = true) :
    s.calibrationTests heads = (some .exposureInFlight, s) :=
  (calibrationTests_of_good hh hr ha hp).trans ((if_neg (not_not_intro hs)).trans (if_pos hf))

theorem calibrationTests_of_still (hf : s.inFlight = false) : s.calibrationTests heads = (none, s) :=
  (calibrationTests_of_good hh hr ha hp).trans
    ((if_neg (not_not_intro hs)).trans (if_neg (by rw [hf]; exact Bool.false_ne_true)))

end Tests

/-! ### The blocks by the outcome of the tests -/

section Blocks
variable {s : State} {n : Nat}

theorem captures_of_refused {r : Reason} (ht : s.calibrationTests (headsOf n) = (some r, s)) (target : Nat) :
    darkCapture n s = (.refused r, s) ∧ flatCapture n target s = (.refused r, s) := by
  rw [darkCapture, flatCapture, ht]
  exact ⟨rfl, rfl⟩

theorem captures_of_tested (ht : s.calibrationTests (headsOf n) = (none, s)) (target : Nat) :
    darkCapture n s = (.accepted (num16 n), s.startCalibration .dark (headsOf n) 0) ∧
    flatCapture n target s = (.accepted (num16 n ++ num16 (clamp target 1 4095)),
      s.startCalibration .flat (headsOf n) (clamp target 1 4095)) := by
  rw [darkCapture, flatCapture, ht]
  exact ⟨rfl, rfl⟩

end Blocks

/-! ### The start (R97, R129) -/

/-- A head of the set as the start of a calibration capture leaves it. -/
def calibrating (s : State) (kind : CaptureKind) (target : Nat) (h : Head) : HeadUnit :=
  (s.head h).start kind none none (s.snapshot h target) (s.timers.frame.get h)

theorem triggered_calibration (s : State) (kind : CaptureKind) (target : Nat) {heads : List Head}
    (hh : heads = [.left] ∨ heads = [.right] ∨ heads = [.left, .right]) :
    heads.foldl (fun t h => t.trigger h kind none none target) s =
      { s with heads :=
          ⟨if heads.contains .left then calibrating s kind target .left else s.heads.left,
            if heads.contains .right then calibrating s kind target .right else s.heads.right⟩ } := by
  obtain h | h | h := hh <;> subst h <;> rfl

theorem fire_dark (s : State) (heads : List Head) : s.fire .dark (s.calibrationLight .dark heads) none =
    { s with light := { s.light with lastFiring := some ⟨.dark, ⟨none, none⟩, none⟩ } } := rfl

theorem fire_bank (b : PerBank (Option Nat)) (k : Bank) (t : Nat) :
    b.fire k t = b.set k (if t = 0 then b.get k else some t) := by
  unfold PerBank.fire
  split
  · cases k <;> rfl
  · rfl

/-- A position's two banks, fired for their durations. -/
theorem firePosition_eq (b : PerBank (Option Nat)) (p : Head) (l : LightLatch) : b.firePosition p l =
    (b.set (upperBank p) (if l.upperDuration = 0 then b.get (upperBank p) else some l.upperDuration)).set
      (lowerBank p) (if l.lowerDuration = 0 then b.get (lowerBank p) else some l.lowerDuration) := by
  rw [PerBank.firePosition, fire_bank, fire_bank]
  cases p <;> rfl

theorem fire_flat (s : State) {heads : List Head} (hh : heads = [.left] ∨ heads = [.right] ∨ heads = [.left, .right]) :
    s.fire .flat (s.calibrationLight .flat heads) none =
      (let pick {α : Type} (p : Head) (a b : α) : α := if heads.contains p then a else b
       let lit (b : Option Nat) (t : Nat) := if t = 0 then b else some t
       let l := s.light.settings.latch .left
       let r := s.light.settings.latch .right
       { s with light := { s.light with
          strobes :=
            { lu := pick .left (lit s.light.strobes.lu l.upperDuration) s.light.strobes.lu
              ll := pick .left (lit s.light.strobes.ll l.lowerDuration) s.light.strobes.ll
              ru := pick .right (lit s.light.strobes.ru r.upperDuration) s.light.strobes.ru
              rl := pick .right (lit s.light.strobes.rl r.lowerDuration) s.light.strobes.rl }
          lastFiring := some ⟨.flat, ⟨pick .left (some l.shots) none, pick .right (some r.shots) none⟩, none⟩ } }) := by
  obtain h | h | h := hh
  · subst h
    show s.fire .flat ⟨some (s.light.settings.latch .left), none⟩ none = _
    unfold State.fire
    simp only [PerHead.get, firePosition_eq]
    rfl
  · subst h
    show s.fire .flat ⟨none, some (s.light.settings.latch .right)⟩ none = _
    unfold State.fire
    simp only [PerHead.get, firePosition_eq]
    rfl
  · subst h
    show s.fire .flat ⟨some (s.light.settings.latch .left), some (s.light.settings.latch .right)⟩ none = _
    unfold State.fire
    simp only [PerHead.get, firePosition_eq]
    rfl

section Captures
variable {s : State} (hi : s.initRunning = false) (hc : s.TableClean) {set : Word}
include hi hc

/-- Both commands refuse alike. -/
theorem exec_captures_of_refused (target : Word) {r : Reason}
    (ht : ∀ n : Nat, (s.taking .station n).calibrationTests (headsOf set.toNat) = (some r, s.taking .station n)) :
    exec (.darkCapture set) s = .next (s.answered .station 1 (.refused r)) ∧
    exec (.flatCapture set target) s = .next (s.answered .station 2 (.refused r)) :=
  ⟨exec_of_answer hc (exec_darkCapture hi set) (captures_of_refused (ht 1) 0).1,
    exec_of_answer hc (exec_flatCapture hi set target) (captures_of_refused (ht 2) target.toNat).2⟩

end Captures

/-- Settles O49: the tests in order, and the start of each capture. -/
theorem calibrationCapturesStart : Obligations.CalibrationCapturesStart := by
  intro s set target hi hc refused heads
  have hheads : headsOf set.toNat = heads := headsOf_toNat set
  have hnil (hh : heads = []) : headsOf set.toNat = [] := hheads.trans hh
  have hne (hh : heads ≠ []) : headsOf set.toNat ≠ [] := hheads ▸ hh
  refine ⟨fun hset => exec_of_answer_unread (exec_darkSeed hi set) rfl rfl (darkSeed_of_ge hset _), fun h hset => ?seed,
    fun hh => exec_captures_of_refused hi hc target fun n => (hnil hh) ▸ calibrationTests_of_nil,
    fun hh hr => exec_captures_of_refused hi hc target fun n => calibrationTests_of_run (hne hh) hr,
    fun hh hr ha => exec_captures_of_refused hi hc target fun n => calibrationTests_of_active (hne hh) hr ha,
    fun hh hr ha hp => ⟨fun hs => exec_captures_of_refused hi hc target fun n =>
        calibrationTests_of_notReady (s := s.taking .station n) (hne hh) hr ha hp hs,
      fun hs hf => exec_captures_of_refused hi hc target fun n =>
        calibrationTests_of_inFlight (s := s.taking .station n) (hne hh) hr ha hp hs hf,
      fun hs hf => ?start⟩⟩
  case seed =>
    have hseed := exec_of_effect_unread (exec_darkSeed hi set) rfl rfl
      ((congrArg (darkSeed · (s.taking .station 1)) hset).trans (darkSeed_place h _))
    exact hseed
  case start =>
    intro begun pick shots lit t l r
    have htests (n : Nat) := calibrationTests_of_still (s := s.taking .station n) (hne hh) hr ha hp hs hf
    have hcases := headsOf_cases (hne hh)
    have ht : clamp target.toNat 1 4095 = t := clamp_eq (by omega)
    refine ⟨?dark, ?flat⟩
    case dark =>
      have hdark := exec_of_effect hc (exec_darkCapture hi set) (captures_of_tested (htests 1) 0).1
      rw [State.startCalibration, fire_dark, triggered_calibration _ _ _ hcases, num16_toNat, hheads] at hdark
      exact hdark
    case flat =>
      have hflat := exec_of_effect hc (exec_flatCapture hi set target) (captures_of_tested (htests 2) target.toNat).2
      rw [State.startCalibration, fire_flat _ hcases, triggered_calibration _ _ _ hcases, num16_toNat, ht, hheads]
        at hflat
      exact hflat

end Sys2Proof.Proofs
end

section
/-! SUPPORT. The gain table: the places of its entries, and columns written and read (R133 to R135). -/
namespace Sys2Proof.Proofs
open Sys2Proof.Machine Sys2Proof.Laws

/-! ### The places of the entries (R133) -/

theorem headPlace_inj {h h' : Head} (e : headPlace h = headPlace h') : h = h' :=
  Option.some.inj ((headOf_place h).symm.trans ((congrArg headOf e).trans (headOf_place h')))

theorem channelOf_place (c : Channel) : channelOf c.place = some c := by cases c <;> rfl

theorem channelPlace_inj {c c' : Channel} (e : c.place = c'.place) : c = c' :=
  Option.some.inj ((channelOf_place c).symm.trans ((congrArg channelOf e).trans (channelOf_place c')))

theorem channelPlace_lt (c : Channel) : c.place < 3 := by cases c <;> decide

theorem gainKey_inj {h h' : Head} {c c' : Channel} {x y : Nat} (hx : x < 6144) (hy : y < 6144)
    (e : gainKey h c x = gainKey h' c' y) : h = h' ∧ c = c' ∧ x = y := by
  have e : (headPlace h * 3 + c.place) * 6144 + x = (headPlace h' * 3 + c'.place) * 6144 + y := e
  have hc := channelPlace_lt c
  have hc' := channelPlace_lt c'
  exact ⟨headPlace_inj (by omega), channelPlace_inj (by omega), by omega⟩

/-! ### Entries written one after another -/

theorem gainEntry_setGain {s : State} (c : Sparse.wf GainEntry.unity s.gain = true) (k : Nat) (e : GainEntry) (j : Nat) :
    (s.setGain k e).gainEntry j = if k = j then e else s.gainEntry j := get_set k e j c

/-- Entries of the gain table, written in order. -/
def writeGains (l : List (Nat × GainEntry)) (s : State) : State := l.foldl (fun t e => t.setGain e.1 e.2) s

theorem writeGains_cons (e : Nat × GainEntry) (l : List (Nat × GainEntry)) (s : State) :
    writeGains (e :: l) s = writeGains l (s.setGain e.1 e.2) := rfl

theorem writeGains_eq (l : List (Nat × GainEntry)) (s : State) :
    writeGains l s = { s with gain := (writeGains l s).gain } := by
  induction l generalizing s with
  | nil => rfl
  | cons e l ih => exact ih (s.setGain e.1 e.2)

section Written
variable {s : State} (c : Sparse.wf GainEntry.unity s.gain = true) {l : List (Nat × GainEntry)}
include c

theorem gainEntry_writeGains_of_not_mem {k : Nat} (hk : ∀ e ∈ l, k ≠ e.1) :
    (writeGains l s).gainEntry k = s.gainEntry k := by
  induction l generalizing s with
  | nil => rfl
  | cons e l ih =>
    rw [writeGains_cons, ih (s := s.setGain e.1 e.2) (wf_set _ _ c) fun x hx => hk x (List.mem_cons_of_mem _ hx),
      gainEntry_setGain c, if_neg fun h => hk e List.mem_cons_self h.symm]

/-- Each entry written to a place of its own reads back. -/
theorem gainEntry_writeGains_of_mem (hn : (l.map Prod.fst).Nodup) {k : Nat} {e : GainEntry} (he : (k, e) ∈ l) :
    (writeGains l s).gainEntry k = e := by
  induction l generalizing s with
  | nil => cases he
  | cons x l ih =>
    obtain ⟨hx, hn⟩ := List.nodup_cons.1 hn
    rw [writeGains_cons]
    rcases List.mem_cons.1 he with rfl | he
    · rw [gainEntry_writeGains_of_not_mem (s := s.setGain k e) (wf_set _ _ c) fun y hy hk =>
        hx (List.mem_map.2 ⟨y, hy, hk.symm⟩), gainEntry_setGain c, if_pos rfl]
    · exact ih (s := s.setGain x.1 x.2) (wf_set _ _ c) hn he

end Written

/-! ### GAIN LOAD's columns (R134) -/

theorem loadGains_eq (s : State) (h : Head) (c : Channel) (first : Nat) (ws : List Word) :
    s.loadGains h c first ws = writeGains (ws.mapIdx fun j w => (gainKey h c (first + j), ⟨w, none⟩)) s := by
  induction ws generalizing s first with
  | nil => rfl
  | cons w ws ih =>
    rw [State.loadGains, ih, List.mapIdx_cons, writeGains_cons]
    simp only [Nat.add_assoc, Nat.add_comm 1]
    rfl

/-! ### The columns of a flat frame (R132) -/

/-- The entry a FLAT CAPTURE writes for a column's sum. -/
def flatEntry (snap : Snapshot) (sum : Nat) : GainEntry :=
  ⟨BitVec.ofNat 16 (flatGain snap.flatTarget (flatMean sum snap.correction.h)), none⟩

theorem writeFlat_eq (s : State) (h : Head) (snap : Snapshot) (i : Nat) (sums : List Nat) :
    s.writeFlat h snap i sums =
      writeGains (sums.mapIdx fun j sum => (gainKey h (channelAt (i + j)) ((i + j) / 3), flatEntry snap sum)) s := by
  induction sums generalizing s i with
  | nil => rfl
  | cons sum sums ih =>
    rw [State.writeFlat, ih, List.mapIdx_cons, writeGains_cons]
    simp only [Nat.add_assoc, Nat.add_comm 1]
    rfl

/-! ### Columns read (R135, R178) -/

/-- What READ GAIN sends of an entry: unity for one that is uncorrectable. -/
def gainValue (e : GainEntry) : Nat := if e.error == some .uncorrectable then 16384 else e.value.toNat

/-- A class's count, raised as often as words were corrected. -/
def raisedBy (f : FaultReport) (c : FaultClass) (n : Nat) : FaultReport := if n = 0 then f else f.raise c n

theorem raise_raise (f : FaultReport) (c : FaultClass) (m n : Nat) : (f.raise c m).raise c n = f.raise c (m + n) := by
  have hsat (k : Nat) : addSat (addSat k m) n = addSat k (m + n) := by unfold addSat; omega
  simp only [FaultReport.raise, Vector.set_set]
  congr 2
  refine (congrArg (addSat · n) (Vector.getElem_set_self ..)).trans (hsat _)

theorem raisedBy_raise (f : FaultReport) (c : FaultClass) (n : Nat) :
    raisedBy (f.raise c 1) c n = raisedBy f c (n + 1) := by
  have hsucc : raisedBy f c (n + 1) = f.raise c (n + 1) := if_neg (Nat.succ_ne_zero n)
  rw [hsucc, raisedBy]
  split
  · next hn => rw [hn]
  · rw [raise_raise, Nat.add_comm]

section Reads
variable {s : State} {k : Nat}

theorem readGain_of_good (he : (s.gainEntry k).error = none) : s.readGain k = (some (s.gainEntry k).value.toNat, s) := by
  simp only [State.readGain, he]

theorem readGain_of_single (he : (s.gainEntry k).error = some .single) : s.readGain k =
    (some (s.gainEntry k).value.toNat,
      (s.setGain k { s.gainEntry k with error := none }).recovered .recoveredGain 1) := by
  simp only [State.readGain, he]

theorem readGain_of_lost (he : (s.gainEntry k).error = some .uncorrectable) : s.readGain k = (none, s) := by
  simp only [State.readGain, he]

end Reads

/-- Whether an entry is read as corrected. -/
def isSingle (e : GainEntry) : Bool := e.error == some .single

/-- Whether an entry is read as uncorrectable. -/
def isLost (e : GainEntry) : Bool := e.error == some .uncorrectable

/-- The state after the columns of a channel were read: each single error is corrected and counted. -/
def gainsRead (s : State) (key : Nat → Nat) (xs : List Nat) : State :=
  let t := writeGains ((xs.filter fun x => isSingle (s.gainEntry (key x))).map fun x =>
    (key x, { s.gainEntry (key x) with error := none })) s
  { t with faults := raisedBy s.faults .recoveredGain (xs.countP fun x => isSingle (s.gainEntry (key x))) }

/-- The entries of a list of columns as one state has them are as another has them. -/
theorem gainsRead_congr {s t : State} {key : Nat → Nat} {xs : List Nat}
    (h : ∀ x ∈ xs, t.gainEntry (key x) = s.gainEntry (key x)) :
    gainsRead t key xs =
      { writeGains ((xs.filter fun x => isSingle (s.gainEntry (key x))).map fun x =>
          (key x, { s.gainEntry (key x) with error := none })) t with
        faults := raisedBy t.faults .recoveredGain (xs.countP fun x => isSingle (s.gainEntry (key x))) } := by
  have hf : (xs.filter fun x => isSingle (t.gainEntry (key x))) = xs.filter fun x => isSingle (s.gainEntry (key x)) :=
    List.filter_congr fun x hx => by rw [h x hx]
  have hm : ((xs.filter fun x => isSingle (s.gainEntry (key x))).map fun x =>
      (key x, ({ t.gainEntry (key x) with error := none } : GainEntry))) =
      (xs.filter fun x => isSingle (s.gainEntry (key x))).map fun x =>
        (key x, { s.gainEntry (key x) with error := none }) :=
    List.map_congr_left fun x hx => by rw [h x (List.mem_filter.1 hx).1]
  have hn : (xs.countP fun x => isSingle (t.gainEntry (key x))) = xs.countP fun x => isSingle (s.gainEntry (key x)) :=
    List.countP_congr fun x hx => by rw [h x hx]
  rw [gainsRead, hf, hm, hn]

theorem writeGains_faults (l : List (Nat × GainEntry)) (s : State) (f : FaultReport) :
    writeGains l { s with faults := f } = { writeGains l s with faults := f } := by
  induction l generalizing s with
  | nil => rfl
  | cons e l ih => exact ih (s.setGain e.1 e.2)

/-- A column whose entry is uncorrectable or has no error is only looked at. -/
theorem gainsRead_cons_of_ne {s : State} {key : Nat → Nat} {x : Nat} (xs : List Nat)
    (he : isSingle (s.gainEntry (key x)) = false) : gainsRead s key (x :: xs) = gainsRead s key xs := by
  have he : ¬isSingle (s.gainEntry (key x)) = true := by rw [he]; exact Bool.false_ne_true
  simp only [gainsRead, List.filter_cons_of_neg (p := fun x => isSingle (s.gainEntry (key x))) he,
    List.countP_cons_of_neg (p := fun x => isSingle (s.gainEntry (key x))) he]

/-- A column with a single error is corrected, counted, and the rest is read. -/
theorem gainsRead_cons_of_single {s : State} {key : Nat → Nat} {x : Nat} {xs : List Nat}
    (he : isSingle (s.gainEntry (key x)) = true)
    (hother : ∀ y ∈ xs, ((s.setGain (key x) { s.gainEntry (key x) with error := none }).recovered
      .recoveredGain 1).gainEntry (key y) = s.gainEntry (key y)) :
    gainsRead s key (x :: xs) = gainsRead ((s.setGain (key x) { s.gainEntry (key x) with error := none }).recovered
      .recoveredGain 1) key xs := by
  rw [gainsRead_congr hother, gainsRead, List.filter_cons_of_pos (p := fun x => isSingle (s.gainEntry (key x))) he,
    List.countP_cons_of_pos (p := fun x => isSingle (s.gainEntry (key x))) he, ← raisedBy_raise, List.map_cons,
    writeGains_cons]
  have hfaults := writeGains_faults ((xs.filter fun x => isSingle (s.gainEntry (key x))).map fun x =>
    (key x, { s.gainEntry (key x) with error := none })) (s.setGain (key x) { s.gainEntry (key x) with error := none })
    ((s.setGain (key x) { s.gainEntry (key x) with error := none }).faults.raise .recoveredGain 1)
  rw [State.recovered, hfaults]
  rfl

theorem readGains_eq {s : State} (c : Sparse.wf GainEntry.unity s.gain = true) (h : Head) (ch : Channel)
    {xs : List Nat} (hn : (xs.map (gainKey h ch)).Nodup) : s.readGains h ch xs =
      ((xs.map fun x => gainValue (s.gainEntry (gainKey h ch x)),
        xs.filter fun x => isLost (s.gainEntry (gainKey h ch x))), gainsRead s (gainKey h ch) xs) := by
  induction xs generalizing s with
  | nil => rfl
  | cons x xs ih =>
    obtain ⟨hx, hn⟩ := List.nodup_cons.1 hn
    rw [State.readGains, List.map_cons, List.filter_cons]
    rcases he : (s.gainEntry (gainKey h ch x)).error with - | - | -
    · have hs : isSingle (s.gainEntry (gainKey h ch x)) = false := by rw [isSingle, he]; rfl
      have hl : isLost (s.gainEntry (gainKey h ch x)) = false := by rw [isLost, he]; rfl
      have hv : gainValue (s.gainEntry (gainKey h ch x)) = (s.gainEntry (gainKey h ch x)).value.toNat := by
        rw [gainValue, he]; rfl
      rw [readGain_of_good he, gainsRead_cons_of_ne xs hs, hl, hv]
      simp only [ih c hn]
      rfl
    · have hs : isSingle (s.gainEntry (gainKey h ch x)) = true := by rw [isSingle, he]; rfl
      have hl : isLost (s.gainEntry (gainKey h ch x)) = false := by rw [isLost, he]; rfl
      have hv : gainValue (s.gainEntry (gainKey h ch x)) = (s.gainEntry (gainKey h ch x)).value.toNat := by
        rw [gainValue, he]; rfl
      have hother : ∀ y ∈ xs, ((s.setGain (gainKey h ch x) { s.gainEntry (gainKey h ch x) with error := none }).recovered
          .recoveredGain 1).gainEntry (gainKey h ch y) = s.gainEntry (gainKey h ch y) := fun y hy =>
        (gainEntry_setGain c _ _ _).trans (if_neg fun e => hx (List.mem_map.2 ⟨y, hy, e.symm⟩))
      have hvals := List.map_congr_left fun y hy => congrArg gainValue (hother y hy)
      have hlost := List.filter_congr fun y hy => congrArg isLost (hother y hy)
      rw [readGain_of_single he, gainsRead_cons_of_single hs hother, hl, hv]
      simp only [ih (s := (s.setGain _ _).recovered _ _) (wf_set _ _ c) hn]
      rw [hvals, hlost]
      rfl
    · have hs : isSingle (s.gainEntry (gainKey h ch x)) = false := by rw [isSingle, he]; rfl
      have hl : isLost (s.gainEntry (gainKey h ch x)) = true := by rw [isLost, he]; rfl
      have hv : gainValue (s.gainEntry (gainKey h ch x)) = 16384 := by rw [gainValue, he]; rfl
      rw [readGain_of_lost he, gainsRead_cons_of_ne xs hs, hl, hv]
      simp only [ih c hn]
      rfl

end Sys2Proof.Proofs
end

section
/-! SUPPORT. GAIN LOAD and READ GAIN (R133 to R135). -/
namespace Sys2Proof.Proofs
open Sys2Proof.Machine Sys2Proof.Laws

theorem exec_gainLoad {s : State} (hi : s.initRunning = false) {n : Word} {es : List Word}
    (hf : entriesFit n es = true) (h c x : Word) :
    exec (.gainLoad h c x n es) s = done (handed s .station .gainLoad ([h, c, x, n] ++ es)) :=
  exec_action rfl rfl rfl (gainLoad_completes hf) hi

theorem exec_readGain {s : State} (hi : s.initRunning = false) (h c x n : Word) :
    exec (.readGain h c x n) s = done (handed s .station .readGain [h, c, x, n]) :=
  exec_action rfl rfl rfl (completes_of_arity (fun _ => rfl) rfl) hi

theorem channelOf_of_gt {n : Nat} (hn : 2 < n) : channelOf n = none :=
  match n, hn with
  | _ + 3, _ => rfl

/-! ### The range of the parameters (R134 test 1) -/

theorem gainRange_of_bad {head channel first count : Nat}
    (hb : 1 < head ∨ 2 < channel ∨ count < 1 ∨ 256 < count ∨ 6143 < first + count - 1) :
    gainRange head channel first count = none := by
  rw [gainRange]
  cases hh : headOf head with
  | none => rfl
  | some h =>
    cases hc : channelOf channel with
    | none => rfl
    | some c =>
      refine if_neg fun ⟨h1, h2, h3⟩ => ?_
      rcases hb with hb | hb | hb | hb | hb
      · rw [headOf_of_ge hb] at hh
        cases hh
      · rw [channelOf_of_gt hb] at hc
        cases hc
      · omega
      · omega
      · omega

theorem gainRange_of_ok {first count : Nat} (h : Head) (c : Channel)
    (hr : 1 ≤ count ∧ count ≤ 256 ∧ first + count - 1 ≤ 6143) :
    gainRange (headPlace h) c.place first count = some (h, c) := by
  rw [gainRange, headOf_place, channelOf_place]
  exact if_pos hr

section Blocks
variable {s : State} {head channel first count : Nat}

theorem gainLoad_of_bad (hr : gainRange head channel first count = none) (entries : List Word) :
    gainLoad head channel first count entries s = (.refused .badParam, s) := by
  rw [gainLoad, hr]

theorem readGain_of_bad (hr : gainRange head channel first count = none) :
    readGain head channel first count s = (.refused .badParam, s) := by
  rw [readGain, hr]

variable {h : Head} {c : Channel} (hr : gainRange head channel first count = some (h, c))
include hr

theorem gainLoad_of_capturing (hp : (s.head h).phase = .capturing) (entries : List Word) :
    gainLoad head channel first count entries s = (.refused .busy, s) := by
  rw [gainLoad, hr]
  exact if_pos hp

theorem gainLoad_of_idle (hp : (s.head h).phase = .idle) (entries : List Word) :
    gainLoad head channel first count entries s =
      (.accepted (num16 count), s.loadGains h c first (entries.take count)) := by
  rw [gainLoad, hr]
  exact if_neg (by rw [hp]; exact nofun)

theorem readGain_of_ok : readGain head channel first count s =
    (let r := s.readGains h c ((List.range count).map (first + ·))
     (.accepted (listWords num16 r.1.1 ++ listWords num16 r.1.2), r.2)) := by
  rw [readGain, hr]

end Blocks

/-! ### The columns (R134, R135) -/

/-- The columns from one on have places of their own. -/
theorem columns_nodup (h : Head) (c : Channel) {first count : Nat} (hr : first + count ≤ 6144) :
    ((List.range count).map fun j => gainKey h c (first + j)).Nodup := by
  refine nodup_map_of_inj (fun x hx y hy e => ?_) List.nodup_range
  have hx := List.mem_range.1 hx
  have hy := List.mem_range.1 hy
  have := (gainKey_inj (by omega) (by omega) e).2.2
  omega

theorem mapIdx_eq_range_map {α β : Type} (f : Nat → α → β) (d : α) (l : List α) :
    l.mapIdx f = (List.range l.length).map fun j => f j (l.getD j d) := by
  refine List.ext_getElem (by simp) fun j h1 h2 => ?_
  have hj : j < l.length := by simpa using h1
  simp [hj]

section Columns
variable {s : State} (canon : Sparse.wf GainEntry.unity s.gain = true) (h : Head) (c : Channel) {first count : Nat}
  (hr : first + count ≤ 6144)
include canon hr

theorem gainEntry_loadGains {entries : List Word} (hl : entries.length = count) :
    (∀ j < count, (s.loadGains h c first entries).gainEntry (gainKey h c (first + j)) = ⟨entries.getD j 0, none⟩) ∧
    (∀ k, (∀ j < count, k ≠ gainKey h c (first + j)) →
      (s.loadGains h c first entries).gainEntry k = s.gainEntry k) := by
  have hwritten : (entries.mapIdx fun j w => (gainKey h c (first + j), (⟨w, none⟩ : GainEntry))) =
      (List.range count).map fun j => (gainKey h c (first + j), ⟨entries.getD j 0, none⟩) :=
    hl ▸ mapIdx_eq_range_map _ 0 entries
  rw [loadGains_eq, hwritten]
  refine ⟨fun j hj => gainEntry_writeGains_of_mem canon ?_ (List.mem_map.2 ⟨j, List.mem_range.2 hj, rfl⟩),
    fun k hk => gainEntry_writeGains_of_not_mem canon fun e he => ?_⟩
  · rw [List.map_map]
    exact columns_nodup h c hr
  · obtain ⟨j, hj, rfl⟩ := List.mem_map.1 he
    exact hk j (List.mem_range.1 hj)

theorem gainEntry_gainsRead :
    (∀ j < count, (gainsRead s (gainKey h c) ((List.range count).map (first + ·))).gainEntry (gainKey h c (first + j)) =
      if isSingle (s.gainEntry (gainKey h c (first + j))) then
        { s.gainEntry (gainKey h c (first + j)) with error := none }
      else s.gainEntry (gainKey h c (first + j))) ∧
    (∀ k, (∀ j < count, k ≠ gainKey h c (first + j)) →
      (gainsRead s (gainKey h c) ((List.range count).map (first + ·))).gainEntry k = s.gainEntry k) := by
  let singles := ((List.range count).map (first + ·)).filter fun x => isSingle (s.gainEntry (gainKey h c x))
  have hmem {x : Nat} (hx : x ∈ singles) : (∃ j < count, first + j = x) ∧ isSingle (s.gainEntry (gainKey h c x)) = true := by
    obtain ⟨hx, hs⟩ := List.mem_filter.1 hx
    obtain ⟨j, hj, rfl⟩ := List.mem_map.1 hx
    exact ⟨⟨j, List.mem_range.1 hj, rfl⟩, hs⟩
  have hnot {k : Nat} (hk : ∀ x ∈ singles, k ≠ gainKey h c x) :
      (gainsRead s (gainKey h c) ((List.range count).map (first + ·))).gainEntry k = s.gainEntry k := by
    refine gainEntry_writeGains_of_not_mem canon fun e he => ?_
    obtain ⟨x, hx, rfl⟩ := List.mem_map.1 he
    exact hk x hx
  have hnodup : ((singles.map fun x => (gainKey h c x, ({ s.gainEntry (gainKey h c x) with error := none } : GainEntry))).map
      Prod.fst).Nodup := by
    rw [List.map_map]
    refine List.Nodup.sublist (List.Sublist.map _ List.filter_sublist) ?_
    show (((List.range count).map (first + ·)).map (gainKey h c)).Nodup
    rw [List.map_map]
    exact columns_nodup h c hr
  refine ⟨fun j hj => ?_, fun k hk => hnot fun x hx => ?_⟩
  · split
    · next hs =>
      refine gainEntry_writeGains_of_mem canon hnodup (List.mem_map.2 ⟨first + j, ?_, rfl⟩)
      exact List.mem_filter.2 ⟨List.mem_map.2 ⟨j, List.mem_range.2 hj, rfl⟩, hs⟩
    · next hs =>
      refine hnot fun x hx e => hs ?_
      rw [e]
      exact (hmem hx).2
  · obtain ⟨⟨j, hj, rfl⟩, -⟩ := hmem hx
    exact hk j hj

end Columns

theorem flatMap_num16 (l : List Nat) : l.flatMap num16 = l.map (BitVec.ofNat 16) := List.map_eq_flatMap.symm

theorem listWords_num16 (l : List Nat) : listWords num16 l = [BitVec.ofNat 16 l.length] ++ l.map (BitVec.ofNat 16) := by
  rw [listWords, flatMap_num16]
  rfl

/-- Settles O51: the range, the load and the read of a channel's columns. -/
theorem gainTable : Obligations.GainTable := by
  intro s head channel first count entries hi canon hf n bad
  have hload := exec_gainLoad hi hf head channel first
  have hread := exec_readGain hi head channel first count
  have hlen : ([head, channel, first, count] ++ entries).length = 4 + entries.length := by
    rw [List.length_append]; rfl
  refine ⟨fun hb => ?_, fun h c hok hh hch => ?_⟩
  · have hrange := gainRange_of_bad hb
    have hloaded := exec_of_answer_unread hload rfl rfl (gainLoad_of_bad hrange entries)
    rw [hlen] at hloaded
    exact ⟨hloaded, exec_of_answer_unread hread rfl rfl (readGain_of_bad hrange)⟩
  intro key
  have hcount : 1 ≤ n ∧ n ≤ 256 := by omega
  have hfirst : first.toNat + n ≤ 6144 := by omega
  have hrange : gainRange head.toNat channel.toNat first.toNat count.toNat = some (h, c) := by
    rw [hh, hch]
    exact gainRange_of_ok h c ⟨hcount.1, hcount.2, by omega⟩
  refine ⟨fun hp => ?_, fun hp => ?_, ?_⟩
  · have hloaded := exec_of_answer_unread hload rfl rfl
      (gainLoad_of_capturing (s := s.taking .station _) hrange (by exact hp) entries)
    rw [hlen] at hloaded
    exact hloaded
  · have hfits : entries.length = n := by
      rw [entriesFit, if_pos hcount] at hf
      exact of_decide_eq_true hf
    have hloaded := exec_of_effect_unread hload rfl rfl
      (gainLoad_of_idle (s := s.taking .station _) hrange (by exact hp) entries)
    rw [hlen, num16_toNat, List.take_of_length_le (Nat.le_of_eq hfits)] at hloaded
    obtain ⟨hin, hout⟩ := gainEntry_loadGains (s := s.taking .station (4 + entries.length)) canon.gain h c hfirst hfits
    refine ⟨_, hloaded, hin, hout, ?_⟩
    rw [loadGains_eq, writeGains_eq]
    rfl
  · intro e single lost all values bad' fixed
    have hnodup : (((List.range n).map (first.toNat + ·)).map (gainKey h c)).Nodup := by
      rw [List.map_map]
      exact columns_nodup h c hfirst
    obtain ⟨hin, hout⟩ := gainEntry_gainsRead (s := s.taking .station 4) canon.gain h c hfirst
    have hvalues : (((List.range n).map (first.toNat + ·)).map fun x =>
        gainValue ((s.taking .station 4).gainEntry (gainKey h c x))) = values := List.map_map
    have hlost : (((List.range n).map (first.toNat + ·)).filter fun x =>
        isLost ((s.taking .station 4).gainEntry (gainKey h c x))) = bad' := List.filter_map
    have hfixed : (((List.range n).map (first.toNat + ·)).countP fun x =>
        isSingle ((s.taking .station 4).gainEntry (gainKey h c x))) = fixed := List.countP_map
    have hwords : listWords num16 values ++ listWords num16 bad' =
        [count] ++ values.map (BitVec.ofNat 16) ++ [BitVec.ofNat 16 bad'.length] ++ bad'.map (BitVec.ofNat 16) := by
      have hvlen : values.length = count.toNat := by rw [List.length_map, List.length_range]
      rw [listWords_num16, listWords_num16, hvlen, BitVec.ofNat_toNat, BitVec.setWidth_eq, List.append_assoc,
        List.append_assoc, List.append_assoc]
    have hblock : Machine.readGain head.toNat channel.toNat first.toNat count.toNat (s.taking .station 4) =
        (.accepted ([count] ++ values.map (BitVec.ofNat 16) ++ [BitVec.ofNat 16 bad'.length] ++
          bad'.map (BitVec.ofNat 16)),
          gainsRead (s.taking .station 4) (gainKey h c) ((List.range n).map (first.toNat + ·))) := by
      rw [readGain_of_ok hrange, readGains_eq (s := s.taking .station 4) canon.gain h c hnodup]
      dsimp only
      rw [hvalues, hlost, hwords]
    refine ⟨_, exec_of_effect_unread hread rfl rfl hblock, hin, hout, ?_, ?_⟩
    · exact congrArg (raisedBy s.faults .recoveredGain) hfixed
    · rw [gainsRead, writeGains_eq]
      rfl

end Sys2Proof.Proofs
end

section
/-! SUPPORT. The end of a complete frame: the running dark, and what a calibration capture writes (R112, R126,
R130, R132). -/
namespace Sys2Proof.Proofs
open Sys2Proof.Machine Sys2Proof.Laws

/-! ### The end of a complete frame (R112, R115) -/

/-- A head whose frame has ended. -/
def frameClosed (u : HeadUnit) : HeadUnit :=
  { u with phase := .idle, port := .between, frameTimer := none, lineBuffer := [] }

theorem frameEnd_of_complete {s : State} {h : Head} {c : CaptureRecord} {snap : Snapshot}
    (hp : (s.head h).phase = .capturing) (hc : (s.head h).capture = some c) (hs : (s.head h).snapshot = some snap)
    (hl : snap.correction.h ≤ c.lines) : frameEnd h s =
      (let t := (s.completeFrame h c snap).reportFreed s
       if t.inFlight then t else t.exposureEnd) := by
  rw [frameEnd, if_neg (by rw [hp]; exact nofun), atCapture_of_capturing hp hc hs]
  exact if_neg (Nat.not_lt.2 hl)

/-- With no run, the frame end of a complete frame ends the exposure unless the other head still captures. -/
theorem frameEnd_of_idle {s t : State} {h : Head} {c : CaptureRecord} {snap : Snapshot}
    (hp : (s.head h).phase = .capturing) (hc : (s.head h).capture = some c) (hs : (s.head h).snapshot = some snap)
    (hl : snap.correction.h ≤ c.lines) (hr : s.run.state = .idle) (hg : s.cradle.parityGood = true)
    (hready : s.cradle.state = .ready) (hsw : s.switchesAllowEnd) (ht : s.completeFrame h c snap = t)
    (hrun : t.run = s.run) (hcradle : t.cradle = s.cradle) (hidle : (t.head h).phase = .idle)
    (hother : t.head (otherHead h) = s.head (otherHead h)) :
    frameEnd h s = if (s.head (otherHead h)).phase = .capturing then t
      else (t.postStation .captureDone).afterExposure := by
  have hreport : t.reportFreed s = t := by
    refine if_neg fun hx => ?_
    have hx := hx.1
    rw [hrun, hr] at hx
    cases hx
  have hend := exposureEnd_of_agree (s := t) (by rw [hrun]; exact hr) (by rw [hcradle]; exact hg)
    (by rw [hcradle]; exact hready) (by rw [State.switchesAllowEnd, hcradle]; exact hsw)
  rw [frameEnd_of_complete hp hc hs hl, ht, hreport]
  dsimp only
  rw [inFlight_of_idle hidle, hother, hend]
  simp only [beq_iff_eq]

/-! ### The running dark (R126) -/

/-- The update reads and writes nothing that the end of a frame sets. -/
theorem updateDark_frameClosed (s : State) (h : Head) (snap : Snapshot) :
    (s.modHead h frameClosed).updateDark h snap =
      { s with
        links := (s.updateDark h snap).links
        heads := s.heads.set h (frameClosed ((s.updateDark h snap).head h)) } := by
  have hhead : (s.modHead h frameClosed).head h = frameClosed (s.head h) := head_modHead_same _ _ _
  have hheads (u : HeadUnit) : (s.modHead h frameClosed).heads.set h u = s.heads.set h u := PerHead_set_set _ _ _ _
  rw [updateDark_head, updateDark_eq, updateDark_eq, hhead]
  simp only [hheads]
  rfl

/-- What a head keeps through the running dark update. -/
theorem updateDark_keeps (s : State) (h : Head) (snap : Snapshot) :
    ((s.updateDark h snap).head h).correction = (s.head h).correction ∧
    ((s.updateDark h snap).head h).activeSums = (s.head h).activeSums ∧
    ((s.updateDark h snap).head h).flatSums = (s.head h).flatSums ∧
    ((s.updateDark h snap).head h).work = (s.head h).work := by
  rw [updateDark_head]
  exact ⟨rfl, rfl, rfl, rfl⟩

/-! ### The end of a calibration capture (R112) -/

/-- The head after its calibration frame, but for the capture's result. -/
def calibrated (s : State) (h : Head) (c : CaptureRecord) (snap : Snapshot) : HeadUnit :=
  { (s.updateDark h snap).head h with
    phase := .idle, port := .between, frameTimer := none, lineBuffer := []
    capture := some { c with outcome := .ended none } }

theorem endCalibration_eq (s : State) (h : Head) (c : CaptureRecord) (snap : Snapshot) :
    ((s.modHead h frameClosed).updateDark h snap).endCalibration h c =
      { s with links := (s.updateDark h snap).links, heads := s.heads.set h (calibrated s h c snap) } := by
  rw [updateDark_frameClosed, State.endCalibration, modHead_of_heads rfl]
  rfl

/-- The dark levels by the head's own settings and sums. -/
theorem darkResult_of_eq {u : HeadUnit} (snap : Snapshot) {k : Correction} {sums : PerChannel Nat}
    (hk : u.correction = k) (hs : u.activeSums = sums) : u.darkResult snap =
      (let level : PerChannel Nat := sums.map fun _ sum => min 1023 (roundedMean sum (snap.correction.w * snap.correction.h))
       { u with correction := { k with fixed := level }, running := level, lastDarkCapture := some level }) := by
  subst hk hs
  rfl

section Complete
variable {s : State} {h : Head} {c : CaptureRecord} {snap : Snapshot}

theorem completeFrame_of_dark (hk : c.kind = .dark) : s.completeFrame h c snap =
    { s with
      links := (s.updateDark h snap).links
      heads := s.heads.set h ((calibrated s h c snap).darkResult snap) } := by
  have hbranch : s.completeFrame h c snap =
      (((s.modHead h frameClosed).updateDark h snap).endCalibration h c).modHead h (·.darkResult snap) := by
    rw [State.completeFrame, hk]
    rfl
  rw [hbranch, endCalibration_eq, modHead_of_heads rfl]

theorem completeFrame_of_flat (hk : c.kind = .flat) : s.completeFrame h c snap =
    (({ s with links := (s.updateDark h snap).links, heads := s.heads.set h (calibrated s h c snap) } :
      State).writeFlat h snap 0 (s.head h).flatSums).modHead h fun u =>
        { u with lastFlatCapture := some (flatRecord snap (s.head h).flatSums c.clipCount) } := by
  have hbranch : s.completeFrame h c snap =
      (((s.modHead h frameClosed).updateDark h snap).endCalibration h c).flatResult h snap c := by
    rw [State.completeFrame, hk]
    rfl
  have hsums : (State.head { s with
      links := (s.updateDark h snap).links, heads := s.heads.set h (calibrated s h c snap) } h).flatSums =
      (s.head h).flatSums :=
    (congrArg HeadUnit.flatSums (PerHead_get_set_same _ _ _)).trans (updateDark_keeps s h snap).2.2.1
  rw [hbranch, endCalibration_eq, State.flatResult, hsums]

end Complete

/-! ### The gains of a flat frame (R132) -/

/-- The samples of a line have places of their own. -/
theorem samples_nodup (h : Head) {n : Nat} (hn : n ≤ 3 * 6144) :
    ((List.range n).map fun i => gainKey h (channelAt i) (i / 3)).Nodup := by
  refine nodup_map_of_inj (fun i hi j hj e => ?_) List.nodup_range
  have hi := List.mem_range.1 hi
  have hj := List.mem_range.1 hj
  obtain ⟨-, hc, hx⟩ := gainKey_inj (by omega) (by omega) e
  have place (i : Nat) : (channelAt i).place = i % 3 := by
    have hlt := Nat.mod_lt i (show 0 < 3 by decide)
    rw [channelAt_eq]
    split
    · next h0 => exact h0.symm
    · split
      · next h1 => exact h1.symm
      · show 2 = i % 3
        omega
  have hp : i % 3 = j % 3 := by rw [← place, ← place, hc]
  omega

section Flat
variable {s : State} (canon : Sparse.wf GainEntry.unity s.gain = true) (h : Head) (snap : Snapshot) {sums : List Nat}
  (hn : sums.length ≤ 3 * 6144)
include canon hn

theorem gainEntry_writeFlat :
    (∀ i ∈ List.range sums.length, (s.writeFlat h snap 0 sums).gainEntry (gainKey h (channelAt i) (i / 3)) =
      flatEntry snap (sums.getD i 0)) ∧
    (∀ k, (∀ i ∈ List.range sums.length, k ≠ gainKey h (channelAt i) (i / 3)) →
      (s.writeFlat h snap 0 sums).gainEntry k = s.gainEntry k) := by
  rw [writeFlat_eq, mapIdx_eq_range_map _ 0]
  simp only [Nat.zero_add]
  refine ⟨fun i hi => gainEntry_writeGains_of_mem canon ?_ (List.mem_map.2 ⟨i, hi, rfl⟩),
    fun k hk => gainEntry_writeGains_of_not_mem canon fun e he => ?_⟩
  · rw [List.map_map]
    exact samples_nodup h hn
  · obtain ⟨i, hi, rfl⟩ := List.mem_map.1 he
    exact hk i hi

end Flat

theorem map_range_getD (l : List Nat) : (List.range l.length).map (fun i => l.getD i 0) = l := by
  refine List.ext_getElem (by simp) fun j h1 h2 => ?_
  simp [h2]

theorem flatRecord_eq (snap : Snapshot) (sums : List Nat) (clips : Nat) : flatRecord snap sums clips =
    { target := snap.flatTarget, width := snap.correction.w
      dead := (List.range sums.length).countP fun i => flatMean (sums.getD i 0) snap.correction.h = 0
      limited := (List.range sums.length).countP fun i => flatMean (sums.getD i 0) snap.correction.h ≠ 0 ∧
        65535 < flatQuotient snap.flatTarget (flatMean (sums.getD i 0) snap.correction.h)
      clipCount := clips } := by
  have means : sums.map (fun x => flatMean x snap.correction.h) =
      (List.range sums.length).map fun i => flatMean (sums.getD i 0) snap.correction.h := by
    conv => lhs; rw [← map_range_getD sums]
    exact List.map_map
  simp only [flatRecord, means, List.countP_map, Function.comp_def, Bool.decide_and]

/-- Settles O50: the running dark, and then the darks or the gains. -/
theorem calibrationCapturesEnd : Obligations.CalibrationCapturesEnd := by
  intro s h c snap canon other u hp hcap hsnap hl hr hg hready hsw dark ended after
  have hothers : s.head (otherHead h) = other := otherHead_eq s h
  have hne : h ≠ otherHead h := by cases h <;> exact nofun
  have ending {t : State} (ht : s.completeFrame h c snap = t) (hrun : t.run = s.run) (hcradle : t.cradle = s.cradle)
      {v : HeadUnit} (hheads : t.heads = s.heads.set h v) (hidle : v.phase = .idle) :
      exec (.frameEnd h) s = .next (after t) := by
    have hend := frameEnd_of_idle hp hcap hsnap hl hr hg hready hsw ht hrun hcradle
      (by rw [State.head, hheads, PerHead_get_set_same, hidle])
      (by rw [State.head, hheads, PerHead_get_set_ne _ _ hne]; rfl)
    rw [hothers] at hend
    exact done_congr hend
  obtain ⟨hcorr, hactive, -, -⟩ := updateDark_keeps s h snap
  refine ⟨fun hk => ?_, fun hk hlen hw => ?_⟩
  · intro n f level
    have hres : (calibrated s h c snap).darkResult snap =
        { ended with
          correction := { u.correction with fixed := level }, running := level, lastDarkCapture := some level } := by
      have hc : (calibrated s h c snap).correction = u.correction := hcorr
      have ha : (calibrated s h c snap).activeSums = u.activeSums := hactive
      exact darkResult_of_eq snap hc ha
    have ht := (completeFrame_of_dark (s := s) (h := h) (snap := snap) hk)
    rw [hres] at ht
    exact ending ht rfl rfl rfl rfl
  · intro a quotient g key all
    have hbound : u.flatSums.length ≤ 3 * 6144 := by omega
    have hkey (i : Nat) : gainKey h (channelAt i) (i / 3) = key i := by rw [channelAt_eq]
    let base : State := { s with links := dark.links, heads := s.heads.set h (calibrated s h c snap) }
    obtain ⟨hin, hout⟩ := gainEntry_writeFlat (s := base) canon.gain h snap hbound
    have hwrite : base.writeFlat h snap 0 u.flatSums =
        { base with gain := (base.writeFlat h snap 0 u.flatSums).gain } := by
      rw [writeFlat_eq]
      exact writeGains_eq _ _
    have ht := completeFrame_of_flat (s := s) (h := h) (snap := snap) hk
    rw [modHead_of_heads (s := s) (u := calibrated s h c snap) (congrArg State.heads hwrite :)] at ht
    rw [flatRecord_eq] at ht
    rw [hlen] at hin hout ht
    refine ⟨_, ending ht (congrArg State.run hwrite :) (congrArg State.cradle hwrite :) rfl rfl,
      fun i hi => ?_, fun k hk => ?_, ?_⟩
    · rw [← hkey]
      exact hin i hi
    · exact hout k fun i hi => hkey i ▸ hk i hi
    · rw [hwrite]
      rfl

end Sys2Proof.Proofs
end

section
/-! SUPPORT. RUN, SEEK and STOP RUN (R154, R155, R163, R164). -/
namespace Sys2Proof.Proofs
open Sys2Proof.Machine Sys2Proof.Laws

theorem exec_stopRun {s : State} (hi : s.initRunning = false) :
    exec .stopRun s = done (handed s .station .stopRun []) :=
  exec_action rfl rfl rfl (completes_of_arity (fun _ => rfl) rfl) hi

/-! ### SEEK (R155) -/

section SeekTarget
variable {s : State} {h : Handle} {w : Nat}

theorem seekTarget_of_rescan (hc : s.TableClean) (hw : w = 0xFFFF) :
    s.seekTarget h w = (s.rescan.head?.map openingOf, s) := by
  rw [State.seekTarget, if_pos hw, readRescan_of_clean hc.rescan]

theorem seekTarget_of_opening (hw : w ≠ 0xFFFF) (hl : w ≤ (s.vol h).leaves) : s.seekTarget h w = (some w, s) :=
  (if_neg hw).trans (if_pos hl)

theorem seekTarget_of_beyond (hw : w ≠ 0xFFFF) (hl : (s.vol h).leaves < w) : s.seekTarget h w = (none, s) :=
  (if_neg hw).trans (if_neg (Nat.not_le_of_lt hl))

end SeekTarget

theorem seek_of_refused {s t : State} {w : Nat} {r : Reason} (ht : s.startTests = (.error r, t)) :
    seek w s = (.refused r, t) := by
  rw [seek, ht]

section Seek
variable {s : State} {h : Handle} {w : Nat} (hs : s.startTests = (.ok h, s))
include hs

theorem seek_of_noTarget (ht : s.seekTarget h w = (none, s)) : seek w s = (.refused .badParam, s) := by
  rw [seek, hs]
  dsimp only
  rw [ht]

variable {target : Nat} (ht : s.seekTarget h w = (some target, s))
include ht

theorem seek_of_held (hh : s.heldAt h (s.vol h).opening = true) : seek w s = (.refused .undecided, s) := by
  rw [seek, hs]
  dsimp only
  rw [ht]
  exact if_pos hh

variable (hh : s.heldAt h (s.vol h).opening = false)
include hh

/-- An accepted SEEK: it has arrived at once, or it asks for a turn. -/
theorem seek_of_accepted : seek w s =
    (let k := (s.vol h).opening
     let started : State := { s with run := s.run.startSeek target (distance k target + 4) }
     let t := if target = k then started.endRun .arrived .none else started.askTurn (toward k target)
     (.accepted (num16 target ++ num16 t.run.state.place), t)) := by
  rw [seek, hs]
  dsimp only
  rw [ht]
  exact if_neg (by rw [hh]; exact Bool.false_ne_true)

end Seek

theorem distance_eq (a b : Nat) : distance a b = max b a - min b a := by unfold distance; omega

/-! ### STOP RUN (R163) -/

section Stop
variable {s : State}

theorem requestStop_of_requested (hq : s.run.stopRequested = true) : s.requestStop = s := if_pos hq

theorem requestStop_of_first (hq : s.run.stopRequested = false) : s.requestStop = s.firstStop :=
  if_neg (by rw [hq]; exact Bool.false_ne_true)

theorem turnUnderWay_iff : s.turnUnderWay = true ↔ s.turn.phase = .pending ∨ s.turn.phase = .granted := by
  rw [State.turnUnderWay, Bool.or_eq_true, beq_iff_eq, beq_iff_eq]

theorem firstStop_of_idle (hr : s.run.state = .idle) : s.firstStop = s := by
  rw [State.firstStop, hr]

/-- Where the run waits on no exposure and no turn taken up, it ends. -/
theorem firstStop_of_waiting
    (hw : (s.run.state = .preparing ∨ s.run.state = .deciding ∨ s.run.state = .slotWait) ∨
      (s.run.state = .turning ∨ s.run.state = .seeking) ∧ s.turnUnderWay = false) :
    s.firstStop = State.endRun { s with run := { s.run with remaining := 0 } } .stopped .none := by
  unfold State.firstStop
  rcases hw with (hr | hr | hr) | ⟨hr | hr, ht⟩
  · rw [hr]; rfl
  · rw [hr]; rfl
  · rw [hr]; rfl
  · rw [hr, ht]; rfl
  · rw [hr, ht]; rfl

/-- Otherwise the request is kept. -/
theorem firstStop_of_kept
    (hw : s.run.state = .exposing ∨ (s.run.state = .turning ∨ s.run.state = .seeking) ∧ s.turnUnderWay = true) :
    s.firstStop = { s with run := { s.run with remaining := 0, stopRequested := true } } := by
  unfold State.firstStop
  rcases hw with hr | ⟨hr | hr, ht⟩
  · rw [hr]; rfl
  · rw [hr, ht]; rfl
  · rw [hr, ht]; rfl

theorem openingNow_eq : s.openingNow = (s.active.map fun h => (s.vol h).opening).getD 0 := by
  rw [State.openingNow]
  cases s.active <;> rfl

end Stop

/-! ### The obligation -/

section Refusals
variable {s : State} (hi : s.initRunning = false) {n : Word} {r : Reason}
include hi

/-- RUN and SEEK refuse what their common tests refuse. -/
theorem exec_starts_of_refused (ht : (s.taking .station 1).startTests = (.error r, s.taking .station 1)) :
    exec (.run n) s = .next (s.answered .station 1 (.refused r)) ∧
    exec (.seek n) s = .next (s.answered .station 1 (.refused r)) :=
  ⟨exec_of_answer_unread (exec_run hi n) rfl rfl (run_of_refused ht),
    exec_of_answer_unread (exec_seek hi n) rfl rfl (seek_of_refused ht)⟩

end Refusals

theorem run_of_badParam {s : State} {h : Handle} {count : Nat} (hs : s.startTests = (.ok h, s)) (hc : 4095 < count) :
    run count s = (.refused .badParam, s) := by
  rw [run, hs]
  exact if_pos hc

/-- Settles O52: the tests of RUN and SEEK, an accepted SEEK, and STOP RUN by run state. -/
theorem runAndSeekTestsSeekAndStop : Obligations.RunAndSeekTestsSeekAndStop := by
  refine ⟨fun s n hi hc => ?starts, fun s hi hc => ?stop⟩
  case starts =>
    intro refused both c busy
    let s1 := s.taking .station 1
    have hc1 : s1.TableClean := ⟨hc.zero, hc.one, hc.rescan⟩
    refine ⟨fun hr => exec_starts_of_refused hi (startTests_of_running (s := s1) hr),
      fun hr ha => exec_starts_of_refused hi (startTests_of_noVolume (s := s1) hr ha), fun h hr ha hp => ?_⟩
    intro v k
    refine ⟨fun hs => exec_starts_of_refused hi (startTests_of_halted (s := s1) hr ha hc1 hp hs),
      fun hb => exec_starts_of_refused hi (startTests_of_turning (s := s1) hr ha hc1 hp ?_ hb),
      fun hs hb hf => exec_starts_of_refused hi (startTests_of_flying (s := s1) hr ha hc1 hp hs hb hf),
      fun hs hb hf hu => exec_starts_of_refused hi (startTests_of_uncertain (s := s1) hr ha hc1 hp hs hb hf hu),
      fun hs hb hf hu => ?_⟩
    · rcases hb with hb | ⟨hb, -⟩
      · exact fun hh => CradleState.noConfusion (hb.symm.trans hh)
      · exact fun hh => CradleState.noConfusion (hb.symm.trans hh)
    have hok : s1.startTests = (.ok h, s1) := startTests_of_ok (s := s1) hr ha hc1 hp hs hb hf hu
    have hword (hn : n ≠ 0xFFFF) : n.toNat ≠ 0xFFFF := fun h => hn (BitVec.eq_of_toNat_eq h)
    refine ⟨fun hn => exec_of_answer_unread (exec_run hi n) rfl rfl (run_of_badParam hok hn),
      fun hn he => exec_of_answer_unread (exec_seek hi n) rfl rfl (seek_of_noTarget hok ?_),
      fun hn hl => exec_of_answer_unread (exec_seek hi n) rfl rfl
        (seek_of_noTarget hok (seekTarget_of_beyond (hword hn) hl)), fun target htarget => ?_⟩
    · refine (seekTarget_of_rescan hc1 (congrArg BitVec.toNat hn)).trans ?_
      rw [show s1.rescan = [] from he]
      rfl
    have ht : s1.seekTarget h n.toNat = (some target, s1) := by
      rcases htarget with ⟨hn, he⟩ | ⟨hn, he, hl⟩
      · rw [seekTarget_of_rescan hc1 (congrArg BitVec.toNat hn), show s1.rescan = s.rescan from rfl, he]
      · rw [seekTarget_of_opening (hword hn) (by rw [he]; exact hl), he]
    refine ⟨fun hh => exec_of_answer_unread (exec_seek hi n) rfl rfl (seek_of_held hok ht hh), fun hh => ?_⟩
    intro started answer
    have hseek := exec_of_effect_unread (exec_seek hi n) rfl rfl (seek_of_accepted hok ht hh)
    have hdist : distance (s1.vol h).opening target = max target k - min target k := distance_eq _ _
    rw [hdist] at hseek
    refine ⟨fun he => ?_, fun hne => ?_⟩
    · have hclean (r : RunRecord) : State.TableClean { s1 with run := r } := ⟨hc.zero, hc.one, hc.rescan⟩
      have hnow (r : RunRecord) : State.openingNow { s1 with run := r } = k :=
        (openingNow_eq (s := { s1 with run := r })).trans
          (congrArg (fun a : Option Handle => (a.map fun h => (s.vol h).opening).getD 0) ha)
      rw [if_pos (c := target = (s1.vol h).opening) he, endRun_of_clean (hclean _), runEnded, hnow] at hseek
      exact hseek
    · rw [if_neg (c := target = (s1.vol h).opening) hne] at hseek
      exact hseek
  case stop =>
    intro taken waits turns
    let s0 := s.taking .station 0
    have hc0 : s0.TableClean := ⟨hc.zero, hc.one, hc.rescan⟩
    have stopped {t : State} (ht : s0.requestStop = t) : exec .stopRun s = .next
        { t.modLink .station (·.answer (.accepted (num16 t.run.state.place))) with skippedNow := [] } := by
      subst ht
      exact exec_of_effect_unread (exec_stopRun hi) rfl rfl rfl
    have hunder : ¬taken → s0.turnUnderWay = false := fun h => Bool.eq_false_iff.2 (mt turnUnderWay_iff.1 h)
    refine ⟨fun hr => ?_, fun hq => stopped (requestStop_of_requested (s := s0) hq), fun hq hw => ?_, fun hq hw => ?_⟩
    · have hsame : s0.requestStop = s0 := by
        cases hq : s0.run.stopRequested with
        | true => exact requestStop_of_requested hq
        | false => exact (requestStop_of_first hq).trans (firstStop_of_idle (s := s0) hr)
      have hstop := stopped hsame
      rw [show s0.run.state = .idle from hr] at hstop
      exact hstop
    · have hend := firstStop_of_waiting (s := s0) (hw.imp_right fun h => ⟨h.1, hunder h.2⟩)
      rw [endRun_of_clean (s := { s0 with run := { s0.run with remaining := 0 } }) ⟨hc.zero, hc.one, hc.rescan⟩,
        runEnded, openingNow_eq] at hend
      exact stopped ((requestStop_of_first (s := s0) hq).trans hend)
    · have hkept := firstStop_of_kept (s := s0) (hw.imp_right fun h => ⟨h.1, turnUnderWay_iff.2 h.2⟩)
      exact stopped ((requestStop_of_first (s := s0) hq).trans hkept)

end Sys2Proof.Proofs
end

section
/-! SUPPORT. The run record through the slot store, the delivery engine and the end of a frame (R36, R37, R112, R170 to
R176): none of them writes it. -/
namespace Sys2Proof.Proofs
open Sys2Proof.Machine Sys2Proof.Laws

theorem Discarding.run {s t : State} (a : Discarding s t) : t.run = s.run := a.same State.run fun _ => rfl

theorem run_of_readLeaf {s t : State} {h : Handle} {n : Nat} {ws : List LeafWord} {ok : Bool}
    (e : s.readLeaf h n ws = (ok, t)) : t.run = s.run := by
  have kept := (discarding_readLeaf s h n ws).run
  rwa [e] at kept

/-- A run record read through a choice of states that both have it. -/
theorem run_ite {c : Prop} [Decidable c] {s t u : State} (ht : t.run = s.run) (hu : u.run = s.run) :
    (if c then t else u).run = s.run := by
  split
  · exact ht
  · exact hu

/-! ### The rescan list -/

theorem run_count (s : State) (h : Handle) (f : VolumeCounters → VolumeCounters) : (s.count h f).run = s.run :=
  (discarding_count s h f).run

theorem run_readVolume (s : State) (h : Handle) : (s.readVolume h).run = s.run := (discarding_readVolume s h).run

theorem run_readRescan (s : State) : s.readRescan.run = s.run := by
  unfold State.readRescan
  split <;> rfl

theorem run_joinRescan (s : State) (h : Handle) (d : Side) : (s.joinRescan h d).run = s.run := by
  unfold State.joinRescan
  dsimp only
  split
  · refine Eq.trans ?_ ((run_readRescan _).trans (run_readVolume s h))
    split
    · rfl
    · exact run_count _ h fun c => { c with rescanOverflow := c.rescanOverflow + 1 }
  · exact run_readVolume s h

theorem run_leaveRescan (s : State) (h : Handle) (d : Side) : (s.leaveRescan h d).run = s.run := by
  unfold State.leaveRescan
  dsimp only
  split
  · refine Eq.trans ?_ ((run_readRescan _).trans (run_readVolume s h))
    split
    · rfl
    · exact run_count _ h fun c => { c with rescanOverflow := c.rescanOverflow - 1 }
  · exact run_readVolume s h

theorem run_clearRescan (s : State) (h : Handle) (d : Side) : (s.clearRescan h d).run = s.run := by
  unfold State.clearRescan
  split
  · exact run_leaveRescan _ _ _
  · rfl

/-! ### The delivery engine (R170 to R176) -/

theorem run_markDamaged (s : State) : s.markDamaged.run = s.run := by
  unfold State.markDamaged
  split
  · rfl
  · split <;> rfl

theorem run_readSample (s : State) (a : Nat) : (s.readSample a).2.run = s.run := by
  unfold State.readSample
  dsimp only
  split
  · rfl
  · rfl
  · exact run_markDamaged s

theorem run_readValue (s : State) (d : Delivery) (l i : Nat) : (s.readValue d l i).2.run = s.run := by
  unfold State.readValue
  dsimp only
  split
  · exact run_readSample _ _
  · exact run_readSample _ _
  · exact (run_readSample _ _).trans ((run_readSample _ _).trans (run_readSample _ _))
  · exact (run_readSample _ _).trans ((run_readSample _ _).trans (run_readSample _ _))

theorem run_readValues (s : State) (d : Delivery) (l : Nat) (is : List Nat) : (s.readValues d l is).2.run = s.run := by
  induction is generalizing s with
  | nil => rfl
  | cons i is ih => exact (ih _).trans (run_readValue s d l i)

theorem run_offerPixel (s : State) : s.offerPixel.run = s.run := by
  unfold State.offerPixel
  split
  · rfl
  · exact run_readValues _ _ _ _

theorem run_startDelivery (s : State) : s.startDelivery.run = s.run := by
  unfold State.startDelivery
  split
  · dsimp only
    split
    · rfl
    · exact ((discarding_readLeaf _ _ _ _).run.trans (run_readVolume _ _) :)
  · rfl

theorem run_enqueue (s : State) (i : SlotNo) : (s.enqueue i).run = s.run := run_startDelivery _

theorem run_settleComplete (s : State) (i : SlotNo) (o : Owner) : (s.settleComplete i o).run = s.run := by
  unfold State.settleComplete
  dsimp only
  refine (discarding_freeSlot _ _).run.trans ?_
  split
  · next e => exact (discarding_skipUpdate _ _ _).run.trans (run_of_readLeaf e)
  · next e =>
    have kept := run_of_readLeaf e
    split
    · exact (run_count _ _ _).trans kept
    · exact kept

theorem run_settleDamaged (s : State) (i : SlotNo) (o : Owner) : (s.settleDamaged i o).run = s.run := by
  unfold State.settleDamaged
  dsimp only
  refine (discarding_freeSlot _ _).run.trans ?_
  split
  · next e => exact (discarding_skipUpdate _ _ _).run.trans (run_of_readLeaf e)
  · next e =>
    have kept := run_of_readLeaf e
    split
    · split
      · exact (run_joinRescan _ _ _).trans kept
      · exact kept
    · exact kept

theorem run_endDelivery (s : State) (d : Delivery) : (s.endDelivery d).run = s.run := by
  unfold State.endDelivery
  dsimp only
  split
  · exact (run_settleDamaged _ _ _ :)
  · exact (run_settleComplete _ _ _ :)

theorem run_takePixel (s : State) (d : Delivery) (w : PortWord) : (s.takePixel d w).run = s.run := by
  unfold State.takePixel
  exact run_ite (run_endDelivery _ _ :) (run_offerPixel _ :)

theorem run_takeWord (s : State) : s.takeWord.run = s.run := by
  unfold State.takeWord
  split
  · rfl
  · split
    · rfl
    · split
      · split
        · split
          · rfl
          · exact (run_offerPixel _ :)
        · rfl
      · exact run_takePixel _ _ _
      · split
        · exact (run_startDelivery _ :)
        · rfl

/-! ### The keep and the verdict (R34, R36, R37) -/

theorem run_foldl_freeSlot (s : State) (l : List SlotNo) : (l.foldl State.freeSlot s).run = s.run := by
  induction l generalizing s with
  | nil => rfl
  | cons i l ih => exact (ih _).trans (discarding_freeSlot s i).run

theorem run_setBlank (s : State) (h : Handle) (d : Side) (b : Bool) : (s.setBlank h d b).run = s.run := by
  unfold State.setBlank
  split
  · rfl
  · exact (run_count _ _ _ :)

theorem run_adjustExposure (s : State) (x : Slot) : (s.adjustExposure x).run = s.run := by
  unfold State.adjustExposure
  split <;> rfl

theorem run_keepSlot (s : State) (i : SlotNo) (o : Owner) : (s.keepSlot i o).run = s.run := by
  unfold State.keepSlot
  dsimp only
  refine run_ite ((run_enqueue _ _).trans ?_) ?_ <;>
  · refine (run_adjustExposure _ _).trans (run_ite ((run_clearRescan _ _ _).trans ?_) ?_) <;>
    exact (run_setBlank _ _ _ _).trans ((run_count _ _ _).trans ((run_foldl_freeSlot _ _).trans
      (run_ite (s := s) (run_count _ _ _) rfl)))

theorem run_actOnVerdict (s : State) (i : SlotNo) (o : Owner) (v : Verdict) : (s.actOnVerdict i o v).run = s.run := by
  cases v with
  | keep =>
    unfold State.actOnVerdict
    dsimp only
    split
    · next e => exact (run_keepSlot _ _ _).trans (run_of_readLeaf e)
    · next e => exact (discarding_skipUpdate _ _ _).run.trans (run_of_readLeaf e)
  | hold => exact (discarding_updateFace _ _ _ _ _).run

theorem run_judge (s : State) (h : Head) (c : CaptureRecord) (snap : Snapshot) : (s.judge h c snap).run = s.run := by
  unfold State.judge
  dsimp only
  split
  · rfl
  · split
    · rfl
    · exact (run_actOnVerdict _ _ _ _ :)

/-! ### The end of a complete frame (R112, R115) -/

theorem run_completeFrame (s : State) (h : Head) (c : CaptureRecord) (snap : Snapshot) :
    (s.completeFrame h c snap).run = s.run := by
  cases hk : c.kind with
  | normal =>
    have hbranch : s.completeFrame h c snap = ((s.modHead h frameClosed).updateDark h snap).judge h c snap := by
      rw [State.completeFrame, hk]
      rfl
    rw [hbranch, run_judge, updateDark_frameClosed]
  | dark => rw [completeFrame_of_dark hk]
  | flat =>
    rw [completeFrame_of_flat hk, writeFlat_eq, writeGains_eq]
    rfl

theorem reportFreed_of_running {s t : State} (hr : t.run.state ≠ .slotWait) : t.reportFreed s = t :=
  if_neg fun h => hr h.1

section LastCapture
variable {s : State} {h : Head} (hl : ∀ p, p ≠ h → (s.head p).phase = .idle) (hr : s.run.state ≠ .slotWait)
include hl hr

/-- The last capture of an exposure breaks off, and the exposure ends with it. -/
theorem headError_of_last (cause : AbortCause) :
    s.headError h cause = (s.abortCapture h cause).exposureEnd := by
  have hrun : (s.abortCapture h cause).run = s.run := (discarding_abortCapture_stopped s h cause).run
  have hidle (p : Head) : ((s.abortCapture h cause).head p).phase = .idle := by
    rw [phase_abortCapture]
    split
    · rfl
    · next hne => exact hl p hne
  have hflight : (s.abortCapture h cause).inFlight = false := inFlight_eq_false.2 ⟨hidle .left, hidle .right⟩
  rw [State.headError, reportFreed_of_running (by rw [hrun]; exact hr)]
  exact if_neg (by rw [hflight]; exact Bool.false_ne_true)

/-- The last capture of an exposure is complete, and the exposure ends with it. -/
theorem frameEnd_of_last {c : CaptureRecord} {snap : Snapshot} (hp : (s.head h).phase = .capturing)
    (hc : (s.head h).capture = some c) (hs : (s.head h).snapshot = some snap) (hle : snap.correction.h ≤ c.lines) :
    frameEnd h s = (s.completeFrame h c snap).exposureEnd := by
  have hrun := run_completeFrame s h c snap
  have hidle (p : Head) : ((s.completeFrame h c snap).head p).phase = .idle := by
    rw [(completeFrame_spec s h c snap).2]
    split
    · rfl
    · next hne => exact hl p hne
  have hflight : (s.completeFrame h c snap).inFlight = false := inFlight_eq_false.2 ⟨hidle .left, hidle .right⟩
  rw [frameEnd_of_complete hp hc hs hle, reportFreed_of_running (by rw [hrun]; exact hr)]
  exact if_neg (by rw [hflight]; exact Bool.false_ne_true)

end LastCapture

end Sys2Proof.Proofs
end

section
/-! SUPPORT. The run controller's cycle and the end of its exposure (R157 to R161, R164, R115). -/
namespace Sys2Proof.Proofs
open Sys2Proof.Machine Sys2Proof.Laws

/-! ### The sides a cycle captures (R157) -/

/-- Whether a cycle passes over a head's side of an opening: its record is valid, and it is skipped or settled. -/
def sidePassed (s : State) (h : Handle) (k : Nat) (p : Head) : Bool :=
  (s.leaf h (sideAt k p).leaf).valid && ((s.face h (sideAt k p)).skip || (s.face h (sideAt k p)).isSettled 1)

/-- The sides a cycle captures. -/
def sidesTaken (s : State) (h : Handle) (k : Nat) : List (Head × Nat) :=
  (if sidePassed s h k .left then [] else [(Head.left, 1)]) ++ (if sidePassed s h k .right then [] else [(Head.right, 1)])

theorem sidesTaken_eq_nil_iff {s : State} {h : Handle} {k : Nat} :
    sidesTaken s h k = [] ↔ sidePassed s h k .left = true ∧ sidePassed s h k .right = true := by
  unfold sidesTaken
  cases sidePassed s h k .left
  · simp
  · cases sidePassed s h k .right <;> simp

theorem sidePassed_eq_false_iff {s : State} {h : Handle} {k : Nat} {p : Head} : sidePassed s h k p = false ↔
    (s.leaf h (sideAt k p).leaf).valid = false ∨
      ((s.face h (sideAt k p)).skip = false ∧ (s.face h (sideAt k p)).isSettled 1 = false) := by
  rw [sidePassed, Bool.and_eq_false_iff, Bool.or_eq_false_iff]

theorem valid_of_sidePassed {s : State} {h : Handle} {k : Nat} {p : Head} (hp : sidePassed s h k p = true) :
    (s.leaf h (sideAt k p).leaf).valid = true := ((Bool.and_eq_true _ _).mp hp).1

theorem chooseSide_of_clean {s : State} {h : Handle} {k : Nat} {p : Head}
    (he : (s.leaf h (sideAt k p).leaf).valid = true → (s.leaf h (sideAt k p).leaf).errors = []) :
    s.chooseSide h k p = (!sidePassed s h k p, s) := by
  unfold State.chooseSide
  dsimp only
  cases hv : (s.leaf h (sideAt k p).leaf).valid with
  | false =>
    rw [readLeaf_of_invalid hv, sidePassed, hv]
    rfl
  | true =>
    rw [readLeaf_of_clean hv (he hv), sidePassed, hv, Bool.true_and, Bool.not_or]

/-! ### The cycle's step (R157, R158, R161) -/

section Cycle
variable {s : State} {h : Handle} (ha : s.active = some h) (hc : s.TableClean)
include ha hc

theorem cycleStep_of_held (hh : s.heldAt h (s.vol h).opening = true) : s.cycleStep =
    if s.run.stopRequested then s.endRun .stopped .none else { s with run := { s.run with state := .deciding } } := by
  rw [State.cycleStep, ha]
  dsimp only
  rw [readVolume_of_clean (vol_clean hc h)]
  exact if_pos hh

/-- With no capture held and no record in doubt, the step passes on or captures. -/
theorem cycleStep_of_clear (hh : s.heldAt h (s.vol h).opening = false)
    (he : ∀ p, (s.leaf h (sideAt (s.vol h).opening p).leaf).valid = true →
      (s.leaf h (sideAt (s.vol h).opening p).leaf).errors = []) : s.cycleStep =
    if sidesTaken s h (s.vol h).opening = [] then s.passOn h (s.vol h).opening
    else s.captureChosen (sidesTaken s h (s.vol h).opening) := by
  have hsides : ((if !sidePassed s h (s.vol h).opening .left then [(Head.left, 1)] else []) ++
      if !sidePassed s h (s.vol h).opening .right then [(Head.right, 1)] else []) =
      sidesTaken s h (s.vol h).opening := by
    unfold sidesTaken
    cases sidePassed s h (s.vol h).opening .left <;> cases sidePassed s h (s.vol h).opening .right <;> rfl
  rw [State.cycleStep, ha]
  dsimp only
  rw [readVolume_of_clean (vol_clean hc h), if_neg (by rw [hh]; exact Bool.false_ne_true), chooseSide_of_clean (he .left)]
  dsimp only
  rw [chooseSide_of_clean (he .right)]
  dsimp only
  rw [hsides]

end Cycle

section Steps
variable {s : State} {h : Handle} {k : Nat}

theorem passOn_of_valid (hv : ∀ p, (s.leaf h (sideAt k p).leaf).valid = true) : s.passOn h k =
    if 1 < (s.face h (sideAt k .left)).declared ∨ 1 < (s.face h (sideAt k .right)).declared then s.endRun .foldout .none
    else if (s.vol h).leaves ≤ k then s.endRun .endOfVolume .none
    else State.askTurn { s with run := { s.run with state := .turning } } .forward := by
  unfold State.passOn
  dsimp only
  rw [hv .left, hv .right]
  rfl

variable {rs : List (Head × Nat)}

theorem captureChosen_of_stopped (hq : s.run.stopRequested = true) : s.captureChosen rs = s.endRun .stopped .none :=
  if_pos hq

variable (hq : s.run.stopRequested = false) (hp : s.cradle.parityGood = true)
include hq hp

theorem captureChosen_of_good : s.captureChosen rs = if s.cradle.state ≠ .ready then s.prepare else s.runAttempt rs := by
  rw [State.captureChosen, hq, hp]
  rfl

theorem captureChosen_of_moving (hr : s.cradle.state ≠ .ready) (ho : s.cradle.state ≠ .opened) :
    s.captureChosen rs = { s with run := { s.run with state := .preparing } } :=
  (captureChosen_of_good hq hp).trans ((if_pos hr).trans (if_neg ho))

theorem captureChosen_of_open (ho : s.cradle.state = .opened) (hd : s.cradle.downSwitch = false) :
    s.captureChosen rs = State.enter { s with run := { s.run with state := .preparing } } .lowering := by
  have hlower : s.prepare = State.enterChecked { s with run := { s.run with state := .preparing } } .lowering :=
    if_pos ho
  rw [captureChosen_of_good hq hp, if_pos (by rw [ho]; exact nofun), hlower]
  exact enterChecked_of_agree (agree_lowering_iff.2 hd)

theorem captureChosen_of_ready (hr : s.cradle.state = .ready) : s.captureChosen rs = s.runAttempt rs :=
  (captureChosen_of_good hq hp).trans (if_neg (not_not_intro hr))

end Steps

/-- The outcome of the run's exposure attempt. -/
theorem runAttempt_cases {s t : State} {rs : List (Head × Nat)} {a : Attempt}
    (e : State.attemptExposure { s with requests := s.requests + 1 } rs = (a, t)) :
    (∀ slots, a = .started slots → s.runAttempt rs = { t with run := { t.run with slots := slots, state := .exposing } }) ∧
    (a = .refused .slotsFull → s.runAttempt rs = { t with run := { t.run with state := .slotWait } }) ∧
    (a = .refused .doseLimit → s.runAttempt rs = t.endRun .dose .none) ∧
    (∀ r, a = .refused r → r ≠ .slotsFull → r ≠ .doseLimit → s.runAttempt rs = t.endRun .fault (.refusal r)) := by
  have e : s.countRequest.attemptExposure rs = (a, t) := e
  unfold State.runAttempt
  rw [e]
  refine ⟨fun slots ha => ?_, fun ha => ?_, fun ha => ?_, fun r ha hfull hdose => ?_⟩
  · subst ha; rfl
  · subst ha; rfl
  · subst ha; rfl
  · subst ha
    split
    · next ht => cases ht
    · next ht =>
      cases ht
      exact absurd rfl hfull
    · next ht =>
      cases ht
      exact absurd rfl hdose
    · next ht =>
      cases ht
      rfl

/-! ### A run in PREPARING, when the cradle arrives (R158) -/

theorem reachReady_of_preparing {s : State} (hu : s.cradle.upSwitch = false) (hd : s.cradle.downSwitch = true)
    (hr : s.run.state = .preparing) : s.reachReady = (s.enter .ready).cycleStep := by
  rw [State.reachReady, enterChecked_of_agree (agree_ready_iff.2 ⟨hu, hd⟩)]
  exact if_pos ⟨rfl, hr⟩

/-- The cradle opens, and the run lowers it again at once. -/
theorem reachOpen_of_preparing {s : State} (hu : s.cradle.upSwitch = true) (hd : s.cradle.downSwitch = false)
    (hg : s.cradle.grantPending = false) (hr : s.run.state = .preparing) :
    s.reachOpen = ((s.enter .opened).postTurner .cradleOpen).enter .lowering := by
  have hlower : ((s.enter .opened).postTurner .cradleOpen).lowerRequest =
      ((s.enter .opened).postTurner .cradleOpen).enter .lowering :=
    (if_pos rfl).trans (enterChecked_of_agree (agree_lowering_iff.2 hd))
  rw [State.reachOpen, enterChecked_of_agree (agree_opened_iff.2 ⟨hu, hd⟩), ← hlower]
  refine (if_pos rfl).trans ((if_neg fun h => ?_).trans (if_pos hr))
  exact Bool.false_ne_true (hg.symm.trans h)

/-! ### The end of the run's exposure (R159, R115) -/

section Aborts
variable {s : State} {p : Head}

theorem runAbort_of_aborted {i : SlotNo} {c : CaptureRecord} {cause : AbortCause} (hs : s.run.slots.get p = some i)
    (hc : (s.head p).capture = some c) (ho : c.outcome = .aborted cause) : s.runAbort p = some cause := by
  unfold State.runAbort
  rw [hs, hc]
  dsimp only
  rw [ho]

theorem runAbort_of_whole (hw : s.run.slots.get p = none ∨
    ∃ i c, s.run.slots.get p = some i ∧ (s.head p).capture = some c ∧ ∀ cause, c.outcome ≠ .aborted cause) :
    s.runAbort p = none := by
  unfold State.runAbort
  rcases hw with hs | ⟨i, c, hs, hc, ho⟩
  · rw [hs]
  · rw [hs, hc]
    dsimp only
    split
    · next cause hx => exact absurd hx (ho cause)
    · rfl

end Aborts

section Exposed
variable {s : State} (hr : s.run.state = .exposing)
include hr

theorem runExposureEnded_of_left {l : AbortCause} (hl : s.runAbort .left = some l) (hn : s.runAbort .right = none) :
    s.runExposureEnded = s.endRun .fault (.capture .left l) := by
  rw [State.runExposureEnded, if_pos hr, hl, hn]

theorem runExposureEnded_of_right {r : AbortCause} (hn : s.runAbort .left = none) (h : s.runAbort .right = some r) :
    s.runExposureEnded = s.endRun .fault (.capture .right r) := by
  rw [State.runExposureEnded, if_pos hr, hn, h]

/-- Which of two aborts the detail names is a free value (log 14). -/
theorem runExposureEnded_of_both {l r : AbortCause} (hl : s.runAbort .left = some l) (h : s.runAbort .right = some r) :
    s.runExposureEnded = s.drawn.endRun .fault (.capture .left l) ∨
      s.runExposureEnded = s.drawn.endRun .fault (.capture .right r) := by
  rw [State.runExposureEnded, if_pos hr, hl, h]
  dsimp only
  cases Config.bothAbortedNamesLeft s.draws
  · exact .inr rfl
  · exact .inl rfl

theorem runExposureEnded_of_none (hl : s.runAbort .left = none) (h : s.runAbort .right = none) :
    s.runExposureEnded = State.cycleStep { s with run := { s.run with slots := ⟨none, none⟩ } } := by
  rw [State.runExposureEnded, if_pos hr, hl, h]
  rfl

end Exposed

/-- The settling of the cradle after an exposure leaves the run, the heads and the free values alone. -/
theorem afterExposure_same {α : Type} (f : State → α)
    (hf : ∀ (s : State) (c : Cradle) (l : Lighting), f { s with cradle := c, light := l } = f s) (s : State) :
    f s.afterExposure = f s := by
  unfold State.afterExposure
  split
  · exact hf s _ _
  · split
    · exact hf s _ _
    · rfl

end Sys2Proof.Proofs
end

section
/-! SUPPORT. A run's steps (R154, R157 to R161, R164, R115). -/
namespace Sys2Proof.Proofs
open Sys2Proof.Machine Sys2Proof.Laws

/-- A RUN that passes its tests answers with what its first step makes of it. -/
theorem exec_run_of_step {s t : State} {h : Handle} {n : Word} (hi : s.initRunning = false) (hn : n.toNat ≤ 4095)
    (hok : (s.taking .station 1).startTests = (.ok h, s.taking .station 1))
    (ht : State.cycleStep { s.taking .station 1 with run := s.run.startRun n.toNat } = t) :
    exec (.run n) s = .next
      { t.modLink .station (·.answer (.accepted [BitVec.ofNat 16 t.run.state.place])) with skippedNow := [] } := by
  subst ht
  exact exec_of_effect_unread (exec_run hi n) rfl rfl (run_of_ok hok hn)

/-- A RUN that meets every test of R154 is accepted, and the controller takes its first step. -/
theorem exec_run_of_accepted (s : State) (h : Handle) (n : Word) (hi : s.initRunning = false) (hc : s.TableClean)
    (hn : n.toNat ≤ 4095) (hr : s.run.state = .idle) (ha : s.active = some h) (hp : s.cradle.parityGood = true)
    (hf : s.inFlight = false) (hu : (s.vol h).uncertain = false) (hhalt : s.cradle.state ≠ .halted)
    (hturn : s.cradle.state ≠ .turnGranted) (hraise : ¬(s.cradle.state = .raising ∧ s.cradle.grantPending = true))
    {t : State} (ht : State.cycleStep { s.taking .station 1 with run := s.run.startRun n.toNat } = t) :
    exec (.run n) s = .next
      { t.modLink .station (·.answer (.accepted [BitVec.ofNat 16 t.run.state.place])) with skippedNow := [] } :=
  exec_run_of_step hi hn (startTests_of_ok (s := s.taking .station 1) hr ha ⟨hc.zero, hc.one, hc.rescan⟩ hp hhalt
    (fun hb => hb.elim hturn hraise) hf hu) ht

section Whose
variable {s t : State} {p : Head}

/-- Whose capture of the run's exposure broke off is told by the run's slots and the head's record. -/
theorem runAbort_congr (hr : t.run = s.run) (hh : t.heads = s.heads) : t.runAbort p = s.runAbort p := by
  unfold State.runAbort State.head
  rw [hr, hh]

end Whose

/-- Settles O53: the first step of a RUN, a step in the midst of one, and what the ends of travels, runs, exposures and
deliveries make of it. -/
theorem runTakesItsFirstStep : Obligations.RunTakesItsFirstStep := by
  refine ⟨?first, ?step, ?preparing, ?ending, ?exposed, ?last, ?slot⟩
  case first =>
    intro s h n hi hc hn hr ha hp hf hu hhalt hturn hraise k face clean chosen capture started answer finished foldout
    let b : State := { s.taking .station 1 with run := started }
    have hcb : b.TableClean := ⟨hc.zero, hc.one, hc.rescan⟩
    have ran {t : State} (ht : b.cycleStep = t) : exec (.run n) s = .next
        { t.modLink .station (·.answer (.accepted [BitVec.ofNat 16 t.run.state.place])) with skippedNow := [] } :=
      exec_run_of_accepted s h n hi hc hn hr ha hp hf hu hhalt hturn hraise ht
    have hend (r : EndReason) (ht : b.cycleStep = b.endRun r .none) : exec (.run n) s = .next (finished r) := by
      have hnow : b.openingNow = k := (openingNow_eq (s := b)).trans
        (congrArg (fun a : Option Handle => (a.map fun h => (s.vol h).opening).getD 0) ha)
      rw [endRun_of_clean hcb, runEnded, hnow] at ht
      exact ran ht
    have hvalid (hcl : clean) (p : Head) : (b.leaf h (sideAt k p).leaf).valid = true := by
      cases p
      · exact hcl.1.1
      · exact hcl.2.1
    have herrors (hcl : clean) (p : Head) : (b.leaf h (sideAt k p).leaf).errors = [] := by
      cases p
      · exact hcl.1.2
      · exact hcl.2.2
    have hchosen (hcl : clean) (p : Head) : sidePassed b h k p = false ↔ chosen p := by
      rw [sidePassed_eq_false_iff, hvalid hcl]
      exact ⟨fun hx => hx.elim (fun hx => absurd hx Bool.true_eq_false.mp) id, .inr⟩
    have hstep (hh : s.heldAt h k = false) (hcl : clean) : b.cycleStep =
        if sidesTaken b h k = [] then b.passOn h k else b.captureChosen (sidesTaken b h k) :=
      cycleStep_of_clear (s := b) ha hcb hh fun p _ => herrors hcl p
    have hpass (hh : s.heldAt h k = false) (hcl : clean) (hno : ¬capture) : b.cycleStep = b.passOn h k := by
      rw [hstep hh hcl]
      refine if_pos (sidesTaken_eq_nil_iff.2 ⟨?_, ?_⟩)
      · exact Bool.of_not_eq_false fun hx => hno (.inl ((hchosen hcl .left).1 hx))
      · exact Bool.of_not_eq_false fun hx => hno (.inr ((hchosen hcl .right).1 hx))
    have htake (hh : s.heldAt h k = false) (hcl : clean) (hcap : capture) :
        b.cycleStep = b.captureChosen (sidesTaken b h k) := by
      rw [hstep hh hcl]
      refine if_neg fun hx => ?_
      obtain ⟨hl, hr⟩ := sidesTaken_eq_nil_iff.1 hx
      rcases hcap with hcap | hcap
      · exact Bool.false_ne_true (((hchosen hcl .left).2 hcap).symm.trans hl)
      · exact Bool.false_ne_true (((hchosen hcl .right).2 hcap).symm.trans hr)
    refine ⟨fun hh => ?_, fun hh hcl hno hfold => ?_, fun hh hcl hno hfold hle => ?_, fun hh hcl hno hfold hlt => ?_,
      fun hh hcl hcap => ⟨fun hmove => ?_, fun hopen hdown => ?_, fun hready => ?_⟩⟩
    · have hheld := cycleStep_of_held (s := b) ha hcb hh
      exact ran hheld
    · refine hend .foldout ((hpass hh hcl hno).trans ((passOn_of_valid (hvalid hcl)).trans (if_pos ?_)))
      exact hfold
    · refine hend .endOfVolume ((hpass hh hcl hno).trans ((passOn_of_valid (hvalid hcl)).trans
        ((if_neg ?_).trans (if_pos ?_))))
      · exact hfold
      · exact hle
    · refine ran ((hpass hh hcl hno).trans ((passOn_of_valid (hvalid hcl)).trans ((if_neg ?_).trans (if_neg ?_))))
      · exact hfold
      · exact Nat.not_le_of_lt hlt
    · have hready : b.cradle.state ≠ .ready ∧ b.cradle.state ≠ .opened := by
        rcases hmove with hs | hs | hs <;> exact ⟨fun hx => CradleState.noConfusion (hs.symm.trans hx),
          fun hx => CradleState.noConfusion (hs.symm.trans hx)⟩
      have hmoving := (htake hh hcl hcap).trans (captureChosen_of_moving (s := b) rfl hp hready.1 hready.2)
      exact ran hmoving
    · have hlower := (htake hh hcl hcap).trans (captureChosen_of_open (s := b) rfl hp hopen hdown)
      exact ran hlower
    · intro rs base finish a t e
      have hrs : sidesTaken b h k = rs := by
        have side (p : Head) : (if sidePassed b h k p then [] else [(p, 1)]) = if chosen p then [(p, 1)] else [] := by
          cases hx : sidePassed b h k p with
          | false => exact (if_neg Bool.false_ne_true).trans (if_pos ((hchosen hcl p).1 hx)).symm
          | true =>
            exact (if_pos rfl).trans (if_neg fun hy => Bool.false_ne_true (((hchosen hcl p).2 hy).symm.trans hx)).symm
        exact congr (congrArg (fun x y => x ++ y) (side .left)) (side .right)
      have hattempt := (htake hh hcl hcap).trans (captureChosen_of_ready (s := b) rfl hp hready)
      rw [hrs] at hattempt
      obtain ⟨hstarted, hfull, hdose, hother⟩ := runAttempt_cases (s := b) e
      exact ⟨fun slots hs => ran (hattempt.trans (hstarted slots hs)), fun hs => ran (hattempt.trans (hfull hs)),
        fun hs => ran (hattempt.trans (hdose hs)), fun r hs h1 h2 => ran (hattempt.trans (hother r hs h1 h2))⟩
  case step =>
    intro s h hc ha k leaf face chosen capture foldout now
    have hchosen (p : Head) : sidePassed s h k p = false ↔ chosen p := sidePassed_eq_false_iff
    refine ⟨cycleStep_of_held ha hc, fun hh he => ?_⟩
    have hstep := cycleStep_of_clear ha hc hh he
    have hpass (hno : ¬capture) : s.cycleStep = s.passOn h k ∧ ∀ p, (s.leaf h (sideAt k p).leaf).valid = true := by
      have hl : sidePassed s h k .left = true := Bool.of_not_eq_false fun hx => hno (.inl ((hchosen .left).1 hx))
      have hr : sidePassed s h k .right = true := Bool.of_not_eq_false fun hx => hno (.inr ((hchosen .right).1 hx))
      refine ⟨hstep.trans (if_pos (sidesTaken_eq_nil_iff.2 ⟨hl, hr⟩)), fun p => ?_⟩
      cases p
      · exact valid_of_sidePassed hl
      · exact valid_of_sidePassed hr
    have htake (hcap : capture) : s.cycleStep = s.captureChosen (sidesTaken s h k) := by
      refine hstep.trans (if_neg fun hx => ?_)
      obtain ⟨hl, hr⟩ := sidesTaken_eq_nil_iff.1 hx
      rcases hcap with hcap | hcap
      · exact Bool.false_ne_true (((hchosen .left).2 hcap).symm.trans hl)
      · exact Bool.false_ne_true (((hchosen .right).2 hcap).symm.trans hr)
    have hon (hno : ¬capture) := (hpass hno).1.trans (passOn_of_valid (hpass hno).2)
    refine ⟨fun hno hfold => (hon hno).trans (if_pos hfold),
      fun hno hfold hle => (hon hno).trans ((if_neg hfold).trans (if_pos hle)),
      fun hno hfold hlt => (hon hno).trans ((if_neg hfold).trans (if_neg (Nat.not_le_of_lt hlt))),
      fun hcap hq => (htake hcap).trans (captureChosen_of_stopped hq), fun hcap hq hp => ?_⟩
    intro preparing
    refine ⟨fun hr ho => (htake hcap).trans (captureChosen_of_moving hq hp hr ho),
      fun ho hd => (htake hcap).trans (captureChosen_of_open hq hp ho hd), fun hr => ?_⟩
    intro rs a t e
    have hattempt := (htake hcap).trans (captureChosen_of_ready hq hp hr)
    obtain ⟨hstarted, hfull, hdose, hother⟩ := runAttempt_cases e
    exact ⟨fun slots hs => hattempt.trans (hstarted slots hs), fun hs => hattempt.trans (hfull hs),
      fun hs => hattempt.trans (hdose hs), fun r hs h1 h2 => hattempt.trans (hother r hs h1 h2)⟩
  case preparing =>
    intro s hr hp
    refine ⟨fun ht hu hd => done_congr ((settleTimerExpiry_of_running hp ht).trans (reachReady_of_preparing hu hd hr)),
      fun hs hu hd hg => done_congr ?_⟩
    exact (upSwitchAsserted_of_clear hp hu).trans ((if_pos hs).trans (reachOpen_of_preparing rfl hd hg hr))
  case ending => exact fun s reason detail hc => endRun_of_clean hc reason detail
  case exposed =>
    intro s hr hp hs hsw t ended broken whole
    have hsettle : (s.postStation .captureDone).settleAfterExposure = t :=
      settleAfterExposure_of_agree (by exact hp) (by exact hs) (by exact hsw)
    have hrun : t.run = s.run := afterExposure_same State.run (fun _ _ _ => rfl) _
    have hheads : t.heads = s.heads := afterExposure_same State.heads (fun _ _ _ => rfl) _
    have hdraws : t.draws = s.draws := afterExposure_same State.draws (fun _ _ _ => rfl) _
    have hexp : t.run.state = .exposing := by rw [hrun]; exact hr
    have hend : s.exposureEnd = t.runExposureEnded := congrArg State.runExposureEnded hsettle
    have habort {p : Head} {cause : AbortCause} (hb : broken p cause) : t.runAbort p = some cause := by
      obtain ⟨i, c, hi, hcap, ho⟩ := hb
      exact (runAbort_congr hrun hheads).trans (runAbort_of_aborted hi hcap ho)
    have hwhole {p : Head} (hw : whole p) : t.runAbort p = none :=
      (runAbort_congr hrun hheads).trans (runAbort_of_whole hw)
    refine ⟨fun cause hb hw => hend.trans (runExposureEnded_of_left hexp (habort hb) (hwhole hw)),
      fun cause hb hw => hend.trans (runExposureEnded_of_right hexp (hwhole hw) (habort hb)), fun l r hl hr => ?_,
      fun hl hr => hend.trans ((runExposureEnded_of_none hexp (hwhole hl) (hwhole hr)).trans (by rw [hrun]))⟩
    have hdrawn : t.drawn = { t with draws := s.draws + 1 } := by rw [State.drawn, hdraws]
    rw [hend, ← hdrawn]
    exact runExposureEnded_of_both hexp (habort hl) (habort hr)
  case last =>
    exact fun s h hp hl hr => ⟨fun cause => headError_of_last hl hr cause,
      fun c snap hc hs hle => done_congr (frameEnd_of_last hl hr hp hc hs hle)⟩
  case slot =>
    intro s hr
    refine done_congr ?_
    have hrun : s.takeWord.run.state = .slotWait := by rw [run_takeWord, hr]
    rw [State.reportFreed]
    simp only [hrun, true_and]

end Sys2Proof.Proofs
end

section
/-! SUPPORT. DELIVER, the start of a delivery, and CANCEL DELIVERY (R169, R170, R172, R176, R199). -/
namespace Sys2Proof.Proofs
open Sys2Proof.Machine Sys2Proof.Laws

section Commands
variable {s : State} (hi : s.initRunning = false)
include hi

theorem exec_deliver (n : Word) : exec (.deliver n) s = done (handed s .station .deliver [n]) :=
  exec_action rfl rfl rfl (completes_of_arity (fun _ => rfl) rfl) hi

theorem exec_cancelDelivery : exec .cancelDelivery s = done (handed s .station .cancelDelivery []) :=
  exec_action rfl rfl rfl (completes_of_arity (fun _ => rfl) rfl) hi

end Commands

/-! ### The start of a delivery (R170, R172) -/

section Start
variable {s : State}

theorem startDelivery_of_busy (hb : s.delivery.current.isSome = true) : s.startDelivery = s := by
  obtain ⟨d, hd⟩ := Option.isSome_iff_exists.1 hb
  rw [State.startDelivery, hd]

theorem startDelivery_of_empty (hq : s.delivery.queue = []) : s.startDelivery = s := by
  rw [State.startDelivery, hq]
  cases s.delivery.current <;> rfl

/-- The queue's head starts; its owner's records read clean. -/
theorem startDelivery_of_next {i : SlotNo} {rest : List SlotNo} {o : Owner} (hb : s.delivery.current = none)
    (hq : s.delivery.queue = i :: rest) (ho : (s.slot i).owner = some o) (hl : s.cleanLeaf o.handle o.leaf)
    (hc : s.TableClean) : s.startDelivery =
    { s.setSlot i { s.slot i with state := .delivering, queued := false } with
      delivery := { s.delivery with
        queue := rest
        current := some ((s.slot i).deliveryStart i o (s.vol o.handle).serial s.delivery.settings.format
          (decide ((s.slot i).generation < ((s.face o.handle o.side).panel o.panel).generation))) } } := by
  rw [State.startDelivery, hb, hq]
  dsimp only
  rw [ho]
  dsimp only
  rw [readVolume_of_clean (vol_clean hc _), readLeaf_of_clean hl.1 hl.2]
  rfl

end Start

/-! ### DELIVER (R169) -/

section Deliver
variable {s : State}

theorem deliver_of_ge {n : Nat} (hn : 8 ≤ n) : deliver n s = (.refused .badParam, s) := by
  rw [deliver, slotOf_of_ge hn]

variable {i : SlotNo}

theorem deliver_of_notKept (hk : (s.slot i).state ≠ .kept) : deliver i.val s =
    (.refused .nothingToDeliver, { s with delivery := { s.delivery with emptyDeliver := true } }) := by
  rw [deliver, slotOf_val]
  exact if_pos hk

variable (hk : (s.slot i).state = .kept)
include hk

theorem deliver_of_queued (hq : (s.slot i).queued = true) : deliver i.val s = (.refused .busy, s) := by
  rw [deliver, slotOf_val]
  exact (if_neg (not_not_intro hk)).trans (if_pos hq)

theorem deliver_of_kept (hq : (s.slot i).queued = false) : deliver i.val s =
    (.accepted (num16 (s.enqueue i).delivery.queue.length), s.enqueue i) := by
  rw [deliver, slotOf_val]
  exact (if_neg (not_not_intro hk)).trans (if_neg (by rw [hq]; exact Bool.false_ne_true))

end Deliver

theorem enqueue_of_busy {s : State} (hb : s.delivery.current.isSome = true) (i : SlotNo) : s.enqueue i =
    { s.setSlot i { s.slot i with queued := true } with
      delivery := { s.delivery with queue := s.delivery.queue ++ [i] } } :=
  startDelivery_of_busy (by exact hb)

/-- A slot enqueued with the engine IDLE and nothing waiting is delivered at once. -/
theorem enqueue_of_free {s : State} {i : SlotNo} {o : Owner} (hb : s.delivery.current = none)
    (hq : s.delivery.queue = []) (ho : (s.slot i).owner = some o) (hl : s.cleanLeaf o.handle o.leaf)
    (hc : s.TableClean) : s.enqueue i =
    { s.setSlot i { s.slot i with state := .delivering, queued := false } with
      delivery := { s.delivery with
        current := some ((s.slot i).deliveryStart i o (s.vol o.handle).serial s.delivery.settings.format
          (decide ((s.slot i).generation < ((s.face o.handle o.side).panel o.panel).generation))) } } := by
  let q : State := { s.setSlot i { s.slot i with queued := true } with
    delivery := { s.delivery with queue := s.delivery.queue ++ [i] } }
  have hslot : q.slot i = { s.slot i with queued := true } := (slot_setSlot_eq s i i _).trans (if_pos rfl)
  have hqueue : q.delivery.queue = [i] := by
    show s.delivery.queue ++ [i] = [i]
    rw [hq]
    rfl
  have hstart := startDelivery_of_next (s := q) hb hqueue (o := o) (by rw [hslot]; exact ho) hl
    ⟨hc.zero, hc.one, hc.rescan⟩
  rw [hslot] at hstart
  have hslots : (q.slots.set i.val { s.slot i with state := .delivering, queued := false } i.isLt) =
      s.slots.set i.val { s.slot i with state := .delivering, queued := false } i.isLt := Vector.set_set ..
  simp only [State.setSlot] at hstart ⊢
  rw [hslots, ← hq] at hstart
  exact hstart

/-! ### CANCEL DELIVERY (R176) -/

section Cancel
variable {s : State}

theorem cancelDelivery_of_none (hn : s.cancellable = none) :
    Machine.cancelDelivery s = (.refused .nothingToDeliver, s) := by
  rw [Machine.cancelDelivery, hn]

theorem cancellable_of_idle (hb : s.delivery.current = none) : s.cancellable = none := by
  rw [State.cancellable, hb]

variable {d : Delivery} (hb : s.delivery.current = some d)
include hb

theorem cancellable_of_over (hp : d.phase = .trailer ∨ (d.phase = .header ∧ d.cancelled = true)) :
    s.cancellable = none := by
  rw [State.cancellable, hb]
  dsimp only
  rcases hp with hp | ⟨hp, hc⟩
  · rw [hp]
  · rw [hp, hc]
    rfl

theorem cancellable_of_sending (hp : d.phase = .pixels ∨ (d.phase = .header ∧ d.cancelled = false)) :
    s.cancellable = some d := by
  rw [State.cancellable, hb]
  dsimp only
  rcases hp with hp | ⟨hp, hc⟩
  · rw [hp]
  · rw [hp, hc]
    rfl

/-- A delivery cancelled: its trailer is fixed, its slot KEPT again. -/
theorem cancelDelivery_eq : s.cancelDelivery d =
    { s.setSlot d.slot { s.slot d.slot with state := .kept, queued := false } with
      delivery := { s.delivery with
        current := some (
          let trailer := trailerWords .cancelled d.linesSent d.wordsSent (crcFinal d.crc)
          if d.phase = .pixels then
            { d with phase := .trailer, cancelled := true, toTake := trailer, trailer := trailer }
          else { d with cancelled := true, trailer := trailer })
        lastTrailer := some ⟨d.slot, d.owner, d.generation, d.format, .cancelled, d.linesSent, d.wordsSent,
          crcFinal d.crc⟩ } } := by
  unfold State.cancelDelivery
  simp only [State.fixTrailer, State.modDelivery, State.setSlot, State.slot, hb, Option.map_some]

end Cancel

/-- Settles O54: DELIVER's tests, a slot queued or sent at once, and CANCEL DELIVERY. -/
theorem deliverAndCancel : Obligations.DeliverAndCancel := by
  refine ⟨fun s n hi hc => ?deliver, fun s hi => ?cancel⟩
  case deliver =>
    intro refused d
    let s1 := s.taking .station 1
    refine ⟨fun hn => exec_of_answer_unread (exec_deliver hi n) rfl rfl (deliver_of_ge hn), fun i hn => ?_⟩
    have word {r : Reply} {t : State} (h : Machine.deliver i.val s1 = (r, t)) :
        Machine.deliver n.toNat s1 = (r, t) := hn ▸ h
    intro x
    refine ⟨fun hk => ?_, fun hk hq => ?_, fun hk hq hb => ?_, fun o hk hq hb hqueue ho hl => ?_⟩
    · have hempty := exec_of_effect_unread (exec_deliver hi n) rfl rfl (word (deliver_of_notKept (s := s1) hk))
      exact hempty
    · exact exec_of_answer_unread (exec_deliver hi n) rfl rfl (word (deliver_of_queued (s := s1) hk hq))
    · have hkept := deliver_of_kept (s := s1) hk hq
      rw [enqueue_of_busy (s := s1) hb] at hkept
      have hlen : (d.queue ++ [i]).length = d.queue.length + 1 := List.length_append
      refine ⟨_, exec_of_effect_unread (exec_deliver hi n) rfl rfl (word hkept),
        (slot_setSlot_eq s1 i i _).trans (if_pos rfl), fun j hj => (slot_setSlot_eq s1 i j _).trans (if_neg hj), ?_⟩
      rw [← hlen]
      rfl
    · intro box f bit current
      have hkept := deliver_of_kept (s := s1) hk hq
      rw [enqueue_of_free (s := s1) hb hqueue ho hl ⟨hc.zero, hc.one, hc.rescan⟩] at hkept
      have hbox : x.imageBox = box := by
        simp only [Slot.imageBox, box]
        cases x.stats.crop <;> rfl
      have hshape : (s1.slot i).deliveryStart i o (s1.vol o.handle).serial s1.delivery.settings.format
          (decide ((s1.slot i).generation < ((s1.face o.handle o.side).panel o.panel).generation)) =
          { phase := .header, slot := i, owner := o, generation := x.generation, format := f, box := x.imageBox
            linesSent := 0, wordsSent := 0, wordInLine := 0, crc := 0xFFFFFFFF, damaged := false
            cancelled := false, trailer := []
            toTake := headerWords (s.vol o.handle).serial x o f x.imageBox (decide (x.generation < current)) } := rfl
      have hwords : headerWords (s.vol o.handle).serial x o f box (decide (x.generation < current)) =
          [(s.vol o.handle).serial + o.leaf * 2 ^ 16 + o.face.place * 2 ^ 28 + o.panel * 2 ^ 29,
            x.generation + f.place * 2 ^ 8 + bit x.stats.blank 10 + bit x.stats.degraded 11 +
              bit x.stats.motion 12 + bit x.stats.overlong 13 + bit (decide (x.generation < current)) 14 +
              x.stats.meanGray * 2 ^ 16,
            box.left + box.top * 2 ^ 16, box.width + box.height * 2 ^ 16,
            x.stats.clipCount].map (BitVec.ofNat 32) := rfl
      have hanswer : num16 d.queue.length = [0] := by
        rw [hqueue]
        rfl
      rw [hshape, hbox, hwords] at hkept
      have hkept := hkept.trans (congrArg (fun ws : List Word => (Reply.accepted ws, _)) hanswer)
      exact ⟨_, exec_of_effect_unread (exec_deliver hi n) rfl rfl (word hkept),
        (slot_setSlot_eq s1 i i _).trans (if_pos rfl), fun j hj => (slot_setSlot_eq s1 i j _).trans (if_neg hj), rfl⟩
  case cancel =>
    refine ⟨fun hb => exec_of_answer_unread (exec_cancelDelivery hi) rfl rfl
      (cancelDelivery_of_none (cancellable_of_idle (s := s.taking .station 0) hb)), fun d hb => ⟨fun hp => ?_, fun hp => ?_⟩⟩
    · exact exec_of_answer_unread (exec_cancelDelivery hi) rfl rfl
        (cancelDelivery_of_none (cancellable_of_over (s := s.taking .station 0) hb hp))
    · intro crc trailer
      let s0 := s.taking .station 0
      have hcancel : Machine.cancelDelivery s0 = (.accepted (num16 d.slot.val), s0.cancelDelivery d) := by
        rw [Machine.cancelDelivery, cancellable_of_sending (s := s0) hb hp]
      rw [cancelDelivery_eq (s := s0) hb] at hcancel
      exact ⟨_, exec_of_effect_unread (exec_cancelDelivery hi) rfl rfl hcancel,
        (slot_setSlot_eq s0 d.slot d.slot _).trans (if_pos rfl),
        fun j hj => (slot_setSlot_eq s0 d.slot j _).trans (if_neg hj), rfl⟩

end Sys2Proof.Proofs
end

section
/-! SUPPORT. The samples of capture memory that a pixel word is read from (R25, R173, R178, R184). -/
namespace Sys2Proof.Proofs
open Sys2Proof.Machine Sys2Proof.Laws

/-! ### Counts raised in either order (R186) -/

theorem raise_comm (f : FaultReport) {c c' : FaultClass} (hne : c ≠ c') (m n : Nat) :
    (f.raise c m).raise c' n = (f.raise c' n).raise c m := by
  have hplace : c.place.val ≠ c'.place.val := fun e => hne (faultPlace_inj (Fin.ext e))
  simp only [FaultReport.raise, Fin.getElem_fin, Vector.getElem_set_ne _ _ hplace,
    Vector.getElem_set_ne _ _ hplace.symm, Vector.set_comm _ _ hplace]

/-- DATA_DAMAGE counted, with its record (R184, R186). -/
def damageNoted (f : FaultReport) (i : SlotNo) : FaultReport :=
  { f.raise .dataDamage 1 with record := some { FaultRecord.plain .dataDamage with slot := some i } }

theorem raisedBy_damageNoted (f : FaultReport) (i : SlotNo) (n : Nat) :
    raisedBy (damageNoted f i) .recoveredCapture n = damageNoted (raisedBy f .recoveredCapture n) i := by
  unfold raisedBy
  split
  · rfl
  · have hcomm := raise_comm f (c := .dataDamage) (c' := .recoveredCapture) nofun 1 n
    exact congrArg (fun g : FaultReport =>
      { g with record := some { FaultRecord.plain .dataDamage with slot := some i } }) hcomm

/-! ### What a list of reads meets (R178) -/

theorem any_congr_of_mem {α : Type} {p q : α → Bool} {l : List α} (h : ∀ a ∈ l, p a = q a) : l.any p = l.any q := by
  rw [Bool.eq_iff_iff, List.any_eq_true, List.any_eq_true]
  exact exists_congr fun a => and_congr_right fun hm => by rw [h a hm]

/-- Whether an error of a kind stands in a word that one of some addresses reads. -/
def metAt (reads : List Nat) (x : WordErr) (e : Nat × WordErr) : Bool :=
  e.2 == x && reads.any fun a => a / 8 == e.1

theorem metAt_cons (a : Nat) (reads : List Nat) (x : WordErr) (e : Nat × WordErr) :
    metAt (a :: reads) x e = (metAt reads x e || (e.2 == x && a / 8 == e.1)) := by
  rw [metAt, metAt, List.any_cons, Bool.and_or_distrib_left, Bool.or_comm]

/-- A state whose delivery has read the samples at some addresses: single errors are corrected and counted, and the
first uncorrectable word damages the delivery. -/
def sampled (s : State) (d : Delivery) (reads : List Nat) : State :=
  let hit := s.memoryErrors.any (metAt reads .uncorrectable)
  let recovered := raisedBy s.faults .recoveredCapture (s.memoryErrors.countP (metAt reads .single))
  { s with
    memoryErrors := s.memoryErrors.filter fun e => !metAt reads .single e
    faults := if hit = true ∧ d.damaged = false then damageNoted recovered d.slot else recovered
    links := if hit = true ∧ d.damaged = false then (s.postStation .fault).links else s.links
    delivery := { s.delivery with current := some { d with damaged := d.damaged || hit } } }

theorem sampled_nil {s : State} {d : Delivery} (hb : s.delivery.current = some d) : sampled s d [] = s := by
  have hmet (x : WordErr) : metAt [] x = fun _ => false := funext fun e => Bool.and_false _
  have hany : (s.memoryErrors.any fun _ => false) = false := List.any_eq_false.2 fun _ _ => Bool.false_ne_true
  have hall : (s.memoryErrors.filter fun _ => true) = s.memoryErrors := List.filter_eq_self.2 fun _ _ => rfl
  have hcurrent : { s.delivery with current := some d } = s.delivery := by rw [← hb]
  simp only [sampled, hmet, hany, List.countP_false, Bool.false_eq_true, false_and, if_false, Bool.or_false,
    Bool.not_false, hall, hcurrent]
  rfl

/-- The reads of one state and of another agree when they meet the same. -/
theorem sampled_congr {s : State} {d : Delivery} {reads reads' : List Nat}
    (h : ∀ e ∈ s.memoryErrors, ∀ x, metAt reads x e = metAt reads' x e) : sampled s d reads = sampled s d reads' := by
  have hhit : s.memoryErrors.any (metAt reads .uncorrectable) = s.memoryErrors.any (metAt reads' .uncorrectable) :=
    any_congr_of_mem fun e he => h e he _
  have hcount : s.memoryErrors.countP (metAt reads .single) = s.memoryErrors.countP (metAt reads' .single) :=
    List.countP_congr fun e he => by rw [h e he]
  have hrest : (s.memoryErrors.filter fun e => !metAt reads .single e) =
      s.memoryErrors.filter fun e => !metAt reads' .single e := List.filter_congr fun e he => by rw [h e he]
  rw [sampled, hhit, hcount, hrest]
  rfl

/-! ### One read (R173, R178, R184) -/

section Read
variable {s : State} {a : Nat}

theorem readSample_fst : (s.readSample a).1 = (sampleValue s.memory a).toNat := by
  unfold State.readSample
  dsimp only
  split <;> rfl

theorem memory_readSample : (s.readSample a).2.memory = s.memory := by
  unfold State.readSample State.markDamaged
  dsimp only
  split
  · rfl
  · rfl
  · split
    · rfl
    · split <;> rfl

theorem readSample_of_good (he : s.memoryError a = none) : (s.readSample a).2 = s := by
  simp only [State.readSample, he]

theorem readSample_of_single (he : s.memoryError a = some .single) : (s.readSample a).2 =
    { s with
      memoryErrors := s.memoryErrors.filter fun e => !(e.1 == a / 8)
      faults := s.faults.raise .recoveredCapture 1 } := by
  simp only [State.readSample, he]
  rfl

variable (he : s.memoryError a = some .uncorrectable) {d : Delivery} (hb : s.delivery.current = some d)
include he hb

theorem readSample_of_damaged (hd : d.damaged = true) : (s.readSample a).2 = s := by
  simp only [State.readSample, he, State.markDamaged, hb, hd, if_true]

theorem readSample_of_damaging (hd : d.damaged = false) : (s.readSample a).2 =
    { s with
      faults := damageNoted s.faults d.slot
      links := (s.postStation .fault).links
      delivery := { s.delivery with current := some { d with damaged := true } } } := by
  simp only [State.readSample, he, State.markDamaged, hb, hd, Bool.false_eq_true, if_false, State.modDelivery,
    Option.map_some]
  rfl

end Read

section Status
variable {s : State} (hn : (s.memoryErrors.map (·.1)).Nodup) {a : Nat}

theorem memoryError_eq_none (he : s.memoryError a = none) : ∀ e ∈ s.memoryErrors, e.1 ≠ a / 8 := by
  rw [State.memoryError, Option.map_eq_none_iff, List.find?_eq_none] at he
  exact fun e hm hk => he e hm (decide_eq_true hk)

include hn

/-- The word's one entry. -/
theorem memoryError_eq_some {x : WordErr} (he : s.memoryError a = some x) :
    (a / 8, x) ∈ s.memoryErrors ∧ ∀ e ∈ s.memoryErrors, e.1 = a / 8 → e = (a / 8, x) := by
  obtain ⟨⟨k, y⟩, hfind, rfl⟩ := Option.map_eq_some_iff.1 he
  have hk : k = a / 8 := of_decide_eq_true (List.find?_some hfind :)
  subst hk
  have hm := List.mem_of_find?_eq_some hfind
  exact ⟨hm, fun e he hk => eq_of_nodup_map hn he hm hk⟩

end Status

/-! ### The reads of a word, one after another -/

section Step
variable {s : State} {d : Delivery} (hb : s.delivery.current = some d) (hn : (s.memoryErrors.map (·.1)).Nodup)
  {a : Nat} (reads : List Nat)

theorem sampled_cons_of_good (he : s.memoryError a = none) : sampled s d (a :: reads) = sampled s d reads := by
  refine sampled_congr fun e hm x => ?_
  rw [metAt_cons, beq_false_of_ne (memoryError_eq_none he e hm).symm, Bool.and_false, Bool.or_false]

include hn

theorem sampled_cons_of_single (he : s.memoryError a = some .single) :
    sampled { s with
      memoryErrors := s.memoryErrors.filter fun e => !(e.1 == a / 8)
      faults := s.faults.raise .recoveredCapture 1 } d reads = sampled s d (a :: reads) := by
  obtain ⟨hmem, hone⟩ := memoryError_eq_some hn he
  have hhit : (s.memoryErrors.filter fun e => !(e.1 == a / 8)).any (metAt reads .uncorrectable) =
      s.memoryErrors.any (metAt (a :: reads) .uncorrectable) := by
    rw [List.any_filter]
    refine any_congr_of_mem fun e hm => ?_
    rw [metAt_cons]
    by_cases hk : e.1 = a / 8
    · rw [hone e hm hk]
      simp [metAt]
    · rw [beq_false_of_ne hk, beq_false_of_ne (Ne.symm hk), Bool.and_false, Bool.or_false]
      rfl
  have hrest : ((s.memoryErrors.filter fun e => !(e.1 == a / 8)).filter fun e => !metAt reads .single e) =
      s.memoryErrors.filter fun e => !metAt (a :: reads) .single e := by
    rw [List.filter_filter]
    refine List.filter_congr fun e hm => ?_
    rw [metAt_cons]
    by_cases hk : e.1 = a / 8
    · rw [hone e hm hk]
      simp
    · rw [beq_false_of_ne hk, beq_false_of_ne (Ne.symm hk), Bool.and_false, Bool.or_false, Bool.not_false, Bool.and_true]
  have hcount : (s.memoryErrors.filter fun e => !(e.1 == a / 8)).countP (metAt reads .single) + 1 =
      s.memoryErrors.countP (metAt (a :: reads) .single) := by
    have hkey : s.memoryErrors.countP (fun e => e.1 == a / 8) = 1 := by
      have hcount := (List.Nodup.count hn).trans (if_pos (List.mem_map_of_mem (f := (·.1)) hmem))
      rwa [List.count, List.countP_map] at hcount
    rw [List.countP_filter, ← hkey, ← countP_or fun e hp => ?_]
    · refine List.countP_congr fun e hm => ?_
      rw [metAt_cons]
      by_cases hk : e.1 = a / 8
      · rw [hone e hm hk]
        simp
      · rw [beq_false_of_ne hk, beq_false_of_ne (Ne.symm hk), Bool.and_false, Bool.or_false]
        simp
    · exact (Bool.not_eq_true' _).mp ((Bool.and_eq_true _ _).mp hp).2
  simp only [sampled, hhit, hrest, raisedBy_raise, hcount]
  rfl

/-- A word already damaged, or one that damages the delivery, adds no correction. -/
theorem metAt_single_of_uncorrectable (he : s.memoryError a = some .uncorrectable) (e : Nat × WordErr)
    (hm : e ∈ s.memoryErrors) : metAt (a :: reads) .single e = metAt reads .single e := by
  rw [metAt_cons]
  by_cases hk : e.1 = a / 8
  · rw [(memoryError_eq_some hn he).2 e hm hk]
    simp
  · rw [beq_false_of_ne (Ne.symm hk), Bool.and_false, Bool.or_false]

theorem any_metAt_of_uncorrectable (he : s.memoryError a = some .uncorrectable) :
    s.memoryErrors.any (metAt (a :: reads) .uncorrectable) = true := by
  refine List.any_eq_true.2 ⟨_, (memoryError_eq_some hn he).1, ?_⟩
  rw [metAt_cons]
  simp

theorem sampled_cons_of_uncorrectable (he : s.memoryError a = some .uncorrectable) : sampled s d (a :: reads) =
    (let recovered := raisedBy s.faults .recoveredCapture (s.memoryErrors.countP (metAt reads .single))
     { s with
      memoryErrors := s.memoryErrors.filter fun e => !metAt reads .single e
      faults := if d.damaged = false then damageNoted recovered d.slot else recovered
      links := if d.damaged = false then (s.postStation .fault).links else s.links
      delivery := { s.delivery with current := some { d with damaged := true } } }) := by
  have hcount : s.memoryErrors.countP (metAt (a :: reads) .single) = s.memoryErrors.countP (metAt reads .single) :=
    List.countP_congr fun e hm => by rw [metAt_single_of_uncorrectable hn reads he e hm]
  have hrest : (s.memoryErrors.filter fun e => !metAt (a :: reads) .single e) =
      s.memoryErrors.filter fun e => !metAt reads .single e :=
    List.filter_congr fun e hm => by rw [metAt_single_of_uncorrectable hn reads he e hm]
  simp only [sampled, any_metAt_of_uncorrectable hn reads he, hcount, hrest, true_and, Bool.or_true]

include hb

/-- One read more, before the others. -/
theorem sampled_readSample : ∃ d', (s.readSample a).2.delivery.current = some d' ∧
    ((s.readSample a).2.memoryErrors.map (·.1)).Nodup ∧
    sampled (s.readSample a).2 d' reads = sampled s d (a :: reads) := by
  rcases he : s.memoryError a with - | - | -
  · rw [readSample_of_good he]
    exact ⟨d, hb, hn, (sampled_cons_of_good reads he).symm⟩
  · rw [readSample_of_single he]
    exact ⟨d, hb, hn.sublist (List.filter_sublist.map _), sampled_cons_of_single hn reads he⟩
  · cases hd : d.damaged with
    | true =>
      rw [readSample_of_damaged he hb hd, sampled_cons_of_uncorrectable hn reads he]
      refine ⟨d, hb, hn, ?_⟩
      simp [sampled, hd]
    | false =>
      rw [readSample_of_damaging he hb hd, sampled_cons_of_uncorrectable hn reads he]
      refine ⟨_, rfl, hn, ?_⟩
      simp [sampled, hd, raisedBy_damageNoted]

end Step

/-- The reads of a delivery, in order. -/
theorem foldl_readSample {s : State} {d : Delivery} (hb : s.delivery.current = some d)
    (hn : (s.memoryErrors.map (·.1)).Nodup) (reads : List Nat) :
    reads.foldl (fun t a => (t.readSample a).2) s = sampled s d reads := by
  induction reads generalizing s d with
  | nil => exact (sampled_nil hb).symm
  | cons a reads ih =>
    obtain ⟨d', hb', hn', hstep⟩ := sampled_readSample hb hn (a := a) reads
    exact (ih hb' hn').trans hstep

end Sys2Proof.Proofs
end

section
/-! SUPPORT. A pixel word: the values it carries, their packing, and the CRC (R173, R174). -/
namespace Sys2Proof.Proofs
open Sys2Proof.Machine Sys2Proof.Laws

/-! ### The values of a word (R173) -/

/-- The sample of a pixel of a delivery's line, as capture memory holds it. -/
def sampleAt (m : List Host.Cell) (d : Delivery) (l x c : Nat) : Nat :=
  (sampleValue m (sampleAddress d.slot (d.box.top + l) (d.box.left + x) c)).toNat

/-- The gray value of a pixel of a delivery's line. -/
def grayAt (m : List Host.Cell) (d : Delivery) (l x : Nat) : Nat :=
  grayOf (sampleAt m d l x 0) (sampleAt m d l x 1) (sampleAt m d l x 2)

/-- Value i of a delivery's line. -/
def valueAt (m : List Host.Cell) (d : Delivery) (l i : Nat) : Nat :=
  match d.format with
  | .w16 => sampleAt m d l (i / 3) (i % 3)
  | .w8 => sampleAt m d l (i / 3) (i % 3) / 256
  | .g16 => grayAt m d l i
  | .g8 => grayAt m d l i / 256

/-- The addresses value i of a delivery's line is read from. -/
def addressesOf (d : Delivery) (l i : Nat) : List Nat :=
  match d.format with
  | .w16 | .w8 => [sampleAddress d.slot (d.box.top + l) (d.box.left + i / 3) (i % 3)]
  | .g16 | .g8 => [0, 1, 2].map (sampleAddress d.slot (d.box.top + l) (d.box.left + i))

/-- The samples at some addresses are read. -/
def readSamples (s : State) (reads : List Nat) : State := reads.foldl (fun t a => (t.readSample a).2) s

theorem memory_readSamples (s : State) (reads : List Nat) : (readSamples s reads).memory = s.memory := by
  induction reads generalizing s with
  | nil => rfl
  | cons a reads ih => exact (ih _).trans memory_readSample

theorem readSample_eq (s : State) (a : Nat) :
    s.readSample a = ((sampleValue s.memory a).toNat, (s.readSample a).2) := Prod.ext readSample_fst rfl

theorem readValue_eq (s : State) (d : Delivery) (l i : Nat) :
    s.readValue d l i = (valueAt s.memory d l i, readSamples s (addressesOf d l i)) := by
  unfold State.readValue valueAt addressesOf
  dsimp only
  cases d.format
  · exact readSample_eq s _
  · exact congrArg (fun r : Nat × State => (r.1 / 256, r.2)) (readSample_eq s _)
  · dsimp only
    rw [readSample_eq s, readSample_eq (s.readSample _).2, readSample_eq ((s.readSample _).2.readSample _).2]
    simp only [memory_readSample]
    rfl
  · dsimp only
    rw [readSample_eq s, readSample_eq (s.readSample _).2, readSample_eq ((s.readSample _).2.readSample _).2]
    simp only [memory_readSample]
    rfl

theorem readValues_eq (s : State) (d : Delivery) (l : Nat) (is : List Nat) :
    s.readValues d l is = (is.map (valueAt s.memory d l), readSamples s (is.flatMap (addressesOf d l))) := by
  induction is generalizing s with
  | nil => rfl
  | cons i is ih =>
    rw [State.readValues, readValue_eq]
    dsimp only
    rw [ih, memory_readSamples]
    simp only [readSamples, List.map_cons, List.flatMap_cons, List.foldl_append]

/-! ### Packing (R173) -/

/-- Values packed from the least significant place up. -/
def packed (bits : Nat) (vs : List Nat) : Nat := vs.foldr (fun v acc => v + acc * 2 ^ bits) 0

theorem packed_of_zero (bits : Nat) {f : Nat → Nat} {is : List Nat} (h : ∀ i ∈ is, f i = 0) :
    packed bits (is.map f) = 0 := by
  induction is with
  | nil => rfl
  | cons i is ih =>
    have hrest := ih fun j hj => h j (List.mem_cons_of_mem _ hj)
    rw [packed] at hrest
    rw [List.map_cons, packed, List.foldr_cons, hrest, h i List.mem_cons_self, Nat.zero_mul]

/-- Places after the line's last value carry zeros. -/
theorem packed_filter (bits limit : Nat) (f : Nat → Nat) (first n : Nat) :
    packed bits (((List.range' first n).filter (fun i => decide (i < limit))).map f) =
      packed bits ((List.range' first n).map fun i => if i < limit then f i else 0) := by
  induction n generalizing first with
  | zero => rfl
  | succ n ih =>
    rw [List.range'_succ]
    by_cases hlt : first < limit
    · rw [List.filter_cons_of_pos (p := fun i => decide (i < limit)) (decide_eq_true hlt), List.map_cons, List.map_cons, if_pos hlt]
      exact congrArg (fun acc => f first + acc * 2 ^ bits) (ih (first + 1))
    · have hbeyond : ∀ i ∈ first :: List.range' (first + 1) n, ¬i < limit := fun i hi => by
        rcases List.mem_cons.1 hi with rfl | hi
        · exact hlt
        · have := (List.mem_range'_1.1 hi).1
          omega
      rw [List.filter_eq_nil_iff.2 fun i hi => by simpa using hbeyond i hi,
        packed_of_zero bits fun i hi => if_neg (hbeyond i hi)]
      rfl

/-! ### The next word offered (R171, R173) -/

theorem valuesOfWord_eq (d : Delivery) (k : Nat) : d.valuesOfWord k =
    (List.range' (k * d.format.valuesPerWord) d.format.valuesPerWord).filter
      fun i => decide (i < d.format.valuesPerPixel * d.box.width) := by
  rw [Delivery.valuesOfWord, List.range'_eq_map_range]

/-- The pixel word offered next. -/
def nextWord (m : List Host.Cell) (d : Delivery) : Nat :=
  packed d.format.valueBits ((d.valuesOfWord d.wordInLine).map (valueAt m d d.linesSent))

/-- The addresses it is read from. -/
def nextReads (d : Delivery) : List Nat := (d.valuesOfWord d.wordInLine).flatMap (addressesOf d d.linesSent)

theorem offerPixel_eq {s : State} {d : Delivery} (hb : s.delivery.current = some d)
    (hn : (s.memoryErrors.map (·.1)).Nodup) : s.offerPixel =
    (sampled s d (nextReads d)).modDelivery fun d' => { d' with toTake := [BitVec.ofNat 32 (nextWord s.memory d)] } := by
  rw [State.offerPixel, hb]
  dsimp only
  rw [readValues_eq, readSamples, foldl_readSample hb hn]
  rfl

/-- A sample's low byte comes first (log 18). -/
theorem sampleValue_toNat (m : List Host.Cell) (a : Nat) :
    (sampleValue m a).toNat = (readByte m a).toNat + 256 * (readByte m (a + 1)).toNat := by
  rw [sampleValue, BitVec.toNat_append, ← Nat.shiftLeft_add_eq_or_of_lt (BitVec.isLt _), Nat.shiftLeft_eq]
  omega

/-- Settles O55: the words of a line, the next word with what its reads meet, and the CRC. -/
theorem pixelWordsAndTheirCrc : Obligations.PixelWordsAndTheirCrc := by
  refine ⟨fun w => ⟨rfl, rfl, ?_, ?_⟩, fun s d hb hn => ?word, fun r => rfl, fun r b => rfl, fun r w => rfl,
    by decide +kernel, by decide +kernel⟩
  · exact congrArg (fun n => (n + 1) / 2) (Nat.one_mul w)
  · exact congrArg (fun n => (n + 3) / 4) (Nat.one_mul w)
  case word =>
    intro sample gray three value k word places at_ reads met corrected hit newly recovered
    have hsample (x c : Nat) : sampleAt s.memory d d.linesSent x c = sample x c := sampleValue_toNat _ _
    have hgray (x : Nat) : grayAt s.memory d d.linesSent x = gray x := by
      rw [grayAt, hsample, hsample, hsample]
      rfl
    have hplaces (n limit : Nat) : places n limit =
        (List.range' (k * n) n).filter fun i => decide (i < limit) := by
      rw [List.range'_eq_map_range, Nat.mul_comm]
    have hcolour (hf : d.format = .w16 ∨ d.format = .w8) :
        addressesOf d d.linesSent = fun i => [at_ (i / 3) (i % 3)] := funext fun i => by
      rcases hf with hf | hf <;> rw [addressesOf, hf] <;> rfl
    have hgrays (hf : d.format = .g16 ∨ d.format = .g8) :
        addressesOf d d.linesSent = fun x => [at_ x 0, at_ x 1, at_ x 2] := funext fun i => by
      rcases hf with hf | hf <;> rw [addressesOf, hf] <;> rfl
    have hone : 1 * d.box.width = d.box.width := Nat.one_mul _
    have hreads : nextReads d = reads := by
      rw [nextReads, valuesOfWord_eq]
      simp only [reads, hplaces]
      cases hf : d.format
      · rw [hcolour (.inl hf)]
        exact List.map_eq_flatMap.symm
      · rw [hcolour (.inr hf)]
        exact List.map_eq_flatMap.symm
      · rw [hgrays (.inl hf), show Format.g16.valuesPerPixel * d.box.width = d.box.width from hone]
        rfl
      · rw [hgrays (.inr hf), show Format.g8.valuesPerPixel * d.box.width = d.box.width from hone]
        rfl
    have hvalue (i : Nat) : (if i < d.format.valuesPerPixel * d.box.width then valueAt s.memory d d.linesSent i else 0) =
        value i := by
      simp only [value, valueAt, hsample, hgray]
      cases d.format
      · rfl
      · rfl
      · rw [show Format.g16.valuesPerPixel * d.box.width = d.box.width from hone]
      · rw [show Format.g8.valuesPerPixel * d.box.width = d.box.width from hone]
    have hword : nextWord s.memory d = word := by
      rw [nextWord, valuesOfWord_eq, packed_filter]
      simp only [hvalue]
      simp only [word]
      have hpair : packed 16 ((List.range' (k * 2) 2).map value) = value (2 * k) + value (2 * k + 1) * 65536 := by
        simp only [packed, List.range'_succ, List.range'_zero, List.map_cons, List.map_nil, List.foldr_cons,
          List.foldr_nil, Nat.mul_comm k]
        omega
      have hfour : packed 8 ((List.range' (k * 4) 4).map value) = value (4 * k) + value (4 * k + 1) * 256 +
          value (4 * k + 2) * 65536 + value (4 * k + 3) * 16777216 := by
        simp only [packed, List.range'_succ, List.range'_zero, List.map_cons, List.map_nil, List.foldr_cons,
          List.foldr_nil, Nat.mul_comm k, Nat.add_assoc, Nat.reduceAdd]
        omega
      cases d.format
      · exact hpair
      · exact hfour
      · exact hpair
      · exact hfour
    rw [offerPixel_eq hb hn, hreads, hword]
    rfl

end Sys2Proof.Proofs
end

section
/-! SUPPORT. What the end of a delivery does to its panel, its side and its slot (R42, R43, R9, R80, R180). -/
namespace Sys2Proof.Proofs
open Sys2Proof.Machine Sys2Proof.Laws

/-! ### What a read or a write of the account leaves alone -/

/-- A state without its account, its faults and its station notices. -/
def accountFrame (s : State) : State :=
  { s with
    links := { s.links with station := { s.links.station with notices := 0 } }
    vols := ⟨Volume.empty, Volume.empty⟩, leaves := [], rescan := [], rescanErrors := WordErrors.clean
    faults := FaultReport.reset, skippedNow := [] }

theorem accountFrame_readVolume (s : State) (h : Handle) : accountFrame (s.readVolume h) = accountFrame s := by
  unfold State.readVolume
  split <;> rfl

theorem accountFrame_modVol (s : State) (h : Handle) (f : Volume → Volume) :
    accountFrame (s.modVol h f) = accountFrame s := accountFrame_readVolume s h

theorem accountFrame_count (s : State) (h : Handle) (f : VolumeCounters → VolumeCounters) :
    accountFrame (s.count h f) = accountFrame s := accountFrame_modVol s h _

theorem accountFrame_readRescan (s : State) : accountFrame s.readRescan = accountFrame s := by
  unfold State.readRescan
  split <;> rfl

theorem accountFrame_readLeaf (s : State) (h : Handle) (n : Nat) (ws : List LeafWord) :
    accountFrame (s.readLeaf h n ws).2 = accountFrame s := by
  unfold State.readLeaf
  dsimp only
  split
  · rfl
  · split
    · exact accountFrame_count _ h fun c => { c with damagedLeaves := c.damagedLeaves + 1 }
    · split <;> rfl

theorem accountFrame_of_readLeaf {s t : State} {h : Handle} {n : Nat} {ws : List LeafWord} {ok : Bool}
    (e : s.readLeaf h n ws = (ok, t)) : accountFrame t = accountFrame s := by
  have kept := accountFrame_readLeaf s h n ws
  rwa [e] at kept

theorem accountFrame_skipUpdate (s : State) (h : Handle) (n : Nat) : accountFrame (s.skipUpdate h n) = accountFrame s := by
  unfold State.skipUpdate
  split <;> rfl

theorem accountFrame_joinRescan (s : State) (h : Handle) (d : Side) : accountFrame (s.joinRescan h d) = accountFrame s := by
  unfold State.joinRescan
  dsimp only
  split
  · refine Eq.trans ?_ ((accountFrame_readRescan _).trans (accountFrame_readVolume s h))
    split
    · rfl
    · exact accountFrame_count _ h fun c => { c with rescanOverflow := c.rescanOverflow + 1 }
  · exact accountFrame_readVolume s h

theorem accountFrame_drainIfLast (s : State) (h : Handle) : accountFrame (s.drainIfLast h) = accountFrame s := by
  unfold State.drainIfLast
  dsimp only
  split
  · exact (accountFrame_modVol _ _ fun v => { v with state := .closed }).trans (accountFrame_readVolume s h)
  · exact accountFrame_readVolume s h

/-- A slot's freeing, but for what it makes of its volume. -/
theorem accountFrame_freeSlot {s t : State} (e : accountFrame t = accountFrame s) (i : SlotNo) :
    accountFrame (t.freeSlot i) = accountFrame (s.clearSlot i) := by
  have hclear : accountFrame (t.clearSlot i) = accountFrame (s.clearSlot i) :=
    congrArg (State.clearSlot · i) e
  unfold State.freeSlot
  split
  · exact hclear
  · exact (accountFrame_drainIfLast _ _).trans hclear

theorem accountFrame_settleDamaged (s : State) (i : SlotNo) (o : Owner) :
    accountFrame (s.settleDamaged i o) = accountFrame (s.clearSlot i) := by
  unfold State.settleDamaged
  dsimp only
  refine accountFrame_freeSlot ?_ i
  split
  · next e => exact (accountFrame_skipUpdate _ _ _).trans (accountFrame_of_readLeaf e)
  · next e =>
    have kept := accountFrame_of_readLeaf e
    split
    · split
      · exact (accountFrame_joinRescan _ _ _).trans kept
      · exact kept
    · exact kept

/-! ### A slot freed (R29, R9) -/

theorem ownsSlot_clearSlot {s : State} {i : SlotNo} {h : Handle} :
    (s.clearSlot i).ownsSlot h = false ↔ ∀ j, j ≠ i → (s.slot j).ownedBy h = false := by
  rw [State.ownsSlot, List.any_eq_false]
  constructor
  · intro hno j hj
    have hown := hno j (mem_allSlots j)
    rw [slot_clearSlot, if_neg (by simpa using hj)] at hown
    exact Bool.eq_false_iff.2 hown
  · intro hno j _
    rw [slot_clearSlot]
    by_cases hj : j = i
    · rw [if_pos (by simpa using hj)]
      exact Bool.false_ne_true
    · rw [if_neg (by simpa using hj), hno j hj]
      exact Bool.false_ne_true

/-- Whether the freeing of a slot closes a volume: a DRAINING one that owns no other (R9). -/
def ClosesWith (s : State) (i : SlotNo) (h : Handle) : Prop :=
  (s.vol h).state = .draining ∧ ∀ j, j ≠ i → (s.slot j).ownedBy h = false

/-- The slot of a capture is freed, and its volume CLOSED with it if it was the last of a DRAINING one. -/
theorem freeSlot_eq {s : State} (hc : s.TableClean) {i : SlotNo} {o : Owner} (ho : (s.slot i).owner = some o)
    {closes : Prop} [Decidable closes] (hcl : closes ↔ ClosesWith s i o.handle) : s.freeSlot i =
    { s.clearSlot i with
      vols := s.vols.set o.handle { s.vol o.handle with state := if closes then .closed else (s.vol o.handle).state }
      links := { s.links with station := { s.links.station with
        notices := if closes then addNotice s.links.station.notices StationNotice.volumeDrained.place
          else s.links.station.notices } } } := by
  have hdrain := drainIfLast_of_clean (s := s.clearSlot i) o.handle (vol_clean (s := s) hc _)
  simp only [ownsSlot_clearSlot] at hdrain
  rw [State.freeSlot, ho]
  refine hdrain.trans ?_
  by_cases hl : closes
  · simp only [if_pos hl]
    exact if_pos (hcl.1 hl)
  · simp only [if_neg hl]
    refine (if_neg (mt hcl.2 hl)).trans ?_
    have hsame : s.vols.set o.handle (s.vol o.handle) = s.vols := PerHandle_set_get _ _
    exact congrArg (fun vols : PerHandle Volume => { s.clearSlot i with vols := vols }) hsame.symm

/-- The parts of a state that the end of a delivery writes before it frees the slot. -/
structure Settling where
  leaves : List (Nat × LeafRecord)
  rescan : List Side
  counters : VolumeCounters
  notices : Word
  faults : FaultReport
  skippedNow : List Nat

/-- A state with those parts written, the counters into one volume. -/
def Settling.put (c : Settling) (s : State) (h : Handle) : State :=
  { s with
    links := { s.links with station := { s.links.station with notices := c.notices } }
    vols := s.vols.set h { s.vol h with counters := c.counters }
    leaves := c.leaves, rescan := c.rescan, faults := c.faults, skippedNow := c.skippedNow }

/-- Nothing written. -/
def Settling.none (s : State) (h : Handle) : Settling :=
  ⟨s.leaves, s.rescan, (s.vol h).counters, s.links.station.notices, s.faults, s.skippedNow⟩

theorem set_vol_self (s : State) (h : Handle) : s.vols.set h { s.vol h with counters := (s.vol h).counters } = s.vols :=
  PerHandle_set_get _ _

theorem Settling.put_none (s : State) (h : Handle) : (Settling.none s h).put s h = s := by
  rw [Settling.put, Settling.none, set_vol_self]

/-- The slot freed after the writes. -/
theorem Settling.freeSlot_put (c : Settling) {s : State} (hc : s.TableClean) {i : SlotNo} {o : Owner}
    (ho : (s.slot i).owner = some o) {closes : Prop} [Decidable closes] (hcl : closes ↔ ClosesWith s i o.handle) :
    (c.put s o.handle).freeSlot i =
    { s with
      links := { s.links with station := { s.links.station with
        notices := if closes then addNotice c.notices StationNotice.volumeDrained.place else c.notices } }
      vols := s.vols.set o.handle { s.vol o.handle with
        state := if closes then .closed else (s.vol o.handle).state, counters := c.counters }
      leaves := c.leaves, slots := (s.clearSlot i).slots, delivery := (s.clearSlot i).delivery
      rescan := c.rescan, faults := c.faults, skippedNow := c.skippedNow } := by
  have hvol : (c.put s o.handle).vol o.handle = { s.vol o.handle with counters := c.counters } :=
    PerHandle_get_set_same _ _ _
  have hclean : (c.put s o.handle).TableClean := by
    have ht := tableClean_setVol hc (h := o.handle) (v := { s.vol o.handle with counters := c.counters }) rfl
    exact ⟨ht.zero, ht.one, ht.rescan⟩
  have hsame : ClosesWith (c.put s o.handle) i o.handle ↔ ClosesWith s i o.handle := by
    rw [ClosesWith, hvol]
    rfl
  have hset (v : Volume) : (c.put s o.handle).vols.set o.handle v = s.vols.set o.handle v := PerHandle_set_set _ _ _ _
  have hfree := freeSlot_eq hclean (i := i) (o := o) (by exact ho) (hcl.trans hsame.symm)
  rw [hvol, hset] at hfree
  exact hfree

/-! ### A side flagged for rescan (R80) -/

theorem joinRescan_of_inactive {s : State} {h : Handle} (hc : s.TableClean) (ha : (s.vol h).state ≠ .active) (d : Side) :
    s.joinRescan h d = s := by
  rw [State.joinRescan, readVolume_of_clean (vol_clean hc h)]
  exact if_neg ha

/-- A side of the ACTIVE volume joins the list or its overflow; one of another volume is flagged alone. -/
theorem joinRescan_of_clean {s : State} {h : Handle} (hc : s.TableClean) (d : Side) : s.joinRescan h d =
    Settling.put
      { Settling.none s h with
        rescan := if (s.vol h).state = .active ∧ s.rescan.length < 64 then s.rescan ++ [d] else s.rescan
        counters := { (s.vol h).counters with rescanOverflow :=
          if (s.vol h).state = .active ∧ 64 ≤ s.rescan.length then (s.vol h).counters.rescanOverflow + 1
          else (s.vol h).counters.rescanOverflow }
        notices := if (s.vol h).state = .active then addNotice s.links.station.notices StationNotice.rescanAdded.place
          else s.links.station.notices } s h := by
  by_cases ha : (s.vol h).state = .active
  · rw [joinRescan_of_active hc ha]
    by_cases hlt : s.rescan.length < 64
    · rw [if_pos hlt, if_pos ⟨ha, hlt⟩, if_pos ha, if_neg fun h => Nat.not_le_of_lt hlt h.2]
      exact congrArg (fun vols : PerHandle Volume =>
        State.postStation { s with rescan := s.rescan ++ [d], vols := vols } .rescanAdded) (set_vol_self s h).symm
    · rw [if_neg hlt, if_neg fun h => hlt h.2, if_pos ha, if_pos ⟨ha, Nat.le_of_not_lt hlt⟩]
      rfl
  · rw [joinRescan_of_inactive hc ha]
    rw [if_neg fun h => ha h.1, if_neg ha, if_neg fun h => ha h.1]
    exact (Settling.put_none s h).symm

/-! ### A DAMAGED delivery's end (R43) -/

/-- The settled part of a panel removed. -/
def withoutSettled (e : PanelEntry) : PanelEntry := { e with settled := .none }

/-- A face after a damaged delivery of one of its panels. -/
def damagedFace (f : FaceRecord) (p : Nat) : FaceRecord :=
  { f.modPanel p withoutSettled with rescan := f.rescan || !f.skip }

section Damaged
variable {s : State} {i : SlotNo} {o : Owner}

theorem settleDamaged_of_invalid (hv : (s.leaf o.handle o.leaf).valid = false) :
    s.settleDamaged i o = (s.skipUpdate o.handle o.leaf).freeSlot i := by
  rw [State.settleDamaged, readLeaf_of_invalid hv]

variable (hl : s.cleanLeaf o.handle o.leaf)
include hl

theorem settleDamaged_of_stale (hg : (s.slot i).generation ≠ ((s.face o.handle o.side).panel o.panel).generation) :
    s.settleDamaged i o = s.freeSlot i := by
  rw [State.settleDamaged, readLeaf_of_clean hl.1 hl.2]
  exact congrArg (State.freeSlot · i) (if_neg hg)

theorem settleDamaged_of_stands (hg : (s.slot i).generation = ((s.face o.handle o.side).panel o.panel).generation) :
    s.settleDamaged i o =
      (let t := s.setFace o.handle o.side ((s.face o.handle o.side).modPanel o.panel withoutSettled)
       State.freeSlot
        (if (s.face o.handle o.side).skip = false ∧ (s.face o.handle o.side).rescan = false then
          t.setRescan o.handle o.side else t) i) := by
  rw [State.settleDamaged, readLeaf_of_clean hl.1 hl.2]
  exact congrArg (State.freeSlot · i) (if_pos hg)

/-- The damage recorded in the panel and the side, before the slot is freed. -/
theorem settleDamaged_recorded (hc : s.TableClean)
    (hg : (s.slot i).generation = ((s.face o.handle o.side).panel o.panel).generation) :
    ∃ leaves, s.settleDamaged i o = State.freeSlot
      (let joins := ((s.face o.handle o.side).skip = false ∧ (s.face o.handle o.side).rescan = false) ∧
         (s.vol o.handle).state = .active
       Settling.put
        { Settling.none s o.handle with
          leaves := leaves
          rescan := if joins ∧ s.rescan.length < 64 then s.rescan ++ [o.side] else s.rescan
          counters := { (s.vol o.handle).counters with rescanOverflow :=
            if joins ∧ 64 ≤ s.rescan.length then (s.vol o.handle).counters.rescanOverflow + 1
            else (s.vol o.handle).counters.rescanOverflow }
          notices := if joins then addNotice s.links.station.notices StationNotice.rescanAdded.place
            else s.links.station.notices } s o.handle) i ∧
      ∀ t : State, t.leaves = leaves → t.face o.handle o.side = damagedFace (s.face o.handle o.side) o.panel ∧
        (s.Canonical → FaceAlone s t o.handle o.side) := by
  let f := s.face o.handle o.side
  let t := s.setFace o.handle o.side (f.modPanel o.panel withoutSettled)
  have hface : t.face o.handle o.side = f.modPanel o.panel withoutSettled := face_setFace_modPanel _ _ _ _ _ _
  have faceOf {u v : State} (e : u.leaves = v.leaves) : u.face o.handle o.side = v.face o.handle o.side := by
    simp only [State.face, State.leaf, e]
  rw [settleDamaged_of_stands hl hg]
  by_cases hflag : f.skip = false ∧ f.rescan = false
  · let u := t.setFace o.handle o.side { t.face o.handle o.side with rescan := true }
    have hu : u.face o.handle o.side = damagedFace f o.panel := by
      have hw : damagedFace f o.panel = FaceRecord.modPanel { f with rescan := true } o.panel withoutSettled := by
        have hr : (f.rescan || !f.skip) = true := by
          rw [hflag.1, hflag.2]
          rfl
        rw [damagedFace, hr]
        rfl
      have hsame : ({ f.modPanel o.panel withoutSettled with rescan := true } : FaceRecord) =
          FaceRecord.modPanel { f with rescan := true } o.panel withoutSettled := rfl
      rw [hw, ← face_setFace_modPanel t o.handle o.side { f with rescan := true } o.panel withoutSettled, ← hsame,
        ← hface]
    have hjoin := joinRescan_of_clean (s := u) (h := o.handle) ⟨hc.zero, hc.one, hc.rescan⟩ o.side
    refine ⟨u.leaves, congrArg (State.freeSlot · i) ?_, fun w e => ⟨(faceOf e).trans hu, fun canon => ?_⟩⟩
    · have hj (q : Prop) : (((s.face o.handle o.side).skip = false ∧ (s.face o.handle o.side).rescan = false) ∧ q) = q :=
        propext (and_iff_right hflag)
      simp only [hj]
      exact (if_pos hflag).trans hjoin
    · exact faceAlone_of_leaves (FaceAlone.trans (faceAlone_setFace canon _ _ _)
        (faceAlone_setFace (canonical_setFace canon _ _ _) _ _ _)) e
  · refine ⟨t.leaves, congrArg (State.freeSlot · i) ((if_neg hflag).trans ?_), fun w e => ⟨(faceOf e).trans ?_,
      fun canon => faceAlone_of_leaves (faceAlone_setFace canon _ _ _) e⟩⟩
    · have hj (q : Prop) : (((s.face o.handle o.side).skip = false ∧ (s.face o.handle o.side).rescan = false) ∧ q) =
          False := eq_false fun h => hflag h.1
      simp only [hj, false_and, if_false]
      have hput := Settling.put_none t o.handle
      exact hput.symm
    · rw [hface, damagedFace]
      have hr : (f.rescan || !f.skip) = f.rescan := by
        cases hs : f.skip with
        | true => exact Bool.or_false _
        | false =>
          cases hre : f.rescan with
          | true => rfl
          | false => exact absurd ⟨hs, hre⟩ hflag
      rw [hr]
      rfl

end Damaged

end Sys2Proof.Proofs
end

section
/-! SUPPORT. The ends of deliveries, and the words the image port takes (R42, R43, R170, R171, R173 to R176). -/
namespace Sys2Proof.Proofs
open Sys2Proof.Machine Sys2Proof.Laws

/-! ### What an end of a delivery writes before it frees the slot (R42, R43, R180) -/

/-- A delivered slot holds the standing capture of its panel. -/
def Stands (s : State) (i : SlotNo) (o : Owner) : Prop :=
  (s.leaf o.handle o.leaf).valid = true ∧
    (s.slot i).generation = ((s.face o.handle o.side).panel o.panel).generation

/-- The first update skipped in an event (log 20). -/
theorem skipUpdate_of_first {s : State} (hk : s.skippedNow = []) (h h' : Handle) (n : Nat) : s.skipUpdate h n =
    Settling.put
      { Settling.none s h' with
        faults := { s.faults with skipped := min (s.faults.skipped + 1) 65535 }, skippedNow := [leafKey h n] } s h' := by
  have hfirst : s.skipUpdate h n = { s with
      faults := { s.faults with skipped := incSat s.faults.skipped }, skippedNow := leafKey h n :: s.skippedNow } :=
    if_neg (by rw [hk]; exact Bool.false_ne_true)
  rw [hfirst, incSat_eq, hk]
  exact congrArg (fun vols : PerHandle Volume => ({ s with
      vols := vols, faults := { s.faults with skipped := min (s.faults.skipped + 1) 65535 }
      skippedNow := [leafKey h n] } : State)) (set_vol_self s h').symm

section Ends
variable {s : State} (hc : s.TableClean) {i : SlotNo} {o : Owner}
  (he : (s.leaf o.handle o.leaf).valid = true → (s.leaf o.handle o.leaf).errors = [])
  (hk : (s.leaf o.handle o.leaf).valid = false → s.skippedNow = [])
include hc he hk

/-- A DAMAGED delivery's writes (R43, R80). -/
theorem settleDamaged_settling {joins invalid : Prop} [Decidable joins] [Decidable invalid]
    (hj : joins ↔ (Stands s i o ∧ (s.face o.handle o.side).skip = false ∧ (s.face o.handle o.side).rescan = false) ∧
      (s.vol o.handle).state = .active) (hinv : invalid ↔ (s.leaf o.handle o.leaf).valid = false) :
    ∃ leaves skipped, s.settleDamaged i o = State.freeSlot (Settling.put
      { leaves := leaves
        rescan := if joins ∧ s.rescan.length < 64 then s.rescan ++ [o.side] else s.rescan
        counters := { (s.vol o.handle).counters with rescanOverflow :=
          if joins ∧ 64 ≤ s.rescan.length then (s.vol o.handle).counters.rescanOverflow + 1
          else (s.vol o.handle).counters.rescanOverflow }
        notices := if joins then addNotice s.links.station.notices StationNotice.rescanAdded.place
          else s.links.station.notices
        faults := if invalid then { s.faults with skipped := min (s.faults.skipped + 1) 65535 } else s.faults
        skippedNow := skipped } s o.handle) i ∧
      (¬Stands s i o → leaves = s.leaves) ∧
      (Stands s i o → ∀ t : State, t.leaves = leaves →
        t.face o.handle o.side = damagedFace (s.face o.handle o.side) o.panel ∧
          (s.Canonical → FaceAlone s t o.handle o.side)) := by
  by_cases hv : (s.leaf o.handle o.leaf).valid = true
  · have hl : s.cleanLeaf o.handle o.leaf := ⟨hv, he hv⟩
    have hni : ¬invalid := fun h => Bool.false_ne_true ((hinv.1 h).symm.trans hv)
    by_cases hg : (s.slot i).generation = ((s.face o.handle o.side).panel o.panel).generation
    · obtain ⟨leaves, hend, hface⟩ := settleDamaged_recorded hl hc hg
      refine ⟨leaves, s.skippedNow, hend.trans ?_, fun h => absurd ⟨hv, hg⟩ h, fun _ => hface⟩
      have hsame : ((s.face o.handle o.side).skip = false ∧ (s.face o.handle o.side).rescan = false) ∧
          (s.vol o.handle).state = .active ↔ joins :=
        (and_congr_left' (and_iff_right ⟨hv, hg⟩).symm).trans hj.symm
      simp only [hsame, if_neg hni]
      rfl
    · have hnj (q : Prop) : ¬(joins ∧ q) := fun h => hg (hj.1 h.1).1.1.2
      have hnj' : ¬joins := fun h => hg (hj.1 h).1.1.2
      refine ⟨s.leaves, s.skippedNow, (settleDamaged_of_stale hl hg).trans ?_, fun _ => rfl, fun h => absurd h.2 hg⟩
      simp only [if_neg (hnj _), if_neg hnj', if_neg hni]
      exact congrArg (State.freeSlot · i) (Settling.put_none s o.handle).symm
  · have hv := Bool.eq_false_iff.2 hv
    have hns : ¬Stands s i o := fun h => Bool.false_ne_true (hv.symm.trans h.1)
    have hnj (q : Prop) : ¬(joins ∧ q) := fun h => hns (hj.1 h.1).1.1
    have hnj' : ¬joins := fun h => hns (hj.1 h).1.1
    refine ⟨s.leaves, [leafKey o.handle o.leaf], (settleDamaged_of_invalid hv).trans ?_, fun _ => rfl,
      fun h => absurd h hns⟩
    simp only [if_neg (hnj _), if_neg hnj', if_pos (hinv.2 hv)]
    exact congrArg (State.freeSlot · i) (skipUpdate_of_first (hk hv) _ _ _)

/-- The settled part of a panel whose standing capture has been delivered. -/
def deliveredPart (x : Slot) (e : PanelEntry) : PanelEntry :=
  { e with settled := match e.settled with
      | .kept st => .delivered st
      | .delivered st => .delivered st
      | .none => .delivered x.stats }

/-- A COMPLETE delivery's writes (R42). -/
theorem settleComplete_settling {stands invalid : Prop} [Decidable stands] [Decidable invalid]
    (hs : stands ↔ Stands s i o) (hinv : invalid ↔ (s.leaf o.handle o.leaf).valid = false) :
    ∃ leaves skipped, s.settleComplete i o = State.freeSlot (Settling.put
      { Settling.none s o.handle with
        leaves := leaves
        counters := { (s.vol o.handle).counters with delivered :=
          if stands then (s.vol o.handle).counters.delivered + 1 else (s.vol o.handle).counters.delivered }
        faults := if invalid then { s.faults with skipped := min (s.faults.skipped + 1) 65535 } else s.faults
        skippedNow := skipped } s o.handle) i ∧
      (¬stands → leaves = s.leaves) ∧
      (stands → ∀ t : State, t.leaves = leaves →
        t.face o.handle o.side = (s.face o.handle o.side).modPanel o.panel (deliveredPart (s.slot i)) ∧
          (s.Canonical → FaceAlone s t o.handle o.side)) := by
  by_cases hv : (s.leaf o.handle o.leaf).valid = true
  · have hni : ¬invalid := fun h => Bool.false_ne_true ((hinv.1 h).symm.trans hv)
    by_cases hg : (s.slot i).generation = ((s.face o.handle o.side).panel o.panel).generation
    · let t := s.setFace o.handle o.side ((s.face o.handle o.side).modPanel o.panel (deliveredPart (s.slot i)))
      have hstands : stands := hs.2 ⟨hv, hg⟩
      have hend : s.settleComplete i o =
          State.freeSlot (t.count o.handle fun c => { c with delivered := c.delivered + 1 }) i := by
        rw [State.settleComplete, readLeaf_of_clean hv (he hv)]
        exact congrArg (State.freeSlot · i) (if_pos hg)
      refine ⟨t.leaves, s.skippedNow, hend.trans ?_, fun h => absurd hstands h, fun _ u e => ⟨?_, fun canon =>
        faceAlone_of_leaves (faceAlone_setFace canon _ _ _) e⟩⟩
      · rw [State.count, modVol_of_clean (vol_clean (s := t) ⟨hc.zero, hc.one, hc.rescan⟩ _), if_pos hstands, if_neg hni]
        rfl
      · have hu : u.face o.handle o.side = t.face o.handle o.side := by simp only [State.face, State.leaf, e]
        exact hu.trans (face_setFace_modPanel _ _ _ _ _ _)
    · have hns : ¬stands := fun h => hg (hs.1 h).2
      have hend : s.settleComplete i o = s.freeSlot i := by
        rw [State.settleComplete, readLeaf_of_clean hv (he hv)]
        exact congrArg (State.freeSlot · i) (if_neg hg)
      refine ⟨s.leaves, s.skippedNow, hend.trans ?_, fun _ => rfl, fun h => absurd h hns⟩
      rw [if_neg hns, if_neg hni]
      exact congrArg (State.freeSlot · i) (Settling.put_none s o.handle).symm
  · have hv := Bool.eq_false_iff.2 hv
    have hns : ¬stands := fun h => Bool.false_ne_true (hv.symm.trans (hs.1 h).1)
    have hend : s.settleComplete i o = (s.skipUpdate o.handle o.leaf).freeSlot i := by
      rw [State.settleComplete, readLeaf_of_invalid hv]
    refine ⟨s.leaves, [leafKey o.handle o.leaf], hend.trans ?_, fun _ => rfl, fun h => absurd h hns⟩
    rw [if_neg hns, if_pos (hinv.2 hv)]
    exact congrArg (State.freeSlot · i) (skipUpdate_of_first (hk hv) _ _ _)

end Ends

/-! ### The words of a delivery (R170, R171, R173 to R176) -/

section Words
variable {s : State} {d : Delivery} (hb : s.delivery.current = some d)
include hb

theorem modDelivery_of_current (f : Delivery → Delivery) :
    s.modDelivery f = { s with delivery := { s.delivery with current := some (f d) } } := by
  rw [State.modDelivery, hb, Option.map_some]

theorem takeWord_of_empty (hw : d.toTake = []) : s.takeWord = s := by
  rw [State.takeWord, hb]
  dsimp only
  rw [hw]

variable {w : PortWord} {rest : List PortWord} (hw : d.toTake = w :: rest)
include hw

theorem takeWord_of_more (hp : d.phase ≠ .pixels) (hr : rest ≠ []) :
    s.takeWord = { s with delivery := { s.delivery with current := some { d with toTake := rest } } } := by
  refine Eq.trans ?_ (modDelivery_of_current hb fun d => { d with toTake := rest })
  rw [State.takeWord, hb]
  dsimp only
  rw [hw]
  dsimp only
  cases hph : d.phase with
  | header => exact if_neg hr
  | pixels => exact absurd hph hp
  | trailer => exact if_neg hr

theorem takeWord_of_header (hp : d.phase = .header) (hr : rest = []) : s.takeWord =
    if d.cancelled then s.modDelivery fun d => { d with phase := .trailer, toTake := d.trailer }
    else (s.modDelivery fun d => { d with phase := .pixels, toTake := [] }).offerPixel := by
  rw [State.takeWord, hb]
  dsimp only
  rw [hw]
  dsimp only
  rw [hp]
  exact if_pos hr

theorem takeWord_of_trailer (hp : d.phase = .trailer) (hr : rest = []) : s.takeWord =
    (State.postStation { s with delivery := { s.delivery with current := none } } .deliveryDone).startDelivery := by
  rw [State.takeWord, hb]
  dsimp only
  rw [hw]
  dsimp only
  rw [hp]
  exact if_pos hr

theorem takeWord_of_pixels (hp : d.phase = .pixels) : s.takeWord = s.takePixel d w := by
  rw [State.takeWord, hb]
  dsimp only
  rw [hw]
  dsimp only
  rw [hp]

end Words

/-- A delivery whose pixel word has been taken (R171, R174). -/
def pixelTaken (d : Delivery) (w : PortWord) : Delivery :=
  { d with
    crc := crcWord d.crc w
    wordsSent := d.wordsSent + 1
    wordInLine := if d.format.wordsPerLine d.box.width ≤ d.wordInLine + 1 then 0 else d.wordInLine + 1
    linesSent := if d.format.wordsPerLine d.box.width ≤ d.wordInLine + 1 then d.linesSent + 1 else d.linesSent }

/-- A delivery in progress, put in a state. -/
def delivering (s : State) (d : Delivery) : State := { s with delivery := { s.delivery with current := some d } }

section Pixels
variable {s : State} {d : Delivery} (hb : s.delivery.current = some d) (w : PortWord)
include hb

theorem takePixel_eq : s.takePixel d w =
    if d.format.wordsPerLine d.box.width ≤ d.wordInLine + 1 ∧ d.box.height ≤ (pixelTaken d w).linesSent then
      (delivering s (pixelTaken d w)).endDelivery (pixelTaken d w)
    else (delivering s (pixelTaken d w)).offerPixel := by
  rw [State.takePixel]
  simp only [modDelivery_of_current hb, decide_eq_true_eq]
  rfl

theorem takePixel_of_more (hm : ¬(d.format.wordsPerLine d.box.width ≤ d.wordInLine + 1 ∧ d.box.height ≤ d.linesSent + 1)) :
    s.takePixel d w = (delivering s (pixelTaken d w)).offerPixel := by
  refine (takePixel_eq hb w).trans (if_neg fun h => hm ⟨h.1, ?_⟩)
  have hlines : (pixelTaken d w).linesSent = d.linesSent + 1 := if_pos h.1
  exact hlines ▸ h.2

theorem takePixel_of_last (hl : d.format.wordsPerLine d.box.width ≤ d.wordInLine + 1)
    (hh : d.box.height ≤ d.linesSent + 1) :
    s.takePixel d w = (delivering s (pixelTaken d w)).endDelivery (pixelTaken d w) := by
  have hlines : (pixelTaken d w).linesSent = d.linesSent + 1 := if_pos hl
  exact (takePixel_eq hb w).trans (if_pos ⟨hl, hlines ▸ hh⟩)

end Pixels

/-- A delivery's trailer fixed with a status (R174). -/
def trailerFixed (s : State) (d : Delivery) (status : DeliveryStatus) : State :=
  { s with delivery := { s.delivery with
      current := some { d with trailer := trailerWords status d.linesSent d.wordsSent (crcFinal d.crc) }
      lastTrailer := some ⟨d.slot, d.owner, d.generation, d.format, status, d.linesSent, d.wordsSent, crcFinal d.crc⟩ } }

/-- The trailer is offered. -/
def trailerOffered (d : Delivery) (status : DeliveryStatus) : Delivery :=
  let trailer := trailerWords status d.linesSent d.wordsSent (crcFinal d.crc)
  { d with phase := .trailer, toTake := trailer, trailer := trailer }

theorem endDelivery_of_damaged {s : State} {d : Delivery} (hd : d.damaged = true) :
    (delivering s d).endDelivery d =
      delivering ((trailerFixed s d .damaged).settleDamaged d.slot d.owner) (trailerOffered d .damaged) := by
  have hcurrent : ((trailerFixed s d .damaged).settleDamaged d.slot d.owner).delivery.current =
      (trailerFixed s d .damaged).delivery.current :=
    (congrArg (fun t : State => t.delivery.current) (accountFrame_settleDamaged _ _ _) :)
  rw [State.endDelivery, hd]
  exact modDelivery_of_current hcurrent _

theorem endDelivery_of_whole {s t : State} {d : Delivery} (hd : d.damaged = false)
    (ht : (trailerFixed s d .complete).settleComplete d.slot d.owner = t)
    (hcurrent : t.delivery.current = (trailerFixed s d .complete).delivery.current) :
    (delivering s d).endDelivery d = delivering t (trailerOffered d .complete) := by
  subst ht
  rw [State.endDelivery, hd]
  exact modDelivery_of_current hcurrent _

end Sys2Proof.Proofs
end

section
/-! SUPPORT. Each take of a word at the image port (R171, R170, R173 to R176, R42, R43). -/
namespace Sys2Proof.Proofs
open Sys2Proof.Machine Sys2Proof.Laws

theorem exec_imagePortWordTaken {s t : State} (hr : s.run.state ≠ .slotWait) (ht : s.takeWord = t) :
    exec .imagePortWordTaken s = .next { t with skippedNow := [] } := by
  refine done_congr ((reportFreed_of_running ?_).trans ht)
  rw [run_takeWord]
  exact hr

theorem slot_settleDamaged (s : State) (i : SlotNo) (o : Owner) (j : SlotNo) :
    (s.settleDamaged i o).slot j = if j == i then Slot.cleared else s.slot j := by
  have hslots : (s.settleDamaged i o).slots = (s.clearSlot i).slots :=
    (congrArg (fun t : State => t.slots) (accountFrame_settleDamaged s i o) :)
  rw [State.slot, hslots]
  exact slot_clearSlot s i j

theorem delivery_settleDamaged (s : State) (i : SlotNo) (o : Owner) :
    (s.settleDamaged i o).delivery = (s.clearSlot i).delivery :=
  (congrArg (fun t : State => t.delivery) (accountFrame_settleDamaged s i o) :)

section Damaged
variable {s : State} (hc : s.TableClean) {i : SlotNo} {o : Owner} (ho : (s.slot i).owner = some o)
  (he : (s.leaf o.handle o.leaf).valid = true → (s.leaf o.handle o.leaf).errors = [])
  (hk : (s.leaf o.handle o.leaf).valid = false → s.skippedNow = [])
include hc ho he hk

/-- A DAMAGED delivery's end, whole (R43, R80, R9). -/
theorem settleDamaged_eq {joins invalid closes : Prop} [Decidable joins] [Decidable invalid] [Decidable closes]
    (hj : joins ↔ (Stands s i o ∧ (s.face o.handle o.side).skip = false ∧ (s.face o.handle o.side).rescan = false) ∧
      (s.vol o.handle).state = .active) (hinv : invalid ↔ (s.leaf o.handle o.leaf).valid = false)
    (hcl : closes ↔ ClosesWith s i o.handle) :
    (¬Stands s i o → (s.settleDamaged i o).leaves = s.leaves) ∧
    (Stands s i o → (s.settleDamaged i o).face o.handle o.side = damagedFace (s.face o.handle o.side) o.panel ∧
      (s.Canonical → FaceAlone s (s.settleDamaged i o) o.handle o.side)) ∧
    s.settleDamaged i o =
      (let noted := if joins then addNotice s.links.station.notices StationNotice.rescanAdded.place
         else s.links.station.notices
       { s with
        links := { s.links with station := { s.links.station with
          notices := if closes then addNotice noted StationNotice.volumeDrained.place else noted } }
        vols := s.vols.set o.handle { s.vol o.handle with
          state := if closes then .closed else (s.vol o.handle).state
          counters := { (s.vol o.handle).counters with rescanOverflow :=
            if joins ∧ 64 ≤ s.rescan.length then (s.vol o.handle).counters.rescanOverflow + 1
            else (s.vol o.handle).counters.rescanOverflow } }
        leaves := (s.settleDamaged i o).leaves, slots := (s.settleDamaged i o).slots
        delivery := (s.settleDamaged i o).delivery
        rescan := if joins ∧ s.rescan.length < 64 then s.rescan ++ [o.side] else s.rescan
        faults := if invalid then { s.faults with skipped := min (s.faults.skipped + 1) 65535 } else s.faults
        skippedNow := (s.settleDamaged i o).skippedNow }) := by
  obtain ⟨leaves, skipped, hend, hsame, hface⟩ := settleDamaged_settling hc he hk hj hinv
  have hfree := hend.trans (Settling.freeSlot_put _ hc ho hcl)
  have hleaves : (s.settleDamaged i o).leaves = leaves := by rw [hfree]
  refine ⟨fun hs => hleaves.trans (hsame hs), fun hs => hface hs _ hleaves, ?_⟩
  rw [hfree]

end Damaged

theorem panel_damagedFace (f : FaceRecord) (p q : Nat) :
    (damagedFace f p).panel? q = if q = p then some (withoutSettled (f.panel p)) else f.panel? q :=
  panel?_modPanel (f := f) (q := p) (g := withoutSettled) (panel_number _ _) q

/-- The panel of a damaged delivery. -/
theorem panel_damagedFace_same (f : FaceRecord) (p : Nat) :
    (damagedFace f p).panel p = { f.panel p with number := p, settled := .none } := by
  have hpart : withoutSettled (f.panel p) = { f.panel p with number := p, settled := .none } := by
    rw [withoutSettled, panel_number]
  rw [FaceRecord.panel, panel_damagedFace, if_pos rfl]
  exact hpart

/-- Settles O56: each take of a word, the end of a whole image and that of a damaged one. -/
theorem imagePortTakesWords : Obligations.ImagePortTakesWords := by
  refine ⟨?words, ?active, ?whole⟩
  case words =>
    intro s hr hc fin now done_
    have taken {t : State} (ht : s.takeWord = t) : exec .imagePortWordTaken s = .next (fin t) :=
      exec_imagePortWordTaken hr ht
    refine ⟨fun hb => taken (by rw [State.takeWord, hb]), fun d hb hw => taken (takeWord_of_empty hb hw),
      fun d w rest hb hw => ⟨fun hp hne => taken (takeWord_of_more hb hw hp hne), fun hp hn hcan => ?_,
        fun hp hn hcan => ?_, fun hp hn hq => ?_, fun hp hn j q o hq ho hl => ?_, fun hp => ?_⟩⟩
    · refine taken ((takeWord_of_header hb hw hp hn).trans ((if_pos hcan).trans (modDelivery_of_current hb _)))
    · refine taken ((takeWord_of_header hb hw hp hn).trans ((if_neg ?_).trans ?_))
      · rw [hcan]
        exact Bool.false_ne_true
      · rw [modDelivery_of_current hb]
    · exact taken ((takeWord_of_trailer hb hw hp hn).trans (startDelivery_of_empty (by exact hq)))
    · intro x superseded
      let u : State := State.postStation { s with delivery := { s.delivery with current := none } } .deliveryDone
      have hstart := startDelivery_of_next (s := u) rfl hq ho hl ⟨hc.zero, hc.one, hc.rescan⟩
      exact taken ((takeWord_of_trailer hb hw hp hn).trans hstart)
    · intro last taken' i x crc trailer sent
      have hpix := takeWord_of_pixels hb hw hp
      refine ⟨fun hm => taken (hpix.trans (takePixel_of_more hb w hm)), fun hl hh hd => ?_,
        fun hl hh hd o ho hown => ?_⟩
      · have hend := endDelivery_of_damaged (s := s) (d := pixelTaken d w) hd
        have hlast := hpix.trans ((takePixel_of_last hb w hl hh).trans hend)
        exact taken hlast
      · subst ho
        intro e v closes invalid clean stands hskip hcl hleaf canon
        let f := trailerFixed s (pixelTaken d w) .complete
        have he : (f.leaf d.owner.handle d.owner.leaf).valid = true → (f.leaf d.owner.handle d.owner.leaf).errors = [] :=
          fun hv => hcl.elim (fun h => h.2) fun h => absurd (h.symm.trans hv) Bool.false_ne_true
        obtain ⟨leaves, skipped, hend, hsame, hface⟩ := settleComplete_settling (s := f) (i := i) (o := d.owner)
          ⟨hc.zero, hc.one, hc.rescan⟩ he hskip (stands := stands) (invalid := invalid) Iff.rfl Iff.rfl
        have hfree := hend.trans (Settling.freeSlot_put _ (s := f) ⟨hc.zero, hc.one, hc.rescan⟩ hown
          (closes := closes) Iff.rfl)
        have hwhole := endDelivery_of_whole (s := s) (d := pixelTaken d w) hd hfree rfl
        have hlast := hpix.trans ((takePixel_of_last hb w hl hh).trans hwhole)
        have hpanel (p : Nat) := panel?_modPanel (f := s.face d.owner.handle d.owner.side) (q := d.owner.panel)
          (g := deliveredPart x) (panel_number _ _) p
        refine ⟨_, taken hlast, (slot_clearSlot f i i).trans (if_pos (beq_self_eq_true i)),
          fun j hj => (slot_clearSlot f i j).trans (if_neg (by simpa using hj)), fun hn => hsame hn,
          fun st hs hset => ?_, fun hs hkept => ⟨fun p hne => ?_, ?_, ?_⟩, rfl⟩
        · have hpart : deliveredPart x e = { e with settled := .delivered st } := by rw [deliveredPart, hset]
          refine (congrArg (fun f : FaceRecord => f.panel d.owner.panel) (hface hs _ ?_).1).trans ?_
          · rfl
          · rw [← hpart]
            exact (congrArg (Option.getD · _) ((hpanel d.owner.panel).trans (if_pos rfl)) :)
        · refine (congrArg (fun f : FaceRecord => f.panel? p) (hface hs _ ?_).1).trans ((hpanel p).trans (if_neg hne))
          rfl
        · refine (congrArg (fun f : FaceRecord => { f with panels := [] }) (hface hs _ ?_).1).trans ?_
          · rfl
          · rfl
        · have alone (t : State) (ht : t.leaves = leaves) : FaceAlone s t d.owner.handle d.owner.side :=
            have hf := (hface hs t ht).2 ⟨canon.memory, canon.leaves, canon.gain⟩
            ⟨hf.record, hf.others⟩
          refine alone _ ?_
          rfl
  case active =>
    intro s i o hc ho ha face e t clean
    have hframe := accountFrame_settleDamaged s i o
    have hopen : False ↔ ClosesWith s i o.handle :=
      ⟨False.elim, fun h => VolumeState.noConfusion (ha.symm.trans h.1)⟩
    have hvols := set_vol_self s o.handle
    refine ⟨(slot_settleDamaged s i o i).trans (if_pos (beq_self_eq_true i)),
      fun j hj => (slot_settleDamaged s i o j).trans (if_neg (by simpa using hj)), fun hv hk => ?_, fun hl hg => ?_,
      fun hl hg => ?_, (congrArg State.memory hframe :), (congrArg State.cradle hframe :), (congrArg State.heads hframe :)⟩
    · have hns : ¬Stands s i o := fun h => Bool.false_ne_true (hv.symm.trans h.1)
      obtain ⟨hleaves, -, hwhole⟩ := settleDamaged_eq hc ho (fun h => absurd (hv.symm.trans h) Bool.false_ne_true)
        (fun _ => hk) (joins := False) (invalid := True) ⟨False.elim, fun h => hns h.1.1⟩ (iff_of_true trivial hv) hopen
      simp only [if_false, if_true, false_and] at hwhole
      exact ⟨hleaves hns, (congrArg State.rescan hwhole :), (congrArg State.vols hwhole :).trans hvols,
        (congrArg State.faults hwhole :)⟩
    · have hns : ¬Stands s i o := fun h => hg h.2
      obtain ⟨hleaves, -, hwhole⟩ := settleDamaged_eq hc ho (fun _ => hl.2)
        (fun h => absurd (h.symm.trans hl.1) Bool.false_ne_true) (joins := False) (invalid := False)
        ⟨False.elim, fun h => hns h.1.1⟩ ⟨False.elim, fun h => Bool.false_ne_true (h.symm.trans hl.1)⟩ hopen
      simp only [if_false, false_and] at hwhole
      exact ⟨hleaves hns, (congrArg State.rescan hwhole :), (congrArg State.vols hwhole :).trans hvols,
        (congrArg State.faults hwhole :)⟩
    · obtain ⟨-, hstands, hwhole⟩ := settleDamaged_eq hc ho (fun _ => hl.2)
        (fun h => absurd (h.symm.trans hl.1) Bool.false_ne_true)
        (joins := face.skip = false ∧ face.rescan = false) (invalid := False)
        ⟨fun h => ⟨⟨⟨hl.1, hg⟩, h⟩, ha⟩, fun h => h.1.2⟩ ⟨False.elim, fun h => Bool.false_ne_true (h.symm.trans hl.1)⟩ hopen
      obtain ⟨hface, -⟩ := hstands ⟨hl.1, hg⟩
      simp only [if_false, and_assoc] at hwhole
      refine ⟨?_, ?_, ?_, (congrArg State.rescan hwhole :), (congrArg State.vols hwhole :), (congrArg State.faults hwhole :)⟩
      · rw [hface]
        exact panel_damagedFace_same face o.panel
      · rw [hface]
        rfl
      · rw [hface]
        rfl
  case whole =>
    intro s i o canon hc hk ho hleaf he v face e t invalid stands flags joins closes noted noted_1 noted_2
    obtain ⟨hleaves, hstands, hwhole⟩ := settleDamaged_eq hc ho he (fun _ => hk) (joins := joins) (invalid := invalid)
      (closes := closes) Iff.rfl Iff.rfl Iff.rfl
    refine ⟨⟨slot_settleDamaged s i o, delivery_settleDamaged s i o⟩, hleaves, fun hs => ?_, hwhole⟩
    obtain ⟨hface, halone⟩ := hstands hs
    refine ⟨halone canon, ?_, fun p hne => ?_, ?_⟩
    · rw [hface]
      exact panel_damagedFace_same face o.panel
    · rw [hface]
      exact (panel_damagedFace face o.panel p).trans (if_neg hne)
    · rw [hface]
      rfl

end Sys2Proof.Proofs
end

section
/-! SUPPORT. The keep of a capture, step by step (R36, R37, R5, R81). -/
namespace Sys2Proof.Proofs
open Sys2Proof.Machine Sys2Proof.Laws

/-! ### Writes into the account on top of one another -/

theorem Settling.vol_put (c : Settling) (b : State) (h : Handle) :
    (c.put b h).vol h = { b.vol h with counters := c.counters } := PerHandle_get_set_same _ _ _

theorem Settling.tableClean_put (c : Settling) {b : State} (hc : b.TableClean) (h : Handle) : (c.put b h).TableClean := by
  have ht := tableClean_setVol hc (h := h) (v := { b.vol h with counters := c.counters }) rfl
  exact ⟨ht.zero, ht.one, ht.rescan⟩

theorem Settling.put_count (c : Settling) {b : State} (hc : b.TableClean) (h : Handle)
    (f : VolumeCounters → VolumeCounters) :
    (c.put b h).count h f = Settling.put { c with counters := f c.counters } b h := by
  have hset (v : Volume) : (c.put b h).vols.set h v = b.vols.set h v := PerHandle_set_set _ _ _ _
  rw [count_of_clean (vol_clean (c.tableClean_put hc h) h), hset, c.vol_put]
  rfl

theorem Settling.put_setFace (c : Settling) (b : State) (h h' : Handle) (d : Side) (x : FaceRecord) :
    (c.put b h).setFace h' d x =
      Settling.put { c with leaves := ((c.put b h).setFace h' d x).leaves } b h := rfl

/-- A side of the ACTIVE volume leaves the list or its overflow. -/
theorem Settling.put_leaveRescan (c : Settling) {b : State} (hc : b.TableClean) (h : Handle) (d : Side) :
    (c.put b h).leaveRescan h d = Settling.put
      { c with
        rescan := if (b.vol h).state = .active ∧ d ∈ c.rescan then c.rescan.filter (· ≠ d) else c.rescan
        counters := { c.counters with rescanOverflow :=
          if (b.vol h).state = .active ∧ d ∉ c.rescan then c.counters.rescanOverflow - 1
          else c.counters.rescanOverflow } } b h := by
  have hclean := c.tableClean_put hc h
  have hstate : ((c.put b h).vol h).state = (b.vol h).state := by rw [c.vol_put]
  by_cases ha : (b.vol h).state = .active
  · by_cases hd : d ∈ c.rescan
    · rw [leaveRescan_of_mem hclean (hstate.trans ha) hd, if_pos ⟨ha, hd⟩, if_neg fun h => h.2 hd]
      rfl
    · have hset (v : Volume) : (c.put b h).vols.set h v = b.vols.set h v := PerHandle_set_set _ _ _ _
      rw [leaveRescan_of_not_mem hclean (hstate.trans ha) hd, if_neg fun h => hd h.2, if_pos ⟨ha, hd⟩, hset, c.vol_put]
      rfl
  · rw [if_neg fun h => ha h.1, if_neg fun h => ha h.1, State.leaveRescan, readVolume_of_clean (vol_clean hclean h)]
    exact if_neg fun e => ha (hstate.symm.trans e)

/-! ### Overtaken slots (R36 step 3) -/

/-- The slot table with some slots cleared. -/
def clearedSlots (l : List SlotNo) (slots : Vector Slot 8) : Vector Slot 8 :=
  l.foldl (fun v j => v.set j.val Slot.cleared j.isLt) slots

theorem getElem_clearedSlots (l : List SlotNo) (slots : Vector Slot 8) (j : SlotNo) :
    (clearedSlots l slots)[j] = if l.contains j then Slot.cleared else slots[j] := by
  induction l generalizing slots with
  | nil => rfl
  | cons i l ih =>
    refine (ih _).trans ?_
    rw [List.contains_cons]
    by_cases hj : j = i
    · subst hj
      rw [beq_self_eq_true, Bool.true_or, if_pos rfl]
      split
      · rfl
      · exact Vector.getElem_set_self j.isLt
    · rw [beq_false_of_ne hj, Bool.false_or]
      split
      · rfl
      · exact Vector.getElem_set_ne i.isLt j.isLt fun e => hj (Fin.ext e.symm)

theorem foldl_clearSlot (l : List SlotNo) (s : State) : l.foldl State.clearSlot s =
    { s with
      slots := clearedSlots l s.slots
      delivery := { s.delivery with queue := s.delivery.queue.filter fun j => !l.contains j } } := by
  induction l generalizing s with
  | nil =>
    have hq : s.delivery.queue.filter (fun j => !([] : List SlotNo).contains j) = s.delivery.queue :=
      List.filter_eq_self.2 fun _ _ => rfl
    rw [hq]
    rfl
  | cons i l ih =>
    have hq : (s.delivery.queue.filter fun j => !(j == i)).filter (fun j => !l.contains j) =
        s.delivery.queue.filter fun j => !(i :: l).contains j := by
      rw [List.filter_filter]
      refine List.filter_congr fun j _ => ?_
      rw [List.contains_cons, Bool.not_or, Bool.and_comm]
    refine (ih (s.clearSlot i)).trans ?_
    rw [← hq]
    rfl

/-- While another capture of the volume is held, the slots freed close no volume. -/
theorem foldl_freeSlot {s : State} (hc : s.TableClean) {i : SlotNo} {o : Owner} (hi : (s.slot i).state ≠ .free)
    (ho : (s.slot i).owner = some o) {l : List SlotNo} (hne : ∀ j ∈ l, j ≠ i)
    (hl : ∀ j ∈ l, ∀ p, (s.slot j).owner = some p → p.handle = o.handle) :
    l.foldl State.freeSlot s = l.foldl State.clearSlot s := by
  induction l generalizing s with
  | nil => rfl
  | cons j l ih =>
    have hji := hne j List.mem_cons_self
    have hother : (s.clearSlot j).slot i = s.slot i :=
      (slot_clearSlot s j i).trans (if_neg (by simpa using hji.symm))
    have hone : s.freeSlot j = s.clearSlot j := by
      cases hown : (s.slot j).owner with
      | none => rw [State.freeSlot, hown]
      | some p =>
        have hp := hl j List.mem_cons_self p hown
        have hstays : ¬ClosesWith s j p.handle := fun h => by
          have hfree := h.2 i hji.symm
          have hheld : (s.slot i).ownedBy p.handle = true := slot_ownedBy_iff.2 ⟨hi, o, ho, hp.symm⟩
          rw [hfree] at hheld
          cases hheld
        have hfree := freeSlot_eq hc hown (closes := False) (iff_of_false id hstays)
        rw [hfree, if_neg id, if_neg id]
        exact congrArg (fun vols : PerHandle Volume => { s.clearSlot j with vols := vols }) (PerHandle_set_get s.vols p.handle)
    rw [List.foldl_cons, List.foldl_cons, hone]
    refine ih (s := s.clearSlot j) ⟨hc.zero, hc.one, hc.rescan⟩ (by rw [hother]; exact hi) (by rw [hother]; exact ho)
      (fun k hk => hne k (List.mem_cons_of_mem _ hk)) fun k hk p hp => ?_
    rw [slot_clearSlot] at hp
    split at hp
    · cases hp
    · exact hl k (List.mem_cons_of_mem _ hk) p hp

/-! ### The steps of a keep (R36, R37) -/

/-- The slot's own entry, and the superseded counter (R36 steps 1, 2). -/
def keepMarked (s : State) (i : SlotNo) (o : Owner) : State :=
  let e := (s.face o.handle o.side).panel o.panel
  let t := s.setSlot i { s.slot i with state := .kept, generation := e.generation + 1 }
  if e.settled.isSettled then t.count o.handle fun c => { c with superseded := c.superseded + 1 } else t

/-- The overtaken slots freed. -/
def keepCleared (s : State) (i : SlotNo) (o : Owner) : State :=
  ((keepMarked s i o).overtaken i o).foldl State.freeSlot (keepMarked s i o)

/-- The panel's entry after a keep. -/
def keptPanel (st : CaptureStats) (e : PanelEntry) : PanelEntry :=
  { e with generation := e.generation + 1, settled := .kept st, pending := none }

/-- The panel and the kept counter. -/
def keepPanelled (s : State) (i : SlotNo) (o : Owner) : State :=
  let t := keepCleared s i o
  (t.setFace o.handle o.side ((t.face o.handle o.side).modPanel o.panel (keptPanel (s.slot i).stats))).count o.handle
    fun c => { c with kept := c.kept + 1 }

/-- The side's blank flag. -/
def keepBlanked (s : State) (i : SlotNo) (o : Owner) : State :=
  (keepPanelled s i o).setBlank o.handle o.side (s.slot i).stats.blank

/-- A side all settled leaves the rescan list. -/
def sweptRescan (t : State) (o : Owner) : State :=
  if (t.face o.handle o.side).allSettled then t.clearRescan o.handle o.side else t

theorem keepSlot_steps (s : State) (i : SlotNo) (o : Owner) : s.keepSlot i o =
    (let t := (sweptRescan (keepBlanked s i o) o).adjustExposure (s.slot i)
     if t.delivery.settings.auto then t.enqueue i else t) := rfl

/-- The entry of the slot kept. -/
def keptSlot (s : State) (i : SlotNo) (o : Owner) : Slot :=
  { s.slot i with state := .kept, generation := ((s.face o.handle o.side).panel o.panel).generation + 1 }

/-- The slots a keep overtakes. -/
def overtakenSlots (s : State) (i : SlotNo) (o : Owner) : List SlotNo :=
  allSlots.filter fun j => !(j == i) && (s.slot j).overtakenBy o

/-- A state with the slot kept and the overtaken ones cleared. -/
def slotsKept (s : State) (i : SlotNo) (o : Owner) : State :=
  { s with
    slots := clearedSlots (overtakenSlots s i o) (s.setSlot i (keptSlot s i o)).slots
    delivery := { s.delivery with queue := s.delivery.queue.filter fun j => !(overtakenSlots s i o).contains j } }

theorem contains_overtakenSlots {s : State} {i j : SlotNo} {o : Owner} :
    (overtakenSlots s i o).contains j = (!(j == i) && (s.slot j).overtakenBy o) := by
  rw [Bool.eq_iff_iff, List.contains_iff_mem, overtakenSlots, List.mem_filter]
  exact and_iff_right (mem_allSlots j)

section Keep
variable {s : State} (hc : s.TableClean) (i : SlotNo) (o : Owner)
include hc

/-- The superseded counter of a keep over a settled panel. -/
def supersededBy (c : VolumeCounters) (e : PanelEntry) : VolumeCounters :=
  { c with superseded := if e.settled = .none then c.superseded else c.superseded + 1 }

theorem keepMarked_eq : keepMarked s i o = Settling.put
    { Settling.none s o.handle with
      counters := supersededBy (s.vol o.handle).counters ((s.face o.handle o.side).panel o.panel) }
    (s.setSlot i (keptSlot s i o)) o.handle := by
  let t := s.setSlot i (keptSlot s i o)
  have hput := Settling.put_none t o.handle
  cases hset : ((s.face o.handle o.side).panel o.panel).settled with
  | none =>
    have hmark : keepMarked s i o = t := by
      rw [keepMarked, hset]
      rfl
    rw [hmark, supersededBy, if_pos hset]
    exact hput.symm
  | kept st =>
    have hmark : keepMarked s i o = t.count o.handle fun c => { c with superseded := c.superseded + 1 } := by
      rw [keepMarked, hset]
      rfl
    rw [hmark, supersededBy, if_neg (by rw [hset]; exact nofun),
      count_of_clean (vol_clean (s := t) ⟨hc.zero, hc.one, hc.rescan⟩ _)]
    rfl
  | delivered st =>
    have hmark : keepMarked s i o = t.count o.handle fun c => { c with superseded := c.superseded + 1 } := by
      rw [keepMarked, hset]
      rfl
    rw [hmark, supersededBy, if_neg (by rw [hset]; exact nofun),
      count_of_clean (vol_clean (s := t) ⟨hc.zero, hc.one, hc.rescan⟩ _)]
    rfl

theorem overtaken_keepMarked : (keepMarked s i o).overtaken i o = overtakenSlots s i o := by
  have hslots : (keepMarked s i o).slots = (s.setSlot i (keptSlot s i o)).slots := by
    rw [keepMarked_eq hc]
    rfl
  refine List.filter_congr fun j _ => ?_
  rw [State.slot, hslots]
  by_cases hj : j = i
  · rw [hj, beq_self_eq_true]
    rfl
  · have hother : (s.setSlot i (keptSlot s i o)).slots[j] = s.slot j :=
      (slot_setSlot_eq s i j _).trans (if_neg hj)
    rw [hother, Slot.overtakenBy, Bool.and_assoc]
    rfl

variable (ho : (s.slot i).owner = some o)
include ho

theorem keepCleared_eq : keepCleared s i o = Settling.put
    { Settling.none s o.handle with
      counters := supersededBy (s.vol o.handle).counters ((s.face o.handle o.side).panel o.panel) }
    (slotsKept s i o) o.handle := by
  have hslot (j : SlotNo) : (keepMarked s i o).slot j = if j = i then keptSlot s i o else s.slot j := by
    rw [keepMarked_eq hc]
    exact slot_setSlot_eq s i j _
  have hself : (keepMarked s i o).slot i = keptSlot s i o := (hslot i).trans (if_pos rfl)
  have hmem {j : SlotNo} (hj : j ∈ overtakenSlots s i o) : j ≠ i ∧ (s.slot j).owner = some o := by
    obtain ⟨hne, hover⟩ := (Bool.and_eq_true _ _).mp (List.mem_filter.1 hj).2
    exact ⟨by simpa using hne, by simpa using ((Bool.and_eq_true _ _).mp hover).2⟩
  have hclean : (keepMarked s i o).TableClean := by
    rw [keepMarked_eq hc]
    exact Settling.tableClean_put _ (b := s.setSlot i (keptSlot s i o)) ⟨hc.zero, hc.one, hc.rescan⟩ _
  rw [keepCleared, overtaken_keepMarked hc, foldl_freeSlot hclean (i := i) (o := o) (by rw [hself]; exact nofun)
    (by rw [hself]; exact ho) (fun j hj => (hmem hj).1) fun j hj p hp => ?_, foldl_clearSlot, keepMarked_eq hc]
  · rfl
  · rw [hslot, if_neg (hmem hj).1, (hmem hj).2] at hp
    exact congrArg Owner.handle (Option.some.inj hp).symm

end Keep

end Sys2Proof.Proofs
end

section
/-! SUPPORT. The keep of a capture, whole (R36, R37, R5, R81, R98, R170). -/
namespace Sys2Proof.Proofs
open Sys2Proof.Machine Sys2Proof.Laws

/-- A face after a keep of one of its panels, its rescan flag apart. -/
def keptFace (f : FaceRecord) (p : Nat) (st : CaptureStats) : FaceRecord :=
  { f.modPanel p (keptPanel st) with blank := st.blank }

/-- The counters of a keep, the rescan overflow apart. -/
def keptCounters (c : VolumeCounters) (f : FaceRecord) (p : Nat) (st : CaptureStats) : VolumeCounters :=
  { c with
    kept := c.kept + 1
    superseded := if (f.panel p).settled = .none then c.superseded else c.superseded + 1
    blankSides := if f.blank = st.blank then c.blankSides
      else if st.blank then c.blankSides + 1 else c.blankSides - 1 }

theorem face_of_leaves {s t : State} (e : t.leaves = s.leaves) (h : Handle) (d : Side) : t.face h d = s.face h d := by
  simp only [State.face, State.leaf, e]

section Keep
variable {s : State} (canon : s.Canonical) (hc : s.TableClean) {i : SlotNo} {o : Owner}
  (ho : (s.slot i).owner = some o)

/-- The faces of the record after the panel and the blank flag were written. -/
theorem keepBlanked_eq (canon : s.Canonical) (hc : s.TableClean) (ho : (s.slot i).owner = some o) :
    ∃ leaves, keepBlanked s i o = Settling.put
      { Settling.none s o.handle with
        leaves := leaves
        counters := keptCounters (s.vol o.handle).counters (s.face o.handle o.side) o.panel (s.slot i).stats }
      (slotsKept s i o) o.handle ∧
      ∀ t : State, t.leaves = leaves →
        t.face o.handle o.side = keptFace (s.face o.handle o.side) o.panel (s.slot i).stats ∧
        FaceAlone s t o.handle o.side ∧ Sparse.wf (LeafRecord.fresh .leaf) leaves = true := by
  have hb : (slotsKept s i o).TableClean := ⟨hc.zero, hc.one, hc.rescan⟩
  let f := s.face o.handle o.side
  let x := s.slot i
  let X := f.modPanel o.panel (keptPanel x.stats)
  let u := s.setFace o.handle o.side X
  have hu : u.face o.handle o.side = X := face_setFace_same canon _ _ _
  have hcu : u.Canonical := canonical_setFace canon _ _ _
  have hpanel : keepPanelled s i o = Settling.put
      { Settling.none s o.handle with
        leaves := u.leaves
        counters :=
          { supersededBy (s.vol o.handle).counters (f.panel o.panel) with
            kept := (s.vol o.handle).counters.kept + 1 } } (slotsKept s i o) o.handle := by
    rw [keepPanelled, keepCleared_eq hc i o ho, Settling.put_setFace, Settling.put_count _ hb]
    rfl
  have hface : (keepPanelled s i o).face o.handle o.side = X := by
    rw [hpanel]
    exact hu
  by_cases hblank : f.blank = x.stats.blank
  · refine ⟨u.leaves, ?_, fun t e => ⟨?_, faceAlone_of_leaves (faceAlone_setFace canon _ _ _) e, hcu.leaves⟩⟩
    · have hsame : keepBlanked s i o = keepPanelled s i o := by
        rw [keepBlanked, State.setBlank, hface]
        exact if_pos hblank
      rw [hsame, hpanel, keptCounters, if_pos hblank]
      rfl
    · rw [face_of_leaves e, hu, keptFace, ← hblank]
      rfl
  · let w := u.setFace o.handle o.side { X with blank := x.stats.blank }
    have hw : w.face o.handle o.side = { X with blank := x.stats.blank } := face_setFace_same hcu _ _ _
    refine ⟨w.leaves, ?_, fun t e => ⟨?_, faceAlone_of_leaves (FaceAlone.trans (faceAlone_setFace canon _ _ _)
      (faceAlone_setFace hcu _ _ _)) e, (canonical_setFace hcu _ _ _).leaves⟩⟩
    · have hwrite : keepBlanked s i o = ((keepPanelled s i o).setFace o.handle o.side
          { X with blank := x.stats.blank }).count o.handle fun c =>
          { c with blankSides := if x.stats.blank then c.blankSides + 1 else c.blankSides - 1 } := by
        rw [keepBlanked, State.setBlank, hface]
        exact if_neg hblank
      rw [hwrite, hpanel, Settling.put_setFace, Settling.put_count _ hb, keptCounters, if_neg hblank]
      rfl
    · rw [face_of_leaves e, hw]
      rfl

/-- The rescan flag of the side after the sweep, and the list. -/
theorem sweptRescan_eq (canon : s.Canonical) (hc : s.TableClean) (ho : (s.slot i).owner = some o) :
    ∃ leaves rescan overflow, sweptRescan (keepBlanked s i o) o = Settling.put
      { Settling.none s o.handle with
        leaves := leaves, rescan := rescan
        counters :=
          { keptCounters (s.vol o.handle).counters (s.face o.handle o.side) o.panel (s.slot i).stats with
            rescanOverflow := overflow } } (slotsKept s i o) o.handle ∧
      (∀ t : State, t.leaves = leaves →
        t.face o.handle o.side =
          { keptFace (s.face o.handle o.side) o.panel (s.slot i).stats with
            rescan := (s.face o.handle o.side).rescan &&
              !(keptFace (s.face o.handle o.side) o.panel (s.slot i).stats).allSettled } ∧
        FaceAlone s t o.handle o.side) ∧
      (if (s.face o.handle o.side).rescan = true ∧
          (keptFace (s.face o.handle o.side) o.panel (s.slot i).stats).allSettled = true then
        rescan = (if (s.vol o.handle).state = .active ∧ o.side ∈ s.rescan then s.rescan.filter (· ≠ o.side)
          else s.rescan) ∧
        overflow = (if (s.vol o.handle).state = .active ∧ o.side ∉ s.rescan then
            (s.vol o.handle).counters.rescanOverflow - 1
          else (s.vol o.handle).counters.rescanOverflow)
      else rescan = s.rescan ∧ overflow = (s.vol o.handle).counters.rescanOverflow) := by
  obtain ⟨leaves, hkeep, hleaves⟩ := keepBlanked_eq canon hc ho
  let F := keptFace (s.face o.handle o.side) o.panel (s.slot i).stats
  have hface : (keepBlanked s i o).face o.handle o.side = F := by
    rw [hkeep]
    refine (hleaves _ ?_).1
    rfl
  have hrescan : F.rescan = (s.face o.handle o.side).rescan := rfl
  by_cases hsweep : F.rescan = true ∧ F.allSettled = true
  · let u := (keepBlanked s i o).setFace o.handle o.side { F with rescan := false }
    have hswept : sweptRescan (keepBlanked s i o) o = u.leaveRescan o.handle o.side := by
      rw [sweptRescan, hface, if_pos hsweep.2, State.clearRescan, hface]
      exact if_pos hsweep.1
    have hput : u = Settling.put
        { Settling.none s o.handle with
          leaves := u.leaves
          counters := keptCounters (s.vol o.handle).counters (s.face o.handle o.side) o.panel (s.slot i).stats }
        (slotsKept s i o) o.handle := by
      have hset := Settling.put_setFace
        { Settling.none s o.handle with
          leaves := leaves
          counters := keptCounters (s.vol o.handle).counters (s.face o.handle o.side) o.panel (s.slot i).stats }
        (slotsKept s i o) o.handle o.handle o.side { F with rescan := false }
      rw [← hkeep] at hset
      exact hset
    have hcan : (keepBlanked s i o).Canonical := by
      rw [hkeep]
      refine ⟨canon.memory, (hleaves (keepBlanked s i o) ?_).2.2, canon.gain⟩
      rw [hkeep]
      rfl
    have halone : FaceAlone s (keepBlanked s i o) o.handle o.side := (hleaves _ (by rw [hkeep]; rfl)).2.1
    rw [hswept]
    refine ⟨u.leaves, _, _, (congrArg (State.leaveRescan · o.handle o.side) hput).trans
      (Settling.put_leaveRescan _ (b := slotsKept s i o) ⟨hc.zero, hc.one, hc.rescan⟩ _ _), fun t e => ⟨?_,
      faceAlone_of_leaves (FaceAlone.trans halone (faceAlone_setFace hcan _ _ _)) e⟩, ?_⟩
    · rw [face_of_leaves e, face_setFace_same hcan, ← hrescan, hsweep.1, hsweep.2]
      rfl
    · split
      · exact ⟨rfl, rfl⟩
      · next hno => exact absurd hsweep hno
  · have hswept : sweptRescan (keepBlanked s i o) o = keepBlanked s i o := by
      rw [sweptRescan, hface]
      by_cases hall : F.allSettled = true
      · rw [if_pos hall, State.clearRescan, hface]
        exact if_neg fun h => hsweep ⟨h, hall⟩
      · exact if_neg hall
    rw [hswept]
    refine ⟨leaves, s.rescan, (s.vol o.handle).counters.rescanOverflow, hkeep, fun t e => ⟨?_, (hleaves t e).2.1⟩, ?_⟩
    · have hflag : ((s.face o.handle o.side).rescan && !F.allSettled) = F.rescan := by
        rw [hrescan] at hsweep
        rw [hrescan]
        cases hr : (s.face o.handle o.side).rescan with
        | false => rfl
        | true =>
          cases hall : F.allSettled with
          | false => rfl
          | true => exact absurd ⟨hr, hall⟩ hsweep
      rw [(hleaves t e).1, hflag]
    · split
      · next hyes => exact absurd hyes hsweep
      · exact ⟨rfl, rfl⟩

end Keep

end Sys2Proof.Proofs
end

section
/-! SUPPORT. What a keep comes to (R36, R37, R5, R81, R98, R170). -/
namespace Sys2Proof.Proofs
open Sys2Proof.Machine Sys2Proof.Laws

/-! ### The slots and the queue of a keep -/

theorem slot_slotsKept (s : State) (i : SlotNo) (o : Owner) (j : SlotNo) : (slotsKept s i o).slot j =
    if j = i then keptSlot s i o else if (s.slot j).overtakenBy o then Slot.cleared else s.slot j := by
  have hset : (s.setSlot i (keptSlot s i o)).slots[j] = if j = i then keptSlot s i o else s.slot j :=
    slot_setSlot_eq s i j _
  refine (getElem_clearedSlots _ _ j).trans ?_
  rw [contains_overtakenSlots, hset]
  by_cases hj : j = i
  · rw [if_pos hj, if_pos hj, hj, beq_self_eq_true]
    exact if_neg Bool.false_ne_true
  · rw [if_neg hj, if_neg hj, beq_false_of_ne hj]
    rfl

theorem queue_slotsKept (s : State) (i : SlotNo) (o : Owner) : (slotsKept s i o).delivery.queue =
    s.delivery.queue.filter fun j => j == i || !(s.slot j).overtakenBy o :=
  List.filter_congr fun j _ => by rw [contains_overtakenSlots, Bool.not_and, Bool.not_not]

/-! ### The slot queued or sent (R37, R170) -/

/-- A kept slot queued, or its delivery started, when auto-delivery is on. -/
def autoQueued (s : State) (i : SlotNo) : State := if s.delivery.settings.auto then s.enqueue i else s

theorem autoQueued_eq {s : State} (hc : s.TableClean) {i : SlotNo} {o : Owner} (ho : (s.slot i).owner = some o)
    (hl : s.cleanLeaf o.handle o.leaf) (hq : s.delivery.current = none → s.delivery.queue = []) :
    autoQueued s i = { s with slots := (autoQueued s i).slots, delivery := (autoQueued s i).delivery } ∧
    (autoQueued s i).slot i =
      (if s.delivery.settings.auto = false then s.slot i
       else if s.delivery.current.isSome then { s.slot i with queued := true }
       else { s.slot i with state := .delivering, queued := false }) ∧
    (∀ j, j ≠ i → (autoQueued s i).slot j = s.slot j) ∧
    (autoQueued s i).delivery =
      (if s.delivery.settings.auto = false then s.delivery
       else if s.delivery.current.isSome then { s.delivery with queue := s.delivery.queue ++ [i] }
       else { s.delivery with
         current := some ((s.slot i).deliveryStart i o (s.vol o.handle).serial s.delivery.settings.format
           (decide ((s.slot i).generation < ((s.face o.handle o.side).panel o.panel).generation))) }) := by
  cases ha : s.delivery.settings.auto with
  | false =>
    have hauto : autoQueued s i = s := if_neg (by rw [ha]; exact Bool.false_ne_true)
    rw [hauto]
    exact ⟨rfl, rfl, fun _ _ => rfl, rfl⟩
  | true =>
    have hauto : autoQueued s i = s.enqueue i := if_pos ha
    rw [hauto, if_neg Bool.true_eq_false.mp, if_neg Bool.true_eq_false.mp]
    cases hb : s.delivery.current with
    | some d =>
      rw [enqueue_of_busy (by rw [hb]; rfl)]
      exact ⟨rfl, (slot_setSlot_eq s i i _).trans (if_pos rfl), fun j hj => (slot_setSlot_eq s i j _).trans (if_neg hj),
        rfl⟩
    | none =>
      rw [enqueue_of_free hb (hq hb) ho hl hc]
      exact ⟨rfl, (slot_setSlot_eq s i i _).trans (if_pos rfl), fun j hj => (slot_setSlot_eq s i j _).trans (if_neg hj),
        rfl⟩

/-! ### The keep -/

theorem panel?_keptFace (f : FaceRecord) (p : Nat) (st : CaptureStats) (b : Bool) (q : Nat) :
    FaceRecord.panel? { keptFace f p st with rescan := b } q =
      if q = p then some (keptPanel st (f.panel p)) else f.panel? q :=
  panel?_modPanel (f := f) (q := p) (g := keptPanel st) (panel_number _ _) q

theorem panel_keptFace (f : FaceRecord) (p : Nat) (st : CaptureStats) (b : Bool) :
    FaceRecord.panel { keptFace f p st with rescan := b } p =
      { number := p, generation := (f.panel p).generation + 1, settled := .kept st, pending := none } := by
  rw [FaceRecord.panel, panel?_keptFace, if_pos rfl]
  show keptPanel st (f.panel p) = _
  rw [keptPanel, panel_number]

/-- The lighting after the auto-exposure update of a keep (R98). -/
def exposureKept (l : Lighting) (x : Slot) : Lighting :=
  match x.head with
  | none => l
  | some p => l.autoExpose p x.baseDuration x.stats.meanGray x.stats.blank

theorem adjustExposure_eq (s : State) (x : Slot) : s.adjustExposure x = { s with light := exposureKept s.light x } := by
  rw [State.adjustExposure, exposureKept]
  cases x.head <;> rfl

/-- A keep whose owner's record reads clean makes what R36 and R37 say, and changes nothing else. -/
theorem keepSlot_made {s : State} (canon : s.Canonical) (hc : s.TableClean) {i : SlotNo} {o : Owner}
    (ho : (s.slot i).owner = some o) (hl : s.cleanLeaf o.handle o.leaf) (hn : o.leaf ≤ 2047)
    (hq : s.delivery.current = none → s.delivery.queue = []) :
    KeepMade s (s.keepSlot i o) i (s.slot i) o ∧
    s.keepSlot i o = { s with
      vols := (s.keepSlot i o).vols, leaves := (s.keepSlot i o).leaves, rescan := (s.keepSlot i o).rescan
      slots := (s.keepSlot i o).slots, light := (s.keepSlot i o).light
      delivery := (s.keepSlot i o).delivery } := by
  obtain ⟨leaves, rescan, overflow, hswept, hleaves, hlist⟩ := sweptRescan_eq canon hc ho
  let x := s.slot i
  let f := s.face o.handle o.side
  let a := (sweptRescan (keepBlanked s i o) o).adjustExposure x
  have ha : a = { Settling.put
      { Settling.none s o.handle with
        leaves := leaves, rescan := rescan
        counters := { keptCounters (s.vol o.handle).counters f o.panel x.stats with rescanOverflow := overflow } }
      (slotsKept s i o) o.handle with
      light := exposureKept s.light x } := by
    refine (adjustExposure_eq _ x).trans ?_
    rw [hswept]
    rfl
  have hslot (j : SlotNo) : a.slot j =
      if j = i then keptSlot s i o else if (s.slot j).overtakenBy o then Slot.cleared else s.slot j := by
    rw [ha]
    exact slot_slotsKept s i o j
  have hself : a.slot i = keptSlot s i o := (hslot i).trans (if_pos rfl)
  have hleaf : a.leaves = leaves := by rw [ha]; rfl
  obtain ⟨hface, halone⟩ := hleaves a hleaf
  have hrecord : a.cleanLeaf o.handle o.leaf := by
    have hr : a.leaf o.handle o.leaf = _ := halone.record
    rw [State.cleanLeaf, hr]
    cases o.side.face <;> exact hl
  have hclean : a.TableClean := by
    rw [ha]
    have hput := Settling.tableClean_put
      { Settling.none s o.handle with
        leaves := leaves, rescan := rescan
        counters := { keptCounters (s.vol o.handle).counters f o.panel x.stats with rescanOverflow := overflow } }
      (b := slotsKept s i o) ⟨hc.zero, hc.one, hc.rescan⟩ o.handle
    exact ⟨hput.zero, hput.one, hput.rescan⟩
  have hqueue : a.delivery = { s.delivery with
      queue := s.delivery.queue.filter fun j => j == i || !(s.slot j).overtakenBy o } := by
    rw [← queue_slotsKept, ha]
    rfl
  have hempty : a.delivery.current = none → a.delivery.queue = [] := by
    rw [hqueue]
    intro hb
    show s.delivery.queue.filter _ = []
    rw [hq hb]
    rfl
  have hvol : a.vol o.handle = { s.vol o.handle with counters :=
      { keptCounters (s.vol o.handle).counters f o.panel x.stats with rescanOverflow := overflow } } := by
    rw [ha]
    exact Settling.vol_put _ _ _
  have hkeep : s.keepSlot i o = autoQueued a i := keepSlot_steps s i o
  obtain ⟨hframe, hown, hothers, hdelivery⟩ := autoQueued_eq hclean (i := i) (o := o) (by rw [hself]; exact ho) hrecord
    hempty
  rw [← hkeep] at hframe hown hothers hdelivery
  have hleaves' : (s.keepSlot i o).leaves = a.leaves := (congrArg State.leaves hframe :)
  have hvols : (s.keepSlot i o).vols = a.vols := (congrArg State.vols hframe :)
  have hrescan : (s.keepSlot i o).rescan = rescan := (congrArg State.rescan hframe :).trans (by rw [ha]; rfl)
  have hfinal : (s.keepSlot i o).face o.handle o.side =
      { keptFace f o.panel x.stats with rescan := f.rescan && !(keptFace f o.panel x.stats).allSettled } :=
    (face_of_leaves hleaves' _ _).trans hface
  have hover : ((s.keepSlot i o).vol o.handle).counters.rescanOverflow = overflow := by
    rw [State.vol, hvols]
    exact congrArg (fun v : Volume => v.counters.rescanOverflow) hvol
  have hfa : FaceAlone s (s.keepSlot i o) o.handle o.side := faceAlone_of_leaves halone hleaves'
  have hauto : a.delivery.settings.auto = s.delivery.settings.auto := by rw [hqueue]
  have hbusy : a.delivery.current = s.delivery.current := by rw [hqueue]
  refine ⟨{ slot := ?slot, overtaken := ?overtaken, panel := ?panel, panels := ?panels, face := ?face, clean := ?clean
            alone := hfa, leaves := ?leaves, volume := ?volume, left := ?left, stays := ?stays, light := ?light, delivery := ?delivery }, ?_⟩
  case slot =>
    rw [hown, hself, hauto, hbusy]
    rfl
  case overtaken =>
    intro j hj
    rw [hothers j hj, hslot j, if_neg hj]
  case panel =>
    rw [hfinal]
    exact panel_keptFace f o.panel x.stats _
  case panels =>
    intro p hne
    rw [hfinal, panel?_keptFace, if_neg hne]
  case face =>
    rw [hfinal]
    rfl
  case clean =>
    have hsame : (s.keepSlot i o).leaf o.handle o.leaf = a.leaf o.handle o.leaf := by simp only [State.leaf, hleaves']
    rw [State.cleanLeaf, hsame]
    exact hrecord
  case leaves => exact fun h n hne hle => hfa.others hn h n hne hle
  case volume =>
    rw [hover, hvols, ha]
    rfl
  case left =>
    intro hset hclear
    rw [hfinal] at hclear
    have hall : (keptFace f o.panel x.stats).allSettled = true := by
      have hb : (f.rescan && !(keptFace f o.panel x.stats).allSettled) = false := hclear
      rw [show f.rescan = true from hset, Bool.true_and] at hb
      simpa using hb
    rw [if_pos ⟨hset, hall⟩] at hlist
    exact ⟨hrescan.trans hlist.1, hover.trans hlist.2⟩
  case stays =>
    intro hstay
    rw [hfinal] at hstay
    rw [if_neg fun h => ?_] at hlist
    · exact ⟨hrescan.trans hlist.1, hover.trans hlist.2⟩
    · have hb : (f.rescan && !(keptFace f o.panel x.stats).allSettled) = true := hstay h.1
      rw [h.2, Bool.not_true, Bool.and_false] at hb
      cases hb
  case light =>
    have hlight : a.light = exposureKept s.light x := by
      rw [ha]
    exact (congrArg State.light hframe :).trans hlight
  case delivery =>
    have hgen : ((a.face o.handle o.side).panel o.panel).generation = (f.panel o.panel).generation + 1 := by
      rw [hface, panel_keptFace]
    have hserial : (a.vol o.handle).serial = (s.vol o.handle).serial := by rw [hvol]
    rw [hdelivery, hself, hgen, hserial, hauto, hbusy, hqueue]
    have hsup : decide ((keptSlot s i o).generation < (f.panel o.panel).generation + 1) = false :=
      decide_eq_false (Nat.lt_irrefl _)
    rw [hsup]
    split
    · rfl
    · split
      · rfl
      · next hidle =>
        have hnone : s.delivery.current = none := by simpa using hidle
        rw [hq hnone]
        rfl
  · rw [hframe, ha]
    rfl

end Sys2Proof.Proofs
end

section
/-! SUPPORT. The run record is no part of what a decision on a held capture does (R159, R160): a keep and a discard come
to the same whichever run record stands beside them. -/
namespace Sys2Proof.Proofs
open Sys2Proof.Machine Sys2Proof.Laws

/-- A state with another run record. -/
def withRun (r : RunRecord) (s : State) : State := { s with run := r }

section WithRun
variable (r : RunRecord)

/-! ### The account -/

theorem readVolume_withRun (s : State) (h : Handle) : (withRun r s).readVolume h = withRun r (s.readVolume h) := by
  unfold State.readVolume
  rw [apply_ite (withRun r)]
  rfl

theorem modVol_withRun (s : State) (h : Handle) (f : Volume → Volume) :
    (withRun r s).modVol h f = withRun r (s.modVol h f) := by
  rw [State.modVol, readVolume_withRun]
  rfl

theorem count_withRun (s : State) (h : Handle) (f : VolumeCounters → VolumeCounters) :
    (withRun r s).count h f = withRun r (s.count h f) := modVol_withRun r s h _

theorem readRescan_withRun (s : State) : (withRun r s).readRescan = withRun r s.readRescan := by
  unfold State.readRescan
  rw [apply_ite (withRun r)]
  rfl

theorem leaveRescan_withRun (s : State) (h : Handle) (d : Side) :
    (withRun r s).leaveRescan h d = withRun r (s.leaveRescan h d) := by
  unfold State.leaveRescan
  dsimp only
  rw [readVolume_withRun, readRescan_withRun, count_withRun, apply_ite (withRun r), apply_ite (withRun r)]
  rfl

theorem readLeaf_withRun (s : State) (h : Handle) (n : Nat) (ws : List LeafWord) :
    (withRun r s).readLeaf h n ws = ((s.readLeaf h n ws).1, withRun r (s.readLeaf h n ws).2) := by
  have hdamage : (withRun r s).damageLeaf h n = withRun r (s.damageLeaf h n) :=
    congrArg (State.report · _) (count_withRun r (s.setLeaf h n { s.leaf h n with valid := false }) h _)
  unfold State.readLeaf
  rw [hdamage]
  rw [show (withRun r s).leaf h n = s.leaf h n from rfl]
  dsimp only
  repeat' split
  all_goals rfl

theorem skipUpdate_withRun (s : State) (h : Handle) (n : Nat) :
    (withRun r s).skipUpdate h n = withRun r (s.skipUpdate h n) := by
  unfold State.skipUpdate
  rw [apply_ite (withRun r)]
  rfl

theorem removePending_withRun (s : State) (o : Owner) : (withRun r s).removePending o = withRun r (s.removePending o) := by
  unfold State.removePending State.updateFace
  rw [readLeaf_withRun]
  rcases s.readLeaf o.handle o.side.leaf _ with ⟨- | -, t⟩
  · exact skipUpdate_withRun r t o.handle o.side.leaf
  · rfl

/-! ### Slots -/

theorem drainIfLast_withRun (s : State) (h : Handle) : (withRun r s).drainIfLast h = withRun r (s.drainIfLast h) := by
  unfold State.drainIfLast
  dsimp only
  rw [readVolume_withRun, modVol_withRun, apply_ite (withRun r)]
  rfl

theorem freeSlot_withRun (s : State) (i : SlotNo) : (withRun r s).freeSlot i = withRun r (s.freeSlot i) := by
  unfold State.freeSlot
  rw [show (withRun r s).slot i = s.slot i from rfl]
  cases (s.slot i).owner with
  | none => rfl
  | some o => exact drainIfLast_withRun r (s.clearSlot i) o.handle

theorem foldl_freeSlot_withRun (l : List SlotNo) (s : State) :
    l.foldl State.freeSlot (withRun r s) = withRun r (l.foldl State.freeSlot s) := by
  induction l generalizing s with
  | nil => rfl
  | cons i l ih => rw [List.foldl_cons, freeSlot_withRun, ih, List.foldl_cons]

theorem discardSlot_withRun (s : State) (i : SlotNo) : (withRun r s).discardSlot i = withRun r (s.discardSlot i) := by
  unfold State.discardSlot
  rw [show (withRun r s).slot i = s.slot i from rfl]
  cases (s.slot i).owner with
  | none => exact freeSlot_withRun r s i
  | some o =>
    dsimp only
    rw [count_withRun, removePending_withRun]
    exact freeSlot_withRun r _ i

/-! ### The keep (R36, R37) -/

theorem startDelivery_withRun (s : State) : (withRun r s).startDelivery = withRun r s.startDelivery := by
  have hcur : (withRun r s).delivery.current = s.delivery.current := rfl
  have hqueue : (withRun r s).delivery.queue = s.delivery.queue := rfl
  have hslot (i : SlotNo) : (withRun r s).slot i = s.slot i := rfl
  unfold State.startDelivery
  rw [hcur, hqueue]
  cases s.delivery.current with
  | some d => rfl
  | none =>
    cases s.delivery.queue with
    | nil => rfl
    | cons i rest =>
      dsimp only
      rw [hslot]
      cases (s.slot i).owner with
      | none => rfl
      | some o =>
        dsimp only
        rw [readVolume_withRun, readLeaf_withRun]
        rfl

theorem enqueue_withRun (s : State) (i : SlotNo) : (withRun r s).enqueue i = withRun r (s.enqueue i) :=
  startDelivery_withRun r { s.setSlot i { s.slot i with queued := true } with
    delivery := { s.delivery with queue := s.delivery.queue ++ [i] } }

theorem setBlank_withRun (s : State) (h : Handle) (d : Side) (b : Bool) :
    (withRun r s).setBlank h d b = withRun r (s.setBlank h d b) := by
  unfold State.setBlank
  rw [apply_ite (withRun r), ← count_withRun]
  rfl

theorem clearRescan_withRun (s : State) (h : Handle) (d : Side) :
    (withRun r s).clearRescan h d = withRun r (s.clearRescan h d) := by
  unfold State.clearRescan
  rw [apply_ite (withRun r), ← leaveRescan_withRun]
  rfl

theorem keepMarked_withRun (s : State) (i : SlotNo) (o : Owner) :
    keepMarked (withRun r s) i o = withRun r (keepMarked s i o) := by
  unfold keepMarked
  dsimp only
  rw [apply_ite (withRun r), ← count_withRun]
  rfl

theorem keepBlanked_withRun (s : State) (i : SlotNo) (o : Owner) :
    keepBlanked (withRun r s) i o = withRun r (keepBlanked s i o) := by
  have hcleared : keepCleared (withRun r s) i o = withRun r (keepCleared s i o) := by
    rw [keepCleared, keepMarked_withRun]
    exact foldl_freeSlot_withRun r _ (keepMarked s i o)
  have hpanelled : keepPanelled (withRun r s) i o = withRun r (keepPanelled s i o) := by
    rw [keepPanelled, hcleared]
    let u := keepCleared s i o
    exact count_withRun r (u.setFace o.handle o.side
      ((u.face o.handle o.side).modPanel o.panel (keptPanel (s.slot i).stats))) o.handle _
  rw [keepBlanked, hpanelled]
  exact setBlank_withRun r (keepPanelled s i o) o.handle o.side _

theorem sweptRescan_withRun (s : State) (o : Owner) : sweptRescan (withRun r s) o = withRun r (sweptRescan s o) := by
  unfold sweptRescan
  rw [clearRescan_withRun, apply_ite (withRun r)]
  rfl

theorem keepSlot_withRun (s : State) (i : SlotNo) (o : Owner) :
    (withRun r s).keepSlot i o = withRun r (s.keepSlot i o) := by
  let t := (sweptRescan (keepBlanked s i o) o).adjustExposure (s.slot i)
  have hswept : (sweptRescan (keepBlanked (withRun r s) i o) o).adjustExposure ((withRun r s).slot i) = withRun r t := by
    rw [keepBlanked_withRun, sweptRescan_withRun, adjustExposure_eq]
    exact congrArg (withRun r) (adjustExposure_eq _ _).symm
  rw [keepSlot_steps, hswept]
  dsimp only
  rw [enqueue_withRun, keepSlot_steps, apply_ite (withRun r)]
  rfl

end WithRun

end Sys2Proof.Proofs
end

section
/-! SUPPORT. The run that waits for a decision, or for a slot, goes on with its cycle when a command decides a held
capture (R159, R160). -/
namespace Sys2Proof.Proofs
open Sys2Proof.Machine Sys2Proof.Laws

/-! ### The state of a run after its cycle's step (R157, R158) -/

theorem run_trip_ne_deciding (s : State) : s.trip.run.state ≠ .deciding ∨ s.run.state = .deciding := by
  by_cases hs : s.run.state = .deciding
  · exact .inr hs
  · refine .inl ?_
    rw [State.trip, run_halt, haltedRun]
    split
    · exact hs
    · exact nofun

theorem run_endRun_ne_deciding (s : State) (r : EndReason) (d : EndDetail) : (s.endRun r d).run.state ≠ .deciding :=
  nofun

theorem prepare_ne_deciding (s : State) : s.prepare.run.state ≠ .deciding := by
  have htrip (t : State) (ht : t.run.state = .preparing) : t.trip.run.state ≠ .deciding :=
    (run_trip_ne_deciding t).resolve_right (by rw [ht]; exact nofun)
  unfold State.prepare State.lowerRequest
  split
  · unfold State.enterChecked
    dsimp only
    split
    · exact nofun
    · exact htrip _ rfl
  · exact nofun

theorem runAttempt_ne_deciding (s : State) (rs : List (Head × Nat)) : (s.runAttempt rs).run.state ≠ .deciding := by
  unfold State.runAttempt
  split <;> exact nofun

theorem passOn_ne_deciding (s : State) (h : Handle) (k : Nat) : (s.passOn h k).run.state ≠ .deciding := by
  unfold State.passOn
  dsimp only
  split
  · exact run_endRun_ne_deciding s _ _
  · split
    · exact run_endRun_ne_deciding s _ _
    · split
      · exact run_endRun_ne_deciding s _ _
      · exact nofun

theorem captureChosen_ne_deciding {s : State} (hr : s.run.state ≠ .deciding) (rs : List (Head × Nat)) :
    (s.captureChosen rs).run.state ≠ .deciding := by
  unfold State.captureChosen
  split
  · exact run_endRun_ne_deciding s _ _
  · split
    · exact (run_trip_ne_deciding s).resolve_right hr
    · split
      · exact prepare_ne_deciding s
      · exact runAttempt_ne_deciding s rs

theorem run_chooseSide (s : State) (h : Handle) (k : Nat) (p : Head) : (s.chooseSide h k p).2.run = s.run := by
  unfold State.chooseSide
  dsimp only
  split <;>
  · next e => exact run_of_readLeaf e

theorem decided_of_running {s : State} (hr : s.run.state ≠ .deciding) : s.decided = s := if_neg hr

/-- The decision's test, made after a step of the cycle, finds nothing more to do. -/
theorem decided_cycleStep {s : State} (hc : s.TableClean) (hr : s.run.state ≠ .deciding) :
    s.cycleStep.decided = s.cycleStep := by
  cases ha : s.active with
  | none =>
    have hstep : s.cycleStep = s := by rw [State.cycleStep, ha]
    rw [hstep, decided_of_running hr]
  | some h =>
    cases hh : s.heldAt h (s.vol h).opening with
    | true =>
      rw [cycleStep_of_held ha hc hh]
      split
      · exact decided_of_running (run_endRun_ne_deciding s _ _)
      · have hact : State.active { s with run := { s.run with state := .deciding } } = some h := ha
        have hread : State.readVolume { s with run := { s.run with state := .deciding } } h =
            { s with run := { s.run with state := .deciding } } := readVolume_of_clean (vol_clean (s := s) hc h)
        unfold State.decided
        rw [hact, if_pos rfl]
        dsimp only
        rw [hread]
        exact if_pos hh
    | false =>
      refine decided_of_running ?_
      rw [State.cycleStep, ha]
      dsimp only
      rw [readVolume_of_clean (vol_clean hc h), if_neg (by rw [hh]; exact Bool.false_ne_true)]
      generalize hl : s.chooseSide h (s.vol h).opening .left = l
      have hrunl : l.2.run = s.run := hl ▸ run_chooseSide s h _ .left
      generalize hq : l.2.chooseSide h (s.vol h).opening .right = q
      have hrunq : q.2.run = l.2.run := hq ▸ run_chooseSide l.2 h _ .right
      have hrun : q.2.run.state ≠ .deciding := by rw [hrunq, hrunl]; exact hr
      generalize (if l.1 = true then [(Head.left, 1)] else []) ++ (if q.1 = true then [(Head.right, 1)] else []) = rs
      by_cases he : rs = []
      · rw [if_pos he]
        exact passOn_ne_deciding _ _ _
      · rw [if_neg he]
        exact captureChosen_ne_deciding hrun _

/-! ### What a decision leaves alone -/

/-- What a decision leaves of the run's surroundings. -/
structure Decides (s t : State) : Prop where
  skipped : t.skippedNow = s.skippedNow
  active : t.active = s.active
  clean : t.TableClean
  run : t.run = s.run

theorem Decides.trans {s t u : State} (a : Decides s t) (b : Decides t u) : Decides s u :=
  ⟨b.skipped.trans a.skipped, b.active.trans a.active, b.clean, b.run.trans a.run⟩

theorem decides_refl {s : State} (hc : s.TableClean) : Decides s s := ⟨rfl, rfl, hc, rfl⟩

theorem skippedNow_readLeaf (s : State) (h : Handle) (n : Nat) (ws : List LeafWord) :
    (s.readLeaf h n ws).2.skippedNow = s.skippedNow := by
  have hdamage : (s.damageLeaf h n).skippedNow = s.skippedNow := by
    unfold State.damageLeaf State.count State.modVol State.readVolume
    dsimp only
    split <;> rfl
  unfold State.readLeaf
  dsimp only
  split
  · rfl
  · split
    · exact hdamage
    · split <;> rfl

theorem tableClean_readLeaf {s : State} (hc : s.TableClean) (h : Handle) (n : Nat) (ws : List LeafWord) :
    (s.readLeaf h n ws).2.TableClean := by
  unfold State.readLeaf
  dsimp only
  split
  · exact hc
  · split
    · let c := (s.vol h).counters
      have ht := tableClean_setVol hc (h := h)
        (v := { s.vol h with counters := { c with damagedLeaves := c.damagedLeaves + 1 } }) rfl
      dsimp only
      rw [State.damageLeaf, count_of_clean (by exact vol_clean hc h)]
      exact ⟨ht.zero, ht.one, ht.rescan⟩
    · split
      · exact ⟨hc.zero, hc.one, hc.rescan⟩
      · exact hc

theorem decides_readLeaf {s : State} (hc : s.TableClean) (h : Handle) (n : Nat) (ws : List LeafWord) :
    Decides s (s.readLeaf h n ws).2 :=
  ⟨skippedNow_readLeaf s h n ws, active_congr (discarding_readLeaf s h n ws).active, tableClean_readLeaf hc h n ws,
    (discarding_readLeaf s h n ws).run⟩

theorem decides_startDelivery {s : State} (hc : s.TableClean) : Decides s s.startDelivery := by
  unfold State.startDelivery
  split
  · dsimp only
    split
    · exact decides_refl hc
    · next o _ =>
      rw [readVolume_of_clean (vol_clean hc _)]
      have hread := decides_readLeaf hc o.handle o.leaf [.list o.face, .panel o.face o.panel]
      exact ⟨hread.skipped, hread.active, ⟨hread.clean.zero, hread.clean.one, hread.clean.rescan⟩, hread.run⟩
  · exact decides_refl hc

theorem state_put (c : Settling) (b : State) (h h' : Handle) : ((c.put b h).vol h').state = (b.vol h').state := by
  have hv : (c.put b h).vol h' = _ := vol_setVols b h h' { b.vol h with counters := c.counters }
  rw [hv]
  split
  · next e => rw [e]
  · rfl

theorem decides_keepSlot {s : State} (canon : s.Canonical) (hc : s.TableClean) {i : SlotNo} {o : Owner}
    (ho : (s.slot i).owner = some o) : Decides s (s.keepSlot i o) := by
  obtain ⟨leaves, rescan, overflow, hswept, -⟩ := sweptRescan_eq canon hc ho
  let a := (sweptRescan (keepBlanked s i o) o).adjustExposure (s.slot i)
  have hswept' : Decides s (sweptRescan (keepBlanked s i o) o) := by
    rw [hswept]
    exact ⟨rfl, active_congr fun h => Iff.of_eq (congrArg (· = VolumeState.active) (state_put _ (slotsKept s i o) o.handle h)),
      Settling.tableClean_put _ (b := slotsKept s i o) ⟨hc.zero, hc.one, hc.rescan⟩ _, rfl⟩
  have ha : Decides s a := by
    have hadjust : a = { sweptRescan (keepBlanked s i o) o with light := a.light } := by
      rw [show a = _ from adjustExposure_eq _ (s.slot i)]
    rw [hadjust]
    exact ⟨hswept'.skipped, hswept'.active, ⟨hswept'.clean.zero, hswept'.clean.one, hswept'.clean.rescan⟩, hswept'.run⟩
  rw [keepSlot_steps]
  dsimp only
  split
  · refine ha.trans (Decides.trans ?_ (decides_startDelivery ?_))
    · exact ⟨rfl, rfl, ⟨ha.clean.zero, ha.clean.one, ha.clean.rescan⟩, rfl⟩
    · exact ⟨ha.clean.zero, ha.clean.one, ha.clean.rescan⟩
  · exact ha

theorem decides_discardSlot {s : State} (hc : s.TableClean) {i : SlotNo} {o : Owner} (ho : (s.slot i).owner = some o)
    (hl : s.cleanLeaf o.handle o.leaf) : Decides s (s.discardSlot i) := by
  have hgone := discarding_discardSlot s i
  let u := slotTaken s i o false
    (s.setFace o.handle o.side ((s.face o.handle o.side).modPanel o.panel withoutPending)).leaves
  have hu : u.TableClean := tableClean_slotTaken hc i o false _
  have hdrain : u.drainIfLast o.handle = _ := drainIfLast_of_clean o.handle (vol_clean hu _)
  have hdone : s.discardSlot i = u.drainIfLast o.handle := discardSlot_of_clean hc ho hl
  refine ⟨?_, active_congr hgone.active, ?_, hgone.run⟩
  · rw [hdone, hdrain]
    split <;> rfl
  · rw [hdone, hdrain]
    split
    · have ht := tableClean_setVol hu (h := o.handle) (v := { u.vol o.handle with state := .closed }) rfl
      exact ⟨ht.zero, ht.one, ht.rescan⟩
    · exact hu

end Sys2Proof.Proofs
end

section
/-! SUPPORT. ACCEPT and REJECT (R38, R39): what each does to a held capture, and how a run that waits goes on. -/
namespace Sys2Proof.Proofs
open Sys2Proof.Machine Sys2Proof.Laws

section Commands
variable {s : State} (hi : s.initRunning = false) (n : Word)
include hi

theorem exec_accept : exec (.accept n) s = done (handed s .station .accept [n]) :=
  exec_action rfl rfl rfl (completes_of_arity (fun _ => rfl) rfl) hi

theorem exec_reject : exec (.reject n) s = done (handed s .station .reject [n]) :=
  exec_action rfl rfl rfl (completes_of_arity (fun _ => rfl) rfl) hi

end Commands

/-! ### The held slot (R38 test 1, R39) -/

section Held
variable {s : State}

theorem heldSlot_of_ge {n : Nat} (hn : 8 ≤ n) : s.heldSlot n = none := by rw [State.heldSlot, slotOf_of_ge hn]

variable {i : SlotNo}

theorem heldSlot_of_other (hp : (s.slot i).state ≠ .provisional) : s.heldSlot i.val = none := by
  rw [State.heldSlot, slotOf_val]
  exact if_neg hp

variable {o : Owner} (hp : (s.slot i).state = .provisional) (ho : (s.slot i).owner = some o)
include hp ho

theorem heldSlot_of_held : s.heldSlot i.val = some (i, o) := by
  rw [State.heldSlot, slotOf_val]
  refine (if_pos hp).trans ?_
  rw [ho]
  rfl

theorem reject_of_held : reject i.val s = (.accepted (num16 i.val), ((s.discardSlot i).reportFreed s).decided) := by
  rw [reject, heldSlot_of_held hp ho]

theorem accept_of_invalid (hl : (s.leaf o.handle o.leaf).valid = false) :
    accept i.val s = (.refused .recordDamaged, s) := by
  rw [accept, heldSlot_of_held hp ho]
  dsimp only
  rw [readLeaf_of_invalid hl]

theorem accept_of_clean (hl : s.cleanLeaf o.handle o.leaf) : accept i.val s =
    (.accepted (num16 i.val ++ num16 (((s.keepSlot i o).face o.handle o.side).panel o.panel).generation),
     ((s.keepSlot i o).reportFreed s).decided) := by
  rw [accept, heldSlot_of_held hp ho]
  dsimp only
  rw [readLeaf_of_clean hl.1 hl.2]

end Held

theorem accept_of_none {s : State} {n : Nat} (hn : s.heldSlot n = none) : accept n s = (.refused .badParam, s) := by
  rw [accept, hn]

theorem reject_of_none {s : State} {n : Nat} (hn : s.heldSlot n = none) : reject n s = (.refused .badParam, s) := by
  rw [reject, hn]

/-! ### A reject (R39, R180) -/

/-- The slot freed after what the discard wrote. -/
theorem discardSlot_settling {s : State} (hc : s.TableClean) {i : SlotNo} {o : Owner} (ho : (s.slot i).owner = some o)
    (d : Settling)
    (hd : (s.count o.handle fun c => { c with discarded := c.discarded + 1 }).removePending o = d.put s o.handle)
    {closes : Prop} [Decidable closes] (hcl : closes ↔ ClosesWith s i o.handle) : s.discardSlot i =
    { s with
      links := { s.links with station := { s.links.station with
        notices := if closes then addNotice d.notices StationNotice.volumeDrained.place else d.notices } }
      vols := s.vols.set o.handle { s.vol o.handle with
        state := if closes then .closed else (s.vol o.handle).state, counters := d.counters }
      leaves := d.leaves, slots := (s.clearSlot i).slots, delivery := (s.clearSlot i).delivery
      rescan := d.rescan, faults := d.faults, skippedNow := d.skippedNow } := by
  rw [State.discardSlot, ho]
  dsimp only
  rw [hd]
  exact d.freeSlot_put hc ho hcl

/-- One more capture discarded. -/
def oneDiscarded (c : VolumeCounters) : VolumeCounters := { c with discarded := c.discarded + 1 }

theorem count_settling {s : State} (hc : s.TableClean) (h : Handle) (f : VolumeCounters → VolumeCounters) :
    s.count h f = Settling.put { Settling.none s h with counters := f (s.vol h).counters } s h := by
  rw [count_of_clean (vol_clean hc h)]
  rfl

section Rejected
variable {s : State} (hc : s.TableClean) {i : SlotNo} {o : Owner} (ho : (s.slot i).owner = some o)
  {closes : Prop} [Decidable closes] (hcl : closes ↔ ClosesWith s i o.handle)
include hc ho hcl

theorem discardSlot_of_invalid_settling (hk : s.skippedNow = []) (hl : (s.leaf o.handle o.leaf).valid = false) :
    s.discardSlot i =
    { s with
      links := { s.links with station := { s.links.station with
        notices := if closes then addNotice s.links.station.notices StationNotice.volumeDrained.place
          else s.links.station.notices } }
      vols := s.vols.set o.handle { s.vol o.handle with
        state := if closes then .closed else (s.vol o.handle).state
        counters := oneDiscarded (s.vol o.handle).counters }
      slots := (s.clearSlot i).slots, delivery := (s.clearSlot i).delivery
      faults := { s.faults with skipped := min (s.faults.skipped + 1) 65535 }
      skippedNow := [leafKey o.handle o.leaf] } := by
  let c : Settling := { Settling.none s o.handle with counters := oneDiscarded (s.vol o.handle).counters }
  refine discardSlot_settling hc ho
    { c with
      faults := { s.faults with skipped := min (s.faults.skipped + 1) 65535 }
      skippedNow := [leafKey o.handle o.leaf] } ?_ hcl
  have hcount : s.count o.handle (fun c => { c with discarded := c.discarded + 1 }) = c.put s o.handle :=
    count_settling hc _ _
  have hvol : (c.put s o.handle).vol o.handle = { s.vol o.handle with counters := c.counters } := c.vol_put _ _
  have hset (v : Volume) : (c.put s o.handle).vols.set o.handle v = s.vols.set o.handle v := PerHandle_set_set _ _ _ _
  have hskip := skipUpdate_of_first (s := c.put s o.handle) hk o.handle o.handle o.leaf
  rw [hcount, removePending_of_invalid (by exact hl), hskip, Settling.put, Settling.none, hvol, hset]
  rfl

theorem discardSlot_of_clean_settling (hl : s.cleanLeaf o.handle o.leaf) : s.discardSlot i =
    { s with
      links := { s.links with station := { s.links.station with
        notices := if closes then addNotice s.links.station.notices StationNotice.volumeDrained.place
          else s.links.station.notices } }
      vols := s.vols.set o.handle { s.vol o.handle with
        state := if closes then .closed else (s.vol o.handle).state
        counters := oneDiscarded (s.vol o.handle).counters }
      leaves := (s.setFace o.handle o.side ((s.face o.handle o.side).modPanel o.panel withoutPending)).leaves
      slots := (s.clearSlot i).slots, delivery := (s.clearSlot i).delivery } := by
  refine discardSlot_settling hc ho
    { Settling.none s o.handle with
      leaves := (s.setFace o.handle o.side ((s.face o.handle o.side).modPanel o.panel withoutPending)).leaves
      counters := oneDiscarded (s.vol o.handle).counters } ?_ hcl
  have hcount : s.count o.handle (fun c => { c with discarded := c.discarded + 1 }) = _ := count_settling hc _ _
  rw [hcount, removePending_of_clean (by exact hl)]
  rfl

end Rejected

/-! ### A run that waits (R159, R160) -/

/-- What a decision's command does to a run that waits: the effect is that of the same command with the run idle, and the
cycle goes on from it. -/
theorem exec_decision {s : State} (hk : s.skippedNow = []) (hc : s.TableClean) {h : Handle} (ha : s.active = some h)
    {cmd : Instr} {c : Cmd} {n : Word} {K : State → State} {r : Reply}
    (hx : ∀ q, exec cmd (withRun q s) = done (handed (withRun q s) .station c [n]))
    (hrun : ∀ q x, K (withRun q x) = withRun q (K x))
    (hact : ∀ q, c.perform .station [n] (withRun q (s.taking .station 1)) =
      (r, ((K (withRun q (s.taking .station 1))).reportFreed (withRun q (s.taking .station 1))).decided))
    (hd : Decides (s.taking .station 1) (K (s.taking .station 1))) :
    ∃ u : State, exec cmd { s with run := { s.run with state := .idle } } = .next u ∧
      let t : State := { u with run := s.run }
      (s.run.state = .deciding → exec cmd s = .next
        (if t.heldAt h (t.vol h).opening then t else { t.cycleStep with skippedNow := [] })) ∧
      (s.run.state = .slotWait → exec cmd s = .next
        (if s.freeCount < t.freeCount then { t.cycleStep with skippedNow := [] } else t)) := by
  let s₁ := s.taking .station 1
  let k := K s₁
  have hskip : k.skippedNow = [] := hd.skipped.trans hk
  have hkrun : k.run = s.run := hd.run
  have hbare (q : RunRecord) : { answering .station r (withRun q k) with skippedNow := [] } =
      answering .station r (withRun q k) := by
    rw [← hskip]
    rfl
  have hself : withRun s.run k = k := by
    rw [← hkrun]
    rfl
  have hstep (q : RunRecord) : exec cmd (withRun q s) =
      .next { answering .station r (((withRun q k).reportFreed (withRun q s₁)).decided) with skippedNow := [] } := by
    have hdone := exec_of_effect (s := withRun q s) ⟨hc.zero, hc.one, hc.rescan⟩ (hx q) (hact q)
    rw [hrun] at hdone
    exact hdone
  let idle : RunRecord := { s.run with state := .idle }
  have hidle := hstep idle
  rw [reportFreed_of_running (s := withRun idle s₁) (t := withRun idle k) nofun, decided_of_running (s := withRun idle k) nofun, hbare] at hidle
  refine ⟨answering .station r (withRun idle k), hidle, ?_⟩
  have ht : ({ answering .station r (withRun idle k) with run := s.run } : State) = answering .station r k :=
    congrArg (answering .station r) hself
  have hreal := hstep s.run
  rw [hself] at hreal
  have hbare' : { answering .station r k with skippedNow := [] } = answering .station r k := by
    have hb := hbare s.run
    rwa [hself] at hb
  rw [ht]
  have hact' : k.active = some h := hd.active.trans ha
  have hread : k.readVolume h = k := readVolume_of_clean (vol_clean hd.clean h)
  refine ⟨fun hr => ?_, fun hr => ?_⟩
  · have hdeciding : k.decided = if k.heldAt h (k.vol h).opening then k else k.cycleStep := by
      rw [State.decided, if_pos (by rw [hkrun]; exact hr), hact']
      dsimp only
      rw [hread]
    rw [reportFreed_of_running (by rw [hkrun, hr]; exact nofun), hdeciding] at hreal
    refine hreal.trans (congrArg Host.Outcome.next ?_)
    dsimp only
    rw [cycleStep_answering]
    by_cases hh : k.heldAt h (k.vol h).opening = true
    · rw [if_pos hh]
      exact hbare'.trans (if_pos (by exact hh)).symm
    · rw [if_neg hh]
      exact (if_neg (by exact hh)).symm
  · have hwaiting : (k.reportFreed s₁).decided = if s.freeCount < k.freeCount then k.cycleStep else k := by
      have hcond : (k.run.state = .slotWait ∧ s₁.freeCount < k.freeCount) = (s.freeCount < k.freeCount) :=
        propext (and_iff_right (by rw [hkrun]; exact hr))
      have hne : k.run.state ≠ .deciding := by rw [hkrun, hr]; exact nofun
      unfold State.reportFreed
      simp only [hcond]
      split
      · exact decided_cycleStep hd.clean hne
      · exact decided_of_running hne
    have hwaiting' : ((k.reportFreed (withRun s.run s₁)).decided) = _ := hwaiting
    rw [hwaiting'] at hreal
    refine hreal.trans (congrArg Host.Outcome.next ?_)
    dsimp only
    rw [cycleStep_answering]
    by_cases hf : s.freeCount < k.freeCount
    · rw [if_pos hf]
      exact (if_pos (by exact hf)).symm
    · rw [if_neg hf]
      exact hbare'.trans (if_neg (by exact hf)).symm

end Sys2Proof.Proofs
end

section
/-! SUPPORT. Held captures are decided (R38, R39, R36, R37, R81, R159, R160, R180). -/
namespace Sys2Proof.Proofs
open Sys2Proof.Machine Sys2Proof.Laws

/-- A state with the fields a keep speaks of taken from another. -/
def keepView (b s : State) : State :=
  { b with
    vols := s.vols, leaves := s.leaves, rescan := s.rescan, slots := s.slots, light := s.light, delivery := s.delivery }

theorem faceAlone_of_view {b s t : State} {h : Handle} {d : Side} (a : FaceAlone (keepView b s) (keepView b t) h d) :
    FaceAlone s t h d := ⟨a.record, a.others⟩

theorem view_of_faceAlone {b s t : State} {h : Handle} {d : Side} (a : FaceAlone s t h d) :
    FaceAlone (keepView b s) (keepView b t) h d := ⟨a.record, a.others⟩

/-- A keep is told by the fields it speaks of alone. -/
theorem keepMade_of_view {b s t : State} {i : SlotNo} {x : Slot} {o : Owner}
    (k : KeepMade (keepView b s) (keepView b t) i x o) : KeepMade s t i x o :=
  ⟨k.slot, k.overtaken, k.panel, k.panels, k.face, k.clean, faceAlone_of_view k.alone, k.leaves, k.volume,
    fun hs ht => ⟨(k.left hs ht).rescan, (k.left hs ht).overflow⟩, k.stays, k.light, k.delivery⟩

theorem view_of_keepMade {b s t : State} {i : SlotNo} {x : Slot} {o : Owner} (k : KeepMade s t i x o) :
    KeepMade (keepView b s) (keepView b t) i x o :=
  ⟨k.slot, k.overtaken, k.panel, k.panels, k.face, k.clean, view_of_faceAlone k.alone, k.leaves, k.volume,
    fun hs ht => ⟨(k.left hs ht).rescan, (k.left hs ht).overflow⟩, k.stays, k.light, k.delivery⟩

/-- The keep of a capture, between two states that agree with its own on what it speaks of. -/
theorem keepMade_of_same {s s' t t' : State} {i : SlotNo} {x : Slot} {o : Owner} (k : KeepMade s' t' i x o)
    (hs : keepView s s' = s) (ht : keepView t' t = t') : KeepMade s t i x o := by
  refine keepMade_of_view (b := s) ?_
  have hview := view_of_keepMade (b := s) k
  rw [hs] at hview
  rw [← ht] at hview
  exact hview

/-- Settles O36: the tests refuse in turn; past them the keep is `keepSlot_made`, the reject one discard, and a run that
waits goes on from the same effect. -/
theorem heldCapturesAreDecided : Obligations.HeldCapturesAreDecided := by
  intro s n hi canon hc refused
  let s₁ := s.taking .station 1
  have hc₁ : s₁.TableClean := taking_tableClean hc .station 1
  have canon₁ : s₁.Canonical := ⟨canon.memory, canon.leaves, canon.gain⟩
  have acceptAnswer {r : Reason} (h : accept n.toNat s₁ = (.refused r, s₁)) : refused (.accept n) r :=
    exec_of_answer hc (exec_accept hi n) h
  have rejectAnswer {r : Reason} (h : reject n.toNat s₁ = (.refused r, s₁)) : refused (.reject n) r :=
    exec_of_answer hc (exec_reject hi n) h
  have nobody (h : s₁.heldSlot n.toNat = none) : refused (.accept n) .badParam ∧ refused (.reject n) .badParam :=
    ⟨acceptAnswer (accept_of_none h), rejectAnswer (reject_of_none h)⟩
  refine ⟨fun hn => nobody (heldSlot_of_ge hn), fun i hn => ⟨fun hp => nobody ?_, ?_⟩⟩
  · rw [hn]
    exact heldSlot_of_other (s := s₁) hp
  intro o hp ho hle x e c drained done_ freed
  have word : num16 i.val = [n] := by rw [← hn, num16_toNat]
  have hcl : drained ↔ ClosesWith s₁ i o.handle := Iff.rfl
  have rejected : reject n.toNat s₁ = (.accepted [n], ((s₁.discardSlot i).reportFreed s₁).decided) := by
    rw [hn, reject_of_held (s := s₁) hp ho, word]
  have hfreed : freed = if drained then done_.postStation .volumeDrained else done_ := rfl
  refine ⟨fun hl => ⟨acceptAnswer ?_, fun hd hw hk => ?_⟩, fun hl => ⟨fun hd hw => ⟨fun hq => ?_, ?_⟩, ?_⟩⟩
  · rw [hn]
    exact accept_of_invalid (s := s₁) hp ho hl
  · have quiet : ((s₁.discardSlot i).reportFreed s₁).decided = s₁.discardSlot i := by
      have hrun := (discarding_discardSlot s₁ i).run
      rw [reportFreed_of_running (by rw [hrun]; exact hw), decided_of_running (by rw [hrun]; exact hd)]
    rw [quiet] at rejected
    have hdone := exec_of_effect hc (exec_reject hi n) rejected
    rw [discardSlot_of_invalid_settling hc₁ ho hcl hk hl] at hdone
    refine hdone.trans (congrArg Host.Outcome.next ?_)
    rw [hfreed]
    by_cases hdr : drained
    · simp only [if_pos hdr]
      rfl
    · simp only [if_neg hdr]
      rfl
  · obtain ⟨made, frame⟩ := keepSlot_made (s := s₁) canon₁ hc₁ ho hl hle hq
    let k := s₁.keepSlot i o
    have quiet : (k.reportFreed s₁).decided = k := by
      have hrun : k.run = s.run := run_keepSlot s₁ i o
      rw [reportFreed_of_running (by rw [hrun]; exact hw), decided_of_running (by rw [hrun]; exact hd)]
    have hgen : ((k.face o.handle o.side).panel o.panel).generation = e.generation + 1 := by rw [made.panel]; rfl
    have accepted : accept n.toNat s₁ = (.accepted [n, BitVec.ofNat 16 (e.generation + 1)], k) := by
      rw [hn, accept_of_clean (s := s₁) hp ho hl, hgen, quiet, word]
      rfl
    refine ⟨_, exec_of_effect hc (exec_accept hi n) accepted, keepMade_of_same made rfl rfl, ?_⟩
    have hframe : k = _ := frame
    exact congrArg (fun k : State => { k.modLink .station (·.answer
      (.accepted [n, BitVec.ofNat 16 (e.generation + 1)])) with skippedNow := [] }) hframe
  · have hrun := (discarding_discardSlot s₁ i).run
    have quiet : ((s₁.discardSlot i).reportFreed s₁).decided = s₁.discardSlot i := by
      rw [reportFreed_of_running (by rw [hrun]; exact hw), decided_of_running (by rw [hrun]; exact hd)]
    rw [quiet, discardSlot_of_clean_settling hc₁ ho hcl hl] at rejected
    have hdone := exec_of_effect hc (exec_reject hi n) rejected
    let u := s₁.setFace o.handle o.side ((s₁.face o.handle o.side).modPanel o.panel withoutPending)
    have hpart : PartsGone s₁ (slotTaken s₁ i o false u.leaves) (fun j => j == i) (fun _ => false) := by
      have hgone := partsGone_slotTaken (s := s₁) (wasKept := false) ho (panelWritten_setFace canon₁ hle
        (g := withoutPending) fun _ => rfl) (fun _ => rfl) fun h => absurd h Bool.false_ne_true
      simp only [Bool.not_false, Bool.and_true, Bool.and_false] at hgone
      exact hgone
    have hslots : SlotsFreed s₁ (slotTaken s₁ i o false u.leaves) fun j => j == i := by simpa using hpart.slotsFreed
    have alone : FaceAlone s₁ u o.handle o.side := faceAlone_setFace canon₁ _ _ _
    have hsame : SameAccount s s₁ := ⟨rfl, rfl, rfl, rfl⟩
    refine ⟨_, hdone, ?_, ?_, ⟨alone.record, alone.others⟩, ?_, ?_⟩
    · exact slotsFreed_of_same hsame hslots rfl rfl
    · exact partsRemoved_of_same hsame hpart.partsRemoved rfl
    · have hface : u.face o.handle o.side = (s₁.face o.handle o.side).modPanel o.panel withoutPending :=
        face_setFace_same canon₁ _ _ _
      have hpanel : (u.face o.handle o.side).panel o.panel = withoutPending e := by
        rw [hface, panel_modPanel (panel_number _ _), if_pos rfl]
        rfl
      have hnumber : e.number = o.panel := panel_number _ _
      refine Eq.trans (b := withoutPending e) hpanel ?_
      rw [← hnumber]
      rfl
    · rw [hfreed]
      by_cases hdr : drained
      · simp only [if_pos hdr]
        rfl
      · simp only [if_neg hdr]
        rfl
  · intro cmd hcmd h ha hk
    rcases List.mem_cons.1 hcmd with rfl | hcmd
    · refine exec_decision (K := (State.keepSlot · i o)) hk hc ha (fun q => exec_accept (s := withRun q s) hi n)
        (fun q y => keepSlot_withRun q y i o) (r := .accepted [n, BitVec.ofNat 16
          (((s₁.keepSlot i o).face o.handle o.side).panel o.panel).generation]) (fun q => ?_) (decides_keepSlot canon₁ hc₁ ho)
      have accepted := accept_of_clean (s := withRun q s₁) hp ho hl
      rw [word, ← hn, keepSlot_withRun] at accepted
      rw [keepSlot_withRun]
      exact accepted
    · obtain rfl := List.mem_singleton.1 hcmd
      refine exec_decision (K := (State.discardSlot · i)) hk hc ha (fun q => exec_reject (s := withRun q s) hi n)
        (fun q y => discardSlot_withRun q y i) (r := .accepted [n]) (fun q => ?_) (decides_discardSlot hc₁ ho hl)
      have rejected := reject_of_held (s := withRun q s₁) hp ho
      rw [word, ← hn] at rejected
      exact rejected

end Sys2Proof.Proofs
end

section
/-! SUPPORT. The frame end of a NORMAL capture (R112, R115, R150, R34, R180): the head's record, and what each verdict
does. -/
namespace Sys2Proof.Proofs
open Sys2Proof.Machine Sys2Proof.Laws

/-! ### The frame measured (R112, R150) -/

/-- The measurement of a frame that ends. -/
def frameMeasured (s : State) (h : Head) (c : CaptureRecord) (snap : Snapshot) : MeasurementRecord :=
  finishRecord (s.head h).work snap c.clipCount

/-- The head after the frame of a NORMAL capture. -/
def judged (s : State) (h : Head) (c : CaptureRecord) (snap : Snapshot) : HeadUnit :=
  { (s.updateDark h snap).head h with
    phase := .idle, port := .between, frameTimer := none, lineBuffer := []
    capture := some { c with outcome := .ended (some (frameMeasured s h c snap).verdict) }
    work := { (s.head h).work with measuring := false }, lastMeasurement := some (frameMeasured s h c snap) }

/-- The state in which the slot store acts on the verdict. -/
def frameJudged (s : State) (h : Head) (c : CaptureRecord) (snap : Snapshot) (i : SlotNo) : State :=
  { s with
    links := (s.updateDark h snap).links, heads := s.heads.set h (judged s h c snap)
    slots := (s.setSlot i { s.slot i with stats := (frameMeasured s h c snap).stats c.overlong }).slots }

theorem slot_frameJudged (s : State) (h : Head) (c : CaptureRecord) (snap : Snapshot) (i j : SlotNo) :
    (frameJudged s h c snap i).slot j =
      if j = i then { s.slot i with stats := (frameMeasured s h c snap).stats c.overlong } else s.slot j :=
  slot_setSlot_eq s i j _

/-- A head whose frame has been measured. -/
def measuredAs (r : MeasurementRecord) (c : CaptureRecord) (u : HeadUnit) : HeadUnit :=
  { u with
    capture := some { c with outcome := .ended (some r.verdict) }
    work := { u.work with measuring := false }
    lastMeasurement := some r }

theorem judge_of_owner {t : State} {h : Head} {c : CaptureRecord} {snap : Snapshot} {i : SlotNo} {o : Owner}
    {r : MeasurementRecord} (hr : finishRecord (t.head h).work snap c.clipCount = r) (hs : c.slot = some i)
    (ho : (t.slot i).owner = some o) : t.judge h c snap =
    ((t.modHead h (measuredAs r c)).setSlot i { t.slot i with stats := r.stats c.overlong }).actOnVerdict i o r.verdict := by
  have howner : (((t.modHead h (measuredAs r c)).setSlot i { t.slot i with stats := r.stats c.overlong }).slot i).owner =
      some o := by
    rw [slot_setSlot_eq, if_pos rfl]
    exact ho
  subst hr
  unfold State.judge
  dsimp only
  split
  · next hnone => exact absurd (hs.symm.trans hnone) nofun
  · next j hsome =>
    obtain rfl : i = j := Option.some.inj (hs.symm.trans hsome)
    split
    · next hnone => exact absurd (howner.symm.trans hnone) nofun
    · next p hp =>
      obtain rfl : o = p := Option.some.inj (howner.symm.trans hp)
      rfl

theorem completeFrame_of_normal {s : State} {h : Head} {c : CaptureRecord} {snap : Snapshot} {i : SlotNo} {o : Owner}
    (hk : c.kind = .normal) (hs : c.slot = some i) (ho : (s.slot i).owner = some o) : s.completeFrame h c snap =
    (frameJudged s h c snap i).actOnVerdict i o (frameMeasured s h c snap).verdict := by
  have hbranch : s.completeFrame h c snap = ((s.modHead h frameClosed).updateDark h snap).judge h c snap := by
    rw [State.completeFrame, hk]
    rfl
  have hwork : ((s.updateDark h snap).head h).work = (s.head h).work := (updateDark_keeps s h snap).2.2.2
  let u := frameClosed ((s.updateDark h snap).head h)
  let b : State := { s with links := (s.updateDark h snap).links, heads := s.heads.set h u }
  have hu : b.head h = u := PerHead_get_set_same _ _ _
  have hmeasured : finishRecord (b.head h).work snap c.clipCount = frameMeasured s h c snap := by
    rw [hu]
    exact congrArg (finishRecord · snap c.clipCount) hwork
  have hhead : b.modHead h (measuredAs (frameMeasured s h c snap) c) =
      { b with heads := s.heads.set h (judged s h c snap) } := by
    rw [modHead_of_heads (s := s) (u := u) rfl, judged, ← hwork]
    rfl
  rw [hbranch, updateDark_frameClosed, judge_of_owner (t := b) hmeasured hs ho, hhead]
  rfl

/-! ### What each verdict does (R34, R180) -/

section Verdicts
variable {b : State} (i : SlotNo) {o : Owner}

theorem actOnVerdict_of_invalid (hl : (b.leaf o.handle o.leaf).valid = false) (v : Verdict) :
    b.actOnVerdict i o v = (b.skipUpdate o.handle o.leaf).holdSlot i := by
  cases v with
  | keep =>
    unfold State.actOnVerdict
    dsimp only
    rw [readLeaf_of_invalid hl]
  | hold =>
    have hr : b.readLeaf o.handle o.side.leaf [.list o.face, .panel o.face o.panel] = (false, b) :=
      readLeaf_of_invalid hl _
    unfold State.actOnVerdict State.updateFace
    dsimp only
    rw [hr]
    rfl

variable (hl : b.cleanLeaf o.handle o.leaf)
include hl

theorem actOnVerdict_keep : b.actOnVerdict i o .keep = b.keepSlot i o := by
  unfold State.actOnVerdict
  dsimp only
  rw [readLeaf_of_clean hl.1 hl.2]

/-- The pending part of a capture held for the station. -/
def heldPanel (i : SlotNo) (e : PanelEntry) : PanelEntry := { e with pending := some ⟨.provisional, i⟩ }

theorem actOnVerdict_hold : b.actOnVerdict i o .hold =
    (b.setFace o.handle o.side ((b.face o.handle o.side).modPanel o.panel (heldPanel i))).holdSlot i := by
  have hr : b.readLeaf o.handle o.side.leaf [.list o.face, .panel o.face o.panel] = (true, b) :=
    readLeaf_of_clean hl.1 hl.2 _
  unfold State.actOnVerdict State.updateFace
  dsimp only
  rw [hr]
  rfl

end Verdicts

/-! ### The keep of the capture just measured -/

/-- A keep, told from a state in which the slot has yet to take what its entry is kept with. -/
theorem keepMade_of_before {s b t : State} {i : SlotNo} {x : Slot} {o : Owner} (k : KeepMade b t i x o)
    (hb : keepView s b = { s with slots := b.slots }) (hslot : ∀ j, j ≠ i → b.slot j = s.slot j) : KeepMade s t i x o := by
  let a : State := { s with slots := b.slots }
  have hview : keepView a b = a := hb
  have k' : KeepMade a t i x o := keepMade_of_same k hview rfl
  have hqueue : (s.delivery.queue.filter fun j => j == i || !(b.slot j).overtakenBy o) =
      s.delivery.queue.filter fun j => j == i || !(s.slot j).overtakenBy o := by
    refine List.filter_congr fun j _ => ?_
    by_cases hj : j = i
    · rw [hj, beq_self_eq_true, Bool.true_or, Bool.true_or]
    · rw [hslot j hj]
  refine ⟨k'.slot, fun j hj => ?_, k'.panel, k'.panels, k'.face, k'.clean, ⟨k'.alone.record, k'.alone.others⟩, k'.leaves,
    k'.volume, fun hs ht => ⟨(k'.left hs ht).rescan, (k'.left hs ht).overflow⟩, k'.stays, k'.light, ?_⟩
  · have hover := k'.overtaken j hj
    rw [show a.slot j = b.slot j from rfl, hslot j hj] at hover
    exact hover
  · rw [← hqueue]
    exact k'.delivery

end Sys2Proof.Proofs
end

section
/-! SUPPORT. A frame end judges the capture (R112, R115, R116, R150, R34, R36, R37, R180). -/
namespace Sys2Proof.Proofs
open Sys2Proof.Machine Sys2Proof.Laws

/-- A state with what a verdict writes taken from another. -/
def verdictOver (b t : State) : State :=
  { b with
    links := t.links, vols := t.vols, leaves := t.leaves, rescan := t.rescan, slots := t.slots, light := t.light
    delivery := t.delivery, faults := t.faults, skippedNow := t.skippedNow }

/-- Settles O48: the head's record by `completeFrame_of_normal`, and the three ways a verdict goes: an invalid record, a
capture held, a capture kept. -/
theorem frameEndJudgesTheCapture : Obligations.FrameEndJudgesTheCapture := by
  refine ⟨fun s h hp => ?_, ?_⟩
  · have hstray : frameEnd h s = s.modHead h fun u => { u with stray := incSat u.stray } := if_pos hp
    refine (done_congr hstray).trans (congrArg Host.Outcome.next ?_)
    rw [modHead_eq, incSat_eq]
  intro s h c snap i o canon hc other u x face e hp hcap hsnap hk hle hs ho hx hn hactive hr hq hg hready hsw dark r stats
    invalid clean held hskip hrecord
  let b := frameJudged s h c snap i
  let t := b.actOnVerdict i o r.verdict
  have hcb : b.TableClean := ⟨hc.zero, hc.one, hc.rescan⟩
  have canonb : b.Canonical := ⟨canon.memory, canon.leaves, canon.gain⟩
  have hself : b.slot i = { x with stats := stats } := (slot_frameJudged s h c snap i i).trans (if_pos rfl)
  have hrest (j : SlotNo) (hj : j ≠ i) : b.slot j = s.slot j := (slot_frameJudged s h c snap i j).trans (if_neg hj)
  have hob : (b.slot i).owner = some o := by rw [hself]; exact ho
  have hcomplete : s.completeFrame h c snap = t := completeFrame_of_normal hk hs ho
  have hinvalid (hv : invalid) : t = (b.skipUpdate o.handle o.leaf).holdSlot i := actOnVerdict_of_invalid (b := b) i hv _
  have hhold (hl : clean) (hv : r.verdict = .hold) :
      t = (b.setFace o.handle o.side (face.modPanel o.panel (heldPanel i))).holdSlot i := by
    show b.actOnVerdict i o r.verdict = _
    rw [hv]
    exact actOnVerdict_hold (b := b) i hl
  have hkeep (hl : clean) (hv : r.verdict = .keep) : t = b.keepSlot i o := by
    show b.actOnVerdict i o r.verdict = _
    rw [hv]
    exact actOnVerdict_keep (b := b) i hl
  have made (hl : clean) := keepSlot_made canonb hcb hob hl hn hq
  have skipped (hv : invalid) : b.skipUpdate o.handle o.leaf = { b with
      faults := { s.faults with skipped := min (s.faults.skipped + 1) 65535 }
      skippedNow := [leafKey o.handle o.leaf] } := by
    rw [skipUpdate_of_first (s := b) (hskip hv) o.handle o.handle o.leaf, Settling.put, Settling.none, set_vol_self]
    rfl
  have cases : invalid ∨ (clean ∧ r.verdict = .hold) ∨ (clean ∧ r.verdict = .keep) := by
    rcases hrecord with hl | hv
    · cases hv : r.verdict with
      | keep => exact .inr (.inr ⟨hl, rfl⟩)
      | hold => exact .inr (.inl ⟨hl, rfl⟩)
    · exact .inl hv
  have hframe : t = verdictOver b t := by
    rcases cases with hv | ⟨hl, hv⟩ | ⟨hl, hv⟩
    · have ht := hinvalid hv
      rw [skipped hv] at ht
      exact (congrArg (fun y => verdictOver y t) ht :)
    · exact (congrArg (fun y => verdictOver y t) (hhold hl hv) :)
    · have ht := (made hl).2
      rw [← hkeep hl hv] at ht
      exact (congrArg (fun y => verdictOver y t) ht :)
  have hheads : t.heads = s.heads.set h (judged s h c snap) := congrArg State.heads hframe
  have hhead : t.head h = judged s h c snap := (congrArg (PerHead.get · h) hheads).trans (PerHead_get_set_same _ _ _)
  have hother (p : Head) (hne : p ≠ h) : t.head p = s.head p :=
    (congrArg (PerHead.get · p) hheads).trans (PerHead_get_set_ne _ _ (Ne.symm hne))
  have hend : frameEnd h s = if other.phase = .capturing then t else (t.postStation .captureDone).afterExposure := by
    have hidle := frameEnd_of_idle hp hcap hsnap hle hr hg hready hsw hcomplete (congrArg State.run hframe :)
      (congrArg State.cradle hframe :) (by rw [hhead]; rfl) (hother _ (by cases h <;> exact nofun))
    rwa [otherHead_eq] at hidle
  have notInvalid (hl : clean) : ¬invalid := fun hv => Bool.noConfusion (hl.1.symm.trans hv)
  have slotHeld (y : State) (hy : y.slots = b.slots) : (y.holdSlot i).slot i = { x with state := .provisional, stats := stats } ∧
      ∀ j, j ≠ i → (y.holdSlot i).slot j = s.slot j := by
    have same (j : SlotNo) : y.slot j = b.slot j := by rw [State.slot, hy]; rfl
    refine ⟨(slot_setSlot_eq y i i _).trans ((if_pos rfl).trans ?_), fun j hj =>
      (slot_setSlot_eq y i j _).trans ((if_neg hj).trans ((same j).trans (hrest j hj)))⟩
    rw [same, hself]
  refine ⟨t, done_congr hend, hhead, hother, ?links, fun hh => ?held, fun hv => ?invalid, fun hl => ?faults,
    fun hl hv => ?hold, fun hl hv => ?keep, ?frame⟩
  case links =>
    rcases cases with hv | ⟨hl, hv⟩ | ⟨hl, hv⟩
    · simp only [if_pos (show held from .inr hv)]
      rw [hinvalid hv, skipped hv]
      rfl
    · simp only [if_pos (show held from .inl hv)]
      rw [hhold hl hv]
      rfl
    · have hno : ¬held := fun hh => hh.elim (fun h => Verdict.noConfusion (hv.symm.trans h)) (notInvalid hl)
      have hlinks : t.links = b.links := by
        rw [hkeep hl hv]
        exact (congrArg State.links (made hl).2 :)
      simp only [if_neg hno]
      rw [hlinks]
      rfl
  case held =>
    by_cases hv : invalid
    · have hslots := slotHeld (b.skipUpdate o.handle o.leaf) (by rw [skipped hv])
      rw [← hinvalid hv] at hslots
      refine ⟨hslots.1, hslots.2, ?_⟩
      rw [hinvalid hv, skipped hv]
      exact ⟨rfl, rfl, rfl, rfl⟩
    · have hl : clean := hrecord.resolve_right hv
      have hslots := slotHeld (b.setFace o.handle o.side (face.modPanel o.panel (heldPanel i))) rfl
      rw [← hhold hl (hh.resolve_right hv)] at hslots
      refine ⟨hslots.1, hslots.2, ?_⟩
      rw [hhold hl (hh.resolve_right hv)]
      exact ⟨rfl, rfl, rfl, rfl⟩
  case invalid =>
    rw [hinvalid hv, skipped hv]
    exact ⟨rfl, rfl⟩
  case faults =>
    rcases cases with hv | ⟨-, hv⟩ | ⟨-, hv⟩
    · exact absurd hv (notInvalid hl)
    · rw [hhold hl hv]
      rfl
    · rw [hkeep hl hv]
      exact (congrArg State.faults (made hl).2 :)
  case hold =>
    let y := b.setFace o.handle o.side (face.modPanel o.panel (heldPanel i))
    have hleaves : t.leaves = y.leaves := by
      rw [hhold hl hv]
      rfl
    have hface : t.face o.handle o.side = face.modPanel o.panel (heldPanel i) :=
      (face_of_leaves hleaves _ _).trans (face_setFace_same canonb _ _ _)
    have alone : FaceAlone b t o.handle o.side := faceAlone_of_leaves (faceAlone_setFace canonb _ _ _) hleaves
    have hnumber : e.number = o.panel := panel_number _ _
    refine ⟨?_, fun p hne => ?_, ?_, ?_, ⟨alone.record, alone.others⟩⟩
    · rw [hface, panel_modPanel (panel_number _ _), if_pos rfl]
      exact congrArg (fun k => { heldPanel i e with number := k }) hnumber
    · rw [hface, panel?_modPanel (panel_number _ _), if_neg hne]
    · rw [hface]
      rfl
    · have hleaf : t.leaf o.handle o.leaf = _ := alone.record
      rw [State.cleanLeaf, hleaf]
      cases o.side.face <;> exact hl
  case keep =>
    have k := (made hl).1
    rw [← hkeep hl hv, hself] at k
    exact keepMade_of_before k rfl hrest
  case frame =>
    refine hframe.trans ?_
    rw [hheads]
    rfl

end Sys2Proof.Proofs
end

section
/-! SUPPORT. The slots a halt and the discards of held captures free, from any state (R46, R58, R194). -/
namespace Sys2Proof.Proofs
open Sys2Proof.Machine Sys2Proof.Laws

/-! ### Slots freed one after another -/

theorem slotsFreed_refl (s : State) : SlotsFreed s s fun _ => false where
  slots _ := rfl
  delivery := by
    have hq : s.delivery.queue.filter (fun _ => !false) = s.delivery.queue := List.filter_eq_self.2 fun _ _ => rfl
    rw [hq]

theorem slotsFreed_trans {s t u : State} {p q : SlotNo → Bool} (a : SlotsFreed s t p) (b : SlotsFreed t u q) :
    SlotsFreed s u fun i => p i || q i where
  slots i := by
    rw [b.slots, a.slots]
    cases p i <;> cases q i <;> rfl
  delivery := by
    rw [b.delivery, a.delivery, List.filter_filter]
    refine congrArg (fun l => { s.delivery with queue := l }) (List.filter_congr fun i _ => ?_)
    cases p i <;> cases q i <;> rfl

theorem slotsFreed_congr {s s' t t' : State} {p : SlotNo → Bool} (a : SlotsFreed s' t' p) (hs : s'.slots = s.slots)
    (hd : s'.delivery = s.delivery) (hts : t.slots = t'.slots) (htd : t.delivery = t'.delivery) : SlotsFreed s t p where
  slots i := by
    have hi := a.slots i
    rw [State.slot, State.slot, hs] at hi
    rw [State.slot, State.slot, hts]
    exact hi
  delivery := by
    rw [htd, a.delivery, hd]

/-! ### A discard (R35) -/

theorem accountFrame_removePending (s : State) (o : Owner) : accountFrame (s.removePending o) = accountFrame s := by
  unfold State.removePending State.updateFace
  have hread := accountFrame_readLeaf s o.handle o.side.leaf [.list o.face, .panel o.face o.panel]
  generalize s.readLeaf o.handle o.side.leaf [.list o.face, .panel o.face o.panel] = read at hread ⊢
  rcases read with ⟨- | -, t⟩
  · exact (accountFrame_skipUpdate t _ _).trans hread
  · exact hread

theorem accountFrame_discardSlot (s : State) (i : SlotNo) :
    accountFrame (s.discardSlot i) = accountFrame (s.clearSlot i) := by
  unfold State.discardSlot
  split
  · exact accountFrame_freeSlot rfl i
  · exact accountFrame_freeSlot ((accountFrame_removePending _ _).trans (accountFrame_count s _ _)) i

theorem slotsFreed_clearSlot (s : State) (i : SlotNo) : SlotsFreed s (s.clearSlot i) (· == i) :=
  ⟨slot_clearSlot s i, rfl⟩

theorem slotsFreed_discardSlot (s : State) (i : SlotNo) : SlotsFreed s (s.discardSlot i) (· == i) := by
  have hslots : (s.discardSlot i).slots = (s.clearSlot i).slots := (congrArg State.slots (accountFrame_discardSlot s i) :)
  have hdelivery : (s.discardSlot i).delivery = (s.clearSlot i).delivery :=
    (congrArg State.delivery (accountFrame_discardSlot s i) :)
  exact slotsFreed_congr (slotsFreed_clearSlot s i) rfl rfl hslots hdelivery

theorem slotsFreed_foldl (l : List SlotNo) (s : State) : SlotsFreed s (l.foldl State.discardSlot s) (l.contains ·) := by
  induction l generalizing s with
  | nil => exact slotsFreed_refl s
  | cons i l ih =>
    have hall := slotsFreed_trans (slotsFreed_discardSlot s i) (ih (s.discardSlot i))
    have hset : (fun j => j == i || l.contains j) = fun j => (i :: l).contains j := by
      funext j
      rw [List.contains_cons]
    rw [hset] at hall
    exact hall

/-! ### A halt (R58) -/

theorem slots_readActive (s : State) : s.readActive.slots = s.slots ∧ s.readActive.delivery = s.delivery := by
  have hread (h : Handle) := accountFrame_readVolume s h
  unfold State.readActive
  cases s.active with
  | none => exact ⟨rfl, rfl⟩
  | some h => exact ⟨(congrArg State.slots (hread h) :), (congrArg State.delivery (hread h) :)⟩

theorem slots_haltRun (s : State) : s.haltRun.slots = s.slots ∧ s.haltRun.delivery = s.delivery := by
  unfold State.haltRun
  split
  · exact ⟨rfl, rfl⟩
  · exact slots_readActive s

theorem slots_cancelTurn (s : State) (cause : HaltCause) :
    (s.cancelTurn cause).slots = s.slots ∧ (s.cancelTurn cause).delivery = s.delivery := by
  have hturn : (turnHalted s cause).slots = s.slots ∧ (turnHalted s cause).delivery = s.delivery :=
    ⟨(rest_turnHalted s cause).2.1, (rest_turnHalted s cause).2.2.1⟩
  rw [cancelTurn_eq]
  split
  · unfold State.setUncertain
    cases (turnHalted s cause).active with
    | none => exact hturn
    | some h =>
      have hmod := accountFrame_modVol (turnHalted s cause) h fun v => { v with uncertain := true }
      exact ⟨(congrArg State.slots hmod :).trans hturn.1, (congrArg State.delivery hmod :).trans hturn.2⟩
  · exact hturn

theorem slotsFreed_abortCapture (s : State) (h : Head) {cause : AbortCause} (hf : cause.fault = none) :
    SlotsFreed s (s.abortCapture h cause) ((capturedSlots (s.head h)).contains ·) := by
  rw [abortCapture_of_unrecorded hf]
  exact slotsFreed_congr (slotsFreed_foldl _ (s.modHead h (HeadUnit.stopped · cause))) rfl rfl rfl rfl

theorem head_abortCapture_other (s : State) {h p : Head} (hne : p ≠ h) (cause : AbortCause) :
    (s.abortCapture h cause).head p = s.head p := by
  have hheads := (discarding_abortCapture_stopped s h cause).same State.heads fun _ => rfl
  exact (congrArg (PerHead.get · p) hheads).trans (PerHead_get_set_ne _ _ (Ne.symm hne))

/-- The slots of the captures in flight are freed, and no other. -/
theorem slotsFreed_abortAll (s : State) {cause : AbortCause} (hf : cause.fault = none) :
    SlotsFreed s (s.abortAll cause) (captured s) := by
  unfold State.abortAll
  split
  · have hboth := slotsFreed_trans (slotsFreed_abortCapture s .left hf)
      (slotsFreed_abortCapture (s.abortCapture .left cause) .right hf)
    rw [head_abortCapture_other s (by exact nofun)] at hboth
    have hset : (fun i => (capturedSlots (s.head .left)).contains i || (capturedSlots (s.head .right)).contains i) =
        captured s := by
      rw [← contains_captured]
      funext i
      exact (List.contains_append ..).symm
    rw [hset] at hboth
    exact slotsFreed_congr hboth rfl rfl rfl rfl
  · next hflight =>
    obtain ⟨hl, hr⟩ := inFlight_eq_false.1 (eq_false_of_ne_true hflight)
    have hnone : captured s = fun _ => false := by
      have hl : (s.head .left).phase = .idle := hl
      have hr : (s.head .right).phase = .idle := hr
      funext i
      simp [captured, hl, hr]
    rw [hnone]
    exact slotsFreed_refl s

theorem slotsFreed_halt (s : State) (cause : HaltCause) : SlotsFreed s (s.halt cause) (captured s) := by
  let u := (cradleHalted s cause).haltRun
  have hrun : u.slots = s.slots ∧ u.delivery = s.delivery := slots_haltRun (cradleHalted s cause)
  have hheads : u.heads = s.heads := by
    have hsame := (discarding_haltRun (cradleHalted s cause)).same State.heads fun _ => rfl
    refine hsame.trans ?_
    unfold runHalted
    split <;> rfl
  have hcaptured : captured u = captured s := by
    funext i
    simp only [captured, State.head, hheads]
  have habort : SlotsFreed u (haltDiscarded s cause) (captured s) := hcaptured ▸ slotsFreed_abortAll u (fault_abort cause)
  obtain ⟨-, -, hrs, hrd, -⟩ := state_of_reportHalt (haltTold (haltDiscarded s cause) cause) cause
  obtain ⟨hcs, hcd⟩ := slots_cancelTurn (haltDiscarded s cause) cause
  exact slotsFreed_congr habort hrun.1 hrun.2 (hrs.trans hcs) (hrd.trans hcd)

/-! ### The held captures freed (R46, R194) -/

theorem contains_held (s : State) (i : SlotNo) :
    (allSlots.filter fun j => (s.slot j).state = .provisional).contains i = ((s.slot i).state == .provisional) := by
  rw [Bool.eq_iff_iff, List.contains_iff_mem, List.mem_filter, beq_iff_eq, decide_eq_true_eq]
  exact and_iff_right (mem_allSlots i)

theorem slotsFreed_freeHeld (s : State) : SlotsFreed s s.freeHeld fun i => (s.slot i).state == .provisional := by
  have hfold := slotsFreed_foldl (allSlots.filter fun i => (s.slot i).state = .provisional) s
  rw [show ((allSlots.filter fun j => (s.slot j).state = .provisional).contains ·) = _ from
    funext (contains_held s)] at hfold
  exact hfold

theorem discarding_foldl (l : List SlotNo) (s : State) : Discarding s (l.foldl State.discardSlot s) := by
  induction l generalizing s with
  | nil => exact Discarding.refl s
  | cons i l ih => exact (discarding_discardSlot s i).trans (ih _)

theorem discarding_freeHeld (s : State) : Discarding s s.freeHeld := discarding_foldl _ s

end Sys2Proof.Proofs
end

section
/-! SUPPORT. PARTIAL RESET from any state (R194, R62, R46, R176): the halt, the held captures freed, the delivery
cancelled. -/
namespace Sys2Proof.Proofs
open Sys2Proof.Machine Sys2Proof.Laws

/-- A state with what a PARTIAL RESET writes taken from another. -/
def resetOver (s t : State) : State :=
  { s with
    links := t.links, vols := t.vols, leaves := t.leaves, slots := t.slots, cradle := t.cradle, turn := t.turn
    light := { s.light with strobes := t.light.strobes }, heads := t.heads, run := t.run, delivery := t.delivery
    faults := t.faults, skippedNow := t.skippedNow }

/-! ### The halt (R62, R194) -/

section Halt
variable {s : State}

theorem haltForReset_of_halted (hs : s.cradle.state = .halted ∧ s.cradle.parityGood = true) :
    s.haltForReset = { s with cradle := { s.cradle with haltCause := .partialReset } } := if_pos hs

theorem haltForReset_of_entering (hs : ¬(s.cradle.state = .halted ∧ s.cradle.parityGood = true)) :
    s.haltForReset = s.halt .partialReset := if_neg hs

theorem over_haltForReset (s : State) : s.haltForReset = resetOver s s.haltForReset := by
  by_cases hs : s.cradle.state = .halted ∧ s.cradle.parityGood = true
  · rw [haltForReset_of_halted hs]
    rfl
  · rw [haltForReset_of_entering hs]
    exact (congrArg (resetOver · (s.halt .partialReset)) (halt_fields s .partialReset) :)

theorem cradle_haltForReset (s : State) :
    s.haltForReset.cradle.state = .halted ∧ s.haltForReset.cradle.haltCause = .partialReset := by
  by_cases hs : s.cradle.state = .halted ∧ s.cradle.parityGood = true
  · rw [haltForReset_of_halted hs]
    exact ⟨hs.1, rfl⟩
  · rw [haltForReset_of_entering hs, cradle_halt]
    exact ⟨rfl, rfl⟩

theorem run_haltForReset (hs : s.cradle.state ≠ .halted) : s.haltForReset.run.state = .idle := by
  rw [haltForReset_of_entering fun h => hs h.1, run_halt, haltedRun]
  split
  · next hr => exact hr
  · rfl

theorem turner_haltForReset (s : State) : s.haltForReset.links.turner.rx = s.links.turner.rx ∧
    s.haltForReset.links.turner.response = s.links.turner.response := by
  by_cases hs : s.cradle.state = .halted ∧ s.cradle.parityGood = true
  · rw [haltForReset_of_halted hs]
    exact ⟨rfl, rfl⟩
  · rw [haltForReset_of_entering hs, turner_halt]
    exact ⟨rfl, rfl⟩

theorem settings_stopped (u : HeadUnit) (cause : HaltCause) :
    (HeadUnit.stopped u cause.abort).correction = u.correction ∧ (HeadUnit.stopped u cause.abort).measurement = u.measurement ∧
      (HeadUnit.stopped u cause.abort).running = u.running ∧ (HeadUnit.stopped u cause.abort).stray = u.stray ∧
      (HeadUnit.stopped u cause.abort).flags = u.flags := by
  unfold HeadUnit.stopped
  split
  · exact ⟨rfl, rfl, rfl, rfl, rfl⟩
  · exact ⟨rfl, rfl, rfl, rfl, flags_mark_abort u.flags cause⟩

theorem settings_haltForReset (s : State) (p : Head) :
    (s.haltForReset.head p).correction = (s.head p).correction ∧
      (s.haltForReset.head p).measurement = (s.head p).measurement ∧
      (s.haltForReset.head p).running = (s.head p).running ∧ (s.haltForReset.head p).stray = (s.head p).stray ∧
      (s.haltForReset.head p).flags = (s.head p).flags := by
  by_cases hs : s.cradle.state = .halted ∧ s.cradle.parityGood = true
  · rw [haltForReset_of_halted hs]
    exact ⟨rfl, rfl, rfl, rfl, rfl⟩
  · rw [haltForReset_of_entering hs, heads_halt]
    exact settings_stopped (s.head p) .partialReset

theorem captured_of_free (hf : s.inFlight = false) : captured s = fun _ => false := by
  obtain ⟨hl, hr⟩ := inFlight_eq_false.1 hf
  have hl : (s.head .left).phase = .idle := hl
  have hr : (s.head .right).phase = .idle := hr
  funext i
  simp [captured, hl, hr]

variable (il : s.Interlocked)
include il

theorem inFlight_of_halted (hs : s.cradle.state = .halted) : s.inFlight = false := by
  refine eq_false_of_ne_true fun hf => ?_
  have hready := il.captures hf
  rw [hs] at hready
  cases hready

theorem still_haltForReset : s.haltForReset.light.dark ∧ s.haltForReset.inFlight = false ∧
    s.haltForReset.turn.phase ≠ .granted ∧ s.haltForReset.turn.phase ≠ .pending := by
  by_cases hs : s.cradle.state = .halted ∧ s.cradle.parityGood = true
  · rw [haltForReset_of_halted hs]
    refine ⟨il.strobes (by rw [hs.1]; exact nofun), inFlight_of_halted (s := s) il hs.1, fun hg => ?_, fun hp => ?_⟩
    · have hstate := il.granted.1 hg
      rw [hs.1] at hstate
      cases hstate
    · have hstate := il.grantPending (il.pending.1 hp)
      rw [hs.1] at hstate
      cases hstate
  · rw [haltForReset_of_entering hs]
    obtain ⟨-, -, hdark, hflight, hg, hp⟩ := halt_spec s .partialReset
    exact ⟨hdark, hflight, hg, hp⟩

theorem slotsFreed_haltForReset : SlotsFreed s s.haltForReset (captured s) := by
  by_cases hs : s.cradle.state = .halted ∧ s.cradle.parityGood = true
  · rw [haltForReset_of_halted hs, captured_of_free (inFlight_of_halted il hs.1)]
    exact slotsFreed_congr (slotsFreed_refl s) rfl rfl rfl rfl
  · rw [haltForReset_of_entering hs]
    exact slotsFreed_halt s .partialReset

/-! ### The held captures freed (R46, R194) -/

/-- Whether a PARTIAL RESET frees a slot: it holds a capture in flight, or one undecided. -/
def resetGone (s : State) (i : SlotNo) : Bool := captured s i || (s.slot i).state == .provisional

theorem held_haltForReset (i : SlotNo) : (captured s i || (s.haltForReset.slot i).state == .provisional) = resetGone s i := by
  rw [(slotsFreed_haltForReset il).slots, resetGone]
  cases captured s i <;> rfl

theorem slotsFreed_resetFreed : SlotsFreed s s.haltForReset.freeHeld (resetGone s) := by
  have hboth := slotsFreed_trans (slotsFreed_haltForReset il) (slotsFreed_freeHeld s.haltForReset)
  rw [show (fun i => captured s i || (s.haltForReset.slot i).state == .provisional) = resetGone s from
    funext (held_haltForReset il)] at hboth
  exact hboth

end Halt

/-! ### The delivery cancelled (R176, R194) -/

/-- Whether a delivery is cancelled by a PARTIAL RESET: it is in its pixels, or in a header not cancelled already. -/
def cancels (d : Delivery) : Bool := d.phase == .pixels || (d.phase == .header && !d.cancelled)

section Cancel
variable {s : State}

theorem cancelCurrent_of_none (hb : s.delivery.current = none) : s.cancelCurrent = s := by
  rw [State.cancelCurrent, cancellable_of_idle hb]

variable {d : Delivery} (hb : s.delivery.current = some d)
include hb

theorem cancelCurrent_of_sending (hc : cancels d = true) : s.cancelCurrent = s.cancelDelivery d := by
  have hp : d.phase = .pixels ∨ (d.phase = .header ∧ d.cancelled = false) := by
    simpa [cancels] using hc
  rw [State.cancelCurrent, cancellable_of_sending hb hp]

theorem cancelCurrent_of_over (hc : cancels d = false) : s.cancelCurrent = s := by
  have hp : d.phase = .trailer ∨ (d.phase = .header ∧ d.cancelled = true) := by
    revert hc
    unfold cancels
    cases d.phase <;> simp
  rw [State.cancelCurrent, cancellable_of_over hb hp]

end Cancel

/-- A cancel writes the slot table and the delivery unit alone, and of them one slot and what is being sent. -/
theorem cancelCurrent_spec (s : State) :
    s.cancelCurrent = { s with slots := s.cancelCurrent.slots, delivery := s.cancelCurrent.delivery } ∧
    (∀ i, (∀ d, s.delivery.current = some d → d.slot ≠ i) → s.cancelCurrent.slot i = s.slot i) ∧
    s.cancelCurrent.delivery.queue = s.delivery.queue := by
  cases hb : s.delivery.current with
  | none =>
    rw [cancelCurrent_of_none hb]
    exact ⟨rfl, fun _ _ => rfl, rfl⟩
  | some d =>
    cases hc : cancels d with
    | false =>
      rw [cancelCurrent_of_over hb hc]
      exact ⟨rfl, fun _ _ => rfl, rfl⟩
    | true =>
      rw [cancelCurrent_of_sending hb hc, cancelDelivery_eq hb]
      exact ⟨rfl, fun i hi => (slot_setSlot_eq s d.slot i _).trans (if_neg (hi d rfl).symm), rfl⟩

end Sys2Proof.Proofs
end

section
/-! SUPPORT. The three steps of a PARTIAL RESET together (R194). -/
namespace Sys2Proof.Proofs
open Sys2Proof.Machine Sys2Proof.Laws

theorem exec_partialReset {s : State} (hi : s.initRunning = false) :
    exec .partialReset s = done (handed s .station .partialReset []) :=
  exec_action rfl rfl rfl (completes_of_arity (fun _ => rfl) rfl) hi

theorem resetOver_trans {s t u : State} (ht : t = resetOver s t) (hu : u = resetOver t u) : u = resetOver s u :=
  hu.trans (congrArg (resetOver · u) ht :)

/-- A state after the three steps of a PARTIAL RESET. -/
@[irreducible] def resetDone (s : State) : State := s.haltForReset.freeHeld.cancelCurrent

section Fields
variable (s : State)

/-- What the freeing of the held captures and the cancel leave as the halt made it. -/
theorem resetDone_same {α : Type} (f : State → α) (hf : ∀ x, f (discardFrame x) = f x)
    (hc : ∀ (x : State) v d, f { x with slots := v, delivery := d } = f x) : f (resetDone s) = f s.haltForReset := by
  have hcancel := (cancelCurrent_spec s.haltForReset.freeHeld).1
  rw [resetDone, hcancel, hc]
  exact (discarding_freeHeld s.haltForReset).same f hf

theorem delivery_resetFreed : s.haltForReset.freeHeld.delivery.current = s.delivery.current ∧
    s.haltForReset.freeHeld.delivery.settings = s.delivery.settings := by
  have hfreed (u : State) : u.freeHeld.delivery.current = u.delivery.current ∧
      u.freeHeld.delivery.settings = u.delivery.settings :=
    ⟨(discarding_freeHeld u).same (fun x => x.delivery.current) fun _ => rfl,
      (discarding_freeHeld u).same (fun x => x.delivery.settings) fun _ => rfl⟩
  refine ⟨(hfreed _).1.trans ?_, (hfreed _).2.trans ?_⟩ <;>
  · by_cases hs : s.cradle.state = .halted ∧ s.cradle.parityGood = true
    · rw [haltForReset_of_halted hs]
    · rw [haltForReset_of_entering hs, halt_fields]

theorem over_resetDone : resetDone s = resetOver s (resetDone s) := by
  let u := s.haltForReset.freeHeld
  have hu : u = resetOver s u := by
    have hframe := (discarding_freeHeld s.haltForReset).frame
    have hfreed : u = resetOver s.haltForReset u := (congrArg (resetOver · u) hframe :)
    exact resetOver_trans (over_haltForReset s) hfreed
  have hcancel : u.cancelCurrent = resetOver u u.cancelCurrent :=
    (congrArg (resetOver · u.cancelCurrent) (cancelCurrent_spec u).1 :)
  rw [resetDone]
  exact resetOver_trans hu hcancel

variable {s} (il : s.Interlocked)
include il

theorem slot_resetDone {i : SlotNo} (hd : ∀ d, s.delivery.current = some d → d.slot ≠ i) :
    (resetDone s).slot i = if resetGone s i then Slot.cleared else s.slot i := by
  have hcurrent := (delivery_resetFreed s).1
  rw [resetDone, (cancelCurrent_spec _).2.1 i fun d hb => hd d (hcurrent.symm.trans hb)]
  exact (slotsFreed_resetFreed il).slots i

theorem queue_resetDone : (resetDone s).delivery.queue = s.delivery.queue.filter fun i => !resetGone s i := by
  rw [resetDone, (cancelCurrent_spec _).2.2, (slotsFreed_resetFreed il).delivery]

omit il in
theorem resetDone_of_sending {d : Delivery} (hb : s.delivery.current = some d) (hc : cancels d = true) :
    resetDone s = s.haltForReset.freeHeld.cancelDelivery d := by
  rw [resetDone, cancelCurrent_of_sending ((delivery_resetFreed s).1.trans hb) hc]

omit il in
theorem resetDone_of_staying (hc : ∀ d, s.delivery.current = some d → cancels d = false) :
    resetDone s = s.haltForReset.freeHeld := by
  have hcurrent := (delivery_resetFreed s).1
  rw [resetDone]
  cases hb : s.delivery.current with
  | none => exact cancelCurrent_of_none (hcurrent.trans hb)
  | some d => exact cancelCurrent_of_over (hcurrent.trans hb) (hc d hb)

omit il in
theorem sent_resetDone {d : Delivery} (hb : s.delivery.current = some d)
    (hc : cancels d = true) : ((resetDone s).slot d.slot).state = .kept ∧ ((resetDone s).slot d.slot).queued = false ∧
    ∃ r, (resetDone s).delivery.lastTrailer = some r ∧ r.status = .cancelled ∧ r.slot = d.slot := by
  have hcurrent : s.haltForReset.freeHeld.delivery.current = some d := (delivery_resetFreed s).1.trans hb
  have hself (u : State) (x : Slot) : (u.setSlot d.slot x).slot d.slot = x := (slot_setSlot_eq u d.slot d.slot x).trans (if_pos rfl)
  rw [resetDone_of_sending hb hc, cancelDelivery_eq hcurrent]
  refine ⟨congrArg Slot.state (hself _ _), congrArg Slot.queued (hself _ _), _, rfl, rfl, rfl⟩

end Fields

/-- The answer is queued in the end, and the event over. -/
theorem answered_over {s r : State} (h : r = resetOver (s.taking .station 0) r) :
    let t : State := { r.modLink .station (·.answer (.accepted [6])) with skippedNow := [] }
    t = { s with
      links := t.links, vols := t.vols, leaves := t.leaves, slots := t.slots, cradle := t.cradle, turn := t.turn
      light := { s.light with strobes := t.light.strobes }, heads := t.heads, run := t.run, delivery := t.delivery
      faults := t.faults, skippedNow := [] } :=
  (congrArg (fun x : State => { x.modLink .station (·.answer (.accepted [6])) with skippedNow := [] }) h :)

theorem inFlight_of_heads {s t : State} (h : t.heads = s.heads) : t.inFlight = s.inFlight := by
  rw [State.inFlight, State.inFlight, h]

theorem interlocked_taking {s : State} (il : s.Interlocked) (link : MasterLink) (n : Nat) :
    (s.taking link n).Interlocked :=
  ⟨il.travel, il.settle, il.grant, il.strobes, il.captures, il.raisePending, il.pending, il.grantPending, il.granted⟩

end Sys2Proof.Proofs
end

section
/-! SUPPORT. PARTIAL RESET counted exactly, where the records of the captures it discards are sound (R194, R35, R58). -/
namespace Sys2Proof.Proofs
open Sys2Proof.Machine Sys2Proof.Laws

/-- Discards of the same slots' captures seen between two other states. -/
theorem partsGone_transport {s s' t t' : State} {p q : SlotNo → Bool} (a : PartsGone s t p q)
    (hs : s'.leaves = s.leaves ∧ s'.slots = s.slots ∧ s'.delivery.queue = s.delivery.queue)
    (ht : t'.leaves = t.leaves ∧ t'.slots = t.slots ∧ t'.delivery.queue = t.delivery.queue)
    (hframe : partsFrame t' = partsFrame s')
    (hvols : ∀ h, t'.vol h = discounted (s'.vol h) (s.ownedAmong h fun i => p i || q i) (s.ownedAmong h q))
    (hcan : s'.Canonical → t'.Canonical) : PartsGone s' t' p q := by
  obtain ⟨hsl, hss, hsq⟩ := hs
  obtain ⟨htl, hts, htq⟩ := ht
  have leaf {x y : State} (e : x.leaves = y.leaves) (h : Handle) (n : Nat) : x.leaf h n = y.leaf h n := by
    simp only [State.leaf, e]
  have howned (h : Handle) (w : SlotNo → Bool) : s'.ownedAmong h w = s.ownedAmong h w := by
    simp only [State.ownedAmong, State.slot, hss]
  refine ⟨hframe, fun i => ?_, ?_, fun h => ?_, fun h d k hd => ?_, fun h d hd => ?_, fun h n hn => ?_, fun h n hn => ?_,
    fun h n hn ho => ?_, hcan⟩
  · have hi := a.slots i
    simpa only [State.slot, hss, hts] using hi
  · rw [htq, a.queue, hsq]
  · rw [hvols, howned, howned]
  · have hp := a.panel h d k hd
    simp only [face_of_leaves hsl, face_of_leaves htl, State.slot, hss] at hp ⊢
    exact hp
  · rw [face_of_leaves hsl, face_of_leaves htl]
    exact a.face h d hd
  · rw [leaf hsl, leaf htl]
    exact a.record h n hn
  · rw [leaf hsl, leaf htl]
    exact a.marks h n hn
  · rw [leaf hsl, leaf htl]
    refine a.others h n hn fun i o hi hown => ho i o hi ?_
    rw [State.slot, hss]
    exact hown

/-! ### The halt -/

/-- A volume whose opening a PARTIAL RESET may have put in doubt. -/
def doubtedVol (s : State) (h : Handle) : Volume :=
  { s.vol h with uncertain := (s.vol h).uncertain || (decide (s.active = some h) && haltDoubts s .partialReset) }

/-- A halt by a PARTIAL RESET, with no capture discarded. -/
def haltExact (s : State) : State :=
  { s with
    links := ⟨{ s.links.station with
        notices := addNotice
          (if s.inFlight then addNotice (haltedStation s) StationNotice.captureDone.place else haltedStation s)
          StationNotice.cradleHalted.place },
      { s.links.turner with notices := haltedTurner s }⟩
    vols := ⟨doubtedVol s .zero, doubtedVol s .one⟩
    cradle := haltedCradle s .partialReset, turn := { s.turn with phase := haltedPhase .partialReset s.turn.phase }
    light := { s.light with strobes := ⟨none, none, none, none⟩ }
    heads := ⟨HeadUnit.stopped s.heads.left HaltCause.partialReset.abort,
      HeadUnit.stopped s.heads.right HaltCause.partialReset.abort⟩
    run := haltedRun s }

theorem vol_haltExact (s : State) (h : Handle) : (haltExact s).vol h = doubtedVol s h := by cases h <;> rfl

section Exact
variable {s : State} (c : s.Canonical) (hc : s.TableClean) (ho : s.ownersClean (captured s))
  (hn : ∀ i o, captured s i = true → (s.slot i).owner = some o → (s.vol o.handle).state ≠ .draining)
include c hc ho hn

theorem partsGone_halt : PartsGone (haltExact s) (s.halt .partialReset) (captured s) fun _ => false := by
  have hp := partsGone_haltAborted (cause := .partialReset) c hc ho hn
  have hbase := sameAccount_haltBase s .partialReset
  obtain ⟨-, hdl, hds, hdd⟩ := sameAccount_ite_post s.inFlight (haltAborted s .partialReset) .captureDone
  rw [← haltDiscarded_of_clean hc] at hdl hds hdd
  obtain ⟨hcl, hcs, hcd, -⟩ := rest_cancelTurn_of_clean (tableClean_haltDiscarded hc hp) .partialReset
  obtain ⟨hfaults, hnotices, hskipped⟩ := told_haltDiscarded hc hp
  have hreport : s.halt .partialReset = haltTold (haltDiscarded s .partialReset) .partialReset := rfl
  have hnone (h : Handle) : (s.ownedAmong h fun _ => false) = 0 := by simp [State.ownedAmong]
  have hleaves : (s.halt .partialReset).leaves = (haltAborted s .partialReset).leaves := hcl.trans hdl
  have hslots : (s.halt .partialReset).slots = (haltAborted s .partialReset).slots := hcs.trans hds
  have hdelivery : (s.halt .partialReset).delivery = (haltAborted s .partialReset).delivery := hcd.trans hdd
  refine partsGone_transport hp ⟨hbase.2.1.symm, hbase.2.2.1.symm, (congrArg (·.queue) hbase.2.2.2).symm⟩
    ⟨hleaves, hslots, congrArg (·.queue) hdelivery⟩ ?_ (fun h => ?_) fun _ => ?_
  · have hfields := halt_fields s .partialReset
    have hcradle := cradle_halt s .partialReset
    have hturn := turn_halt s .partialReset
    have hrun := run_halt s .partialReset
    have hturner := congrArg Link.notices (turner_halt s .partialReset)
    have hheads : (s.halt .partialReset).heads = (haltExact s).heads := by
      have hl := heads_halt s .partialReset .left
      have hr := heads_halt s .partialReset .right
      exact (congr (congrArg PerHead.mk hl) hr :)
    rw [← hreport] at hfaults hnotices hskipped
    generalize s.halt .partialReset = u at *
    refine (congrArg partsFrame hfields).trans ?_
    rw [hcradle, hturn, hrun, hturner, hheads, hfaults, hnotices, hskipped]
    rfl
  · rw [vol_halt_of_clean hc hp, vol_haltExact, ownedAmong_of_same hbase, ownedAmong_of_same hbase]
    simp only [Bool.or_false, hnone, discounted, BitVec.sub_zero]
    rfl
  · exact (halt_spec s .partialReset).1.canonical c

end Exact

/-! ### The halt and the held captures (R46, R194) -/

/-- A PARTIAL RESET up to its halt, with no capture discarded. -/
def resetBase (s : State) : State :=
  if s.cradle.state = .halted ∧ s.cradle.parityGood = true then
    { s with cradle := { s.cradle with haltCause := .partialReset } }
  else haltExact s

theorem resetBase_of_halted {s : State} (hs : s.cradle.state = .halted ∧ s.cradle.parityGood = true) :
    resetBase s = { s with cradle := { s.cradle with haltCause := .partialReset } } := if_pos hs

theorem resetBase_of_entering {s : State} (hs : ¬(s.cradle.state = .halted ∧ s.cradle.parityGood = true)) :
    resetBase s = haltExact s := if_neg hs

theorem resetBase_account (s : State) : (resetBase s).leaves = s.leaves ∧ (resetBase s).slots = s.slots ∧
    (resetBase s).memory = s.memory ∧ (resetBase s).gain = s.gain ∧ (resetBase s).rescanErrors = s.rescanErrors := by
  unfold resetBase
  split <;> exact ⟨rfl, rfl, rfl, rfl, rfl⟩

theorem vol_resetBase {s : State} (il : s.Interlocked) (h : Handle) : (resetBase s).vol h = doubtedVol s h := by
  unfold resetBase
  split
  · next hs =>
    have hno : haltDoubts s .partialReset = false := eq_false_of_ne_true fun hd => by
      have hstate := il.granted.1 (haltDoubts_iff.1 hd).1
      rw [hs.1] at hstate
      cases hstate
    rw [doubtedVol, hno, Bool.and_false, Bool.or_false]
    rfl
  · exact vol_haltExact s h

/-- A state with its account taken from another. -/
def accountOver (s t : State) : State :=
  { s with vols := t.vols, leaves := t.leaves, slots := t.slots, delivery := t.delivery }

theorem accountOver_trans {s t u : State} (ht : t = accountOver s t) (hu : u = accountOver t u) : u = accountOver s u :=
  hu.trans (congrArg (accountOver · u) ht :)

section Reset
variable {s : State} (il : s.Interlocked) (c : s.Canonical) (hc : s.TableClean) (ho : s.ownersClean (resetGone s))
  (hn : ∀ i o, resetGone s i = true → (s.slot i).owner = some o → (s.vol o.handle).state ≠ .draining)
include il c hc ho hn

theorem partsGone_haltForReset : PartsGone (resetBase s) s.haltForReset (captured s) fun _ => false := by
  have hgone (i : SlotNo) (hi : captured s i = true) : resetGone s i = true := by rw [resetGone, hi, Bool.true_or]
  by_cases hs : s.cradle.state = .halted ∧ s.cradle.parityGood = true
  · rw [haltForReset_of_halted hs, captured_of_free (inFlight_of_halted (s := s) il hs.1), resetBase, if_pos hs]
    exact PartsGone.refl _
  · rw [haltForReset_of_entering hs, resetBase, if_neg hs]
    exact partsGone_halt c hc (fun i hi => ho i (hgone i hi)) fun i o hi => hn i o (hgone i hi)

/-- The discards of a PARTIAL RESET, counted exactly. -/
theorem partsGone_resetFreed : PartsGone (resetBase s) s.haltForReset.freeHeld (resetGone s) fun _ => false := by
  obtain ⟨hleaves, hslots, hmemory, hgain, hrescan⟩ := resetBase_account s
  have hhalt := partsGone_haltForReset il c hc ho hn
  have canon : (resetBase s).Canonical := ⟨hmemory ▸ c.memory, hleaves ▸ c.leaves, hgain ▸ c.gain⟩
  have hclean : (resetBase s).TableClean :=
    ⟨(congrArg (·.errors.single) (vol_resetBase il .zero)).trans hc.zero,
      (congrArg (·.errors.single) (vol_resetBase il .one)).trans hc.one, hrescan ▸ hc.rescan⟩
  have discardable (i : SlotNo) (hi : resetGone s i = true) : Discardable (resetBase s) i := by
    have hsound := discardable_of_ownersClean ho hn hi
    rw [Discardable, State.slot, hslots]
    refine hsound.imp id fun ⟨o, hown, hle, hl, hv⟩ => ⟨o, hown, hle, ?_, ?_⟩
    · rw [State.cleanLeaf, State.leaf, hleaves]
      exact hl
    · rw [vol_resetBase il]
      exact hv
  have hheld := partsGone_foldl (hhalt.canonical canon) (hhalt.tableClean hclean)
    (l := allSlots.filter fun i => (s.haltForReset.slot i).state = .provisional) fun i hi => by
      refine hhalt.discardable (discardable i ?_)
      rw [← held_haltForReset il, ← contains_held, List.contains_iff_mem.2 hi, Bool.or_true]
  have hboth := hhalt.trans hheld
  have hset : (fun i => captured s i || ((allSlots.filter fun i => (s.haltForReset.slot i).state = .provisional).contains i &&
      !(captured s i || false))) = resetGone s := by
    funext i
    rw [contains_held, ← held_haltForReset il]
    cases captured s i <;> simp
  rw [hset] at hboth
  simp only [Bool.false_and, Bool.or_self] at hboth
  exact hboth

end Reset

end Sys2Proof.Proofs
end

section
/-! SUPPORT. The record that a PARTIAL RESET leaves (R194, R58, R176). -/
namespace Sys2Proof.Proofs
open Sys2Proof.Machine Sys2Proof.Laws

/-! ### What the halt of a PARTIAL RESET writes (R58, R194) -/

/-- Whether the cradle enters HALTED. -/
@[reducible] def resetEnters (s : State) : Prop := ¬(s.cradle.state = .halted ∧ s.cradle.parityGood = true)

/-- Whether a run ends by it. -/
@[reducible] def resetEnds (s : State) : Prop := resetEnters s ∧ s.run.state ≠ .idle

/-- The station's notices. -/
def resetStation (s : State) : Word :=
  let ended := if resetEnds s then addNotice s.links.station.notices StationNotice.runEnded.place
    else s.links.station.notices
  let done := if s.inFlight then addNotice ended StationNotice.captureDone.place else ended
  if resetEnters s then addNotice done StationNotice.cradleHalted.place else done

/-- The turner's notices. -/
def resetTurner (s : State) : Word :=
  let ended := if resetEnds s then removeNotice s.links.turner.notices TurnerNotice.turnWanted.place
    else s.links.turner.notices
  let cancelled := if s.turn.phase = .granted then addNotice ended TurnerNotice.grantCancelled.place else ended
  if resetEnters s then addNotice cancelled TurnerNotice.cradleHalted.place else cancelled

/-- The cradle. -/
def resetCradle (s : State) : Cradle :=
  if resetEnters s then
    { s.cradle with
      state := .halted, parityGood := true, haltCause := .partialReset, raisePending := false
      grantPending := false, travelTimer := none, settleTimer := none, grantTimer := none }
  else { s.cradle with haltCause := .partialReset }

/-- A head. -/
def resetAborted (u : HeadUnit) : HeadUnit :=
  if u.phase = .capturing then
    { u with
      phase := .idle, port := .between, frameTimer := none
      capture := u.capture.map fun c => { c with outcome := .aborted .partialReset }
      lineBuffer := [], darkSums := ⟨0, 0, 0⟩, activeSums := ⟨0, 0, 0⟩, flatSums := []
      work := WorkRecord.cleared }
  else u

/-- The run. -/
def resetRun (s : State) : RunRecord :=
  if resetEnds s then
    { s.run with
      state := .idle, wanted := none, stopRequested := false, slots := ⟨none, none⟩
      lastEnd := some ⟨.halted, .none, s.openingNow⟩ }
  else s.run

/-- The halt, but for what the discards write. -/
theorem resetBase_record {s : State} (il : s.Interlocked) (r : State) : accountOver (resetBase s) r =
    { s with
      links := ⟨{ s.links.station with notices := resetStation s }, { s.links.turner with notices := resetTurner s }⟩
      vols := r.vols, leaves := r.leaves, slots := r.slots, delivery := r.delivery
      cradle := resetCradle s, turn := { s.turn with phase := haltedPhase .partialReset s.turn.phase }
      light := { s.light with strobes := ⟨none, none, none, none⟩ }
      heads := ⟨resetAborted s.heads.left, resetAborted s.heads.right⟩, run := resetRun s } := by
  by_cases hs : s.cradle.state = .halted ∧ s.cradle.parityGood = true
  · have hno : ¬resetEnters s := not_not_intro hs
    have hends : ¬resetEnds s := fun h => hno h.1
    have hflight : ¬s.inFlight = true := by
      rw [inFlight_of_halted il hs.1]
      exact Bool.false_ne_true
    obtain ⟨hl, hr⟩ := inFlight_eq_false.1 (eq_false_of_ne_true hflight)
    have hgranted : ¬s.turn.phase = .granted := fun h => CradleState.noConfusion (hs.1.symm.trans (il.granted.1 h))
    have hpending : ¬s.turn.phase = .pending := fun h =>
      CradleState.noConfusion (hs.1.symm.trans (il.grantPending (il.pending.1 h)))
    have hstation : resetStation s = s.links.station.notices := (if_neg hno).trans ((if_neg hflight).trans (if_neg hends))
    have hturner : resetTurner s = s.links.turner.notices := (if_neg hno).trans ((if_neg hgranted).trans (if_neg hends))
    have hphase : haltedPhase .partialReset s.turn.phase = s.turn.phase := by
      revert hgranted hpending
      cases s.turn.phase <;> simp [haltedPhase]
    have hdark : s.light.strobes = ⟨none, none, none, none⟩ := il.strobes (by rw [hs.1]; exact nofun)
    have idle (u : HeadUnit) (hu : u.phase = .idle) : resetAborted u = u := if_neg (by rw [hu]; exact nofun)
    rw [accountOver, resetBase_of_halted hs, hstation, hturner, resetCradle, if_neg hno, resetRun, if_neg hends, hphase,
      ← hdark, idle s.heads.left hl, idle s.heads.right hr]
  · have hends : resetEnds s ↔ s.run.state ≠ .idle := and_iff_right hs
    have hstation : resetStation s = (haltExact s).links.station.notices := by
      have hrun : (if resetEnds s then addNotice s.links.station.notices StationNotice.runEnded.place
            else s.links.station.notices) = haltedStation s := by
        rw [haltedStation]
        by_cases hr : s.run.state = .idle
        · rw [if_pos hr]
          exact if_neg fun h => hends.1 h hr
        · rw [if_neg hr]
          exact if_pos (hends.2 hr)
      refine (if_pos hs).trans ?_
      exact congrArg (fun w => addNotice (if s.inFlight then addNotice w StationNotice.captureDone.place else w)
        StationNotice.cradleHalted.place) hrun
    have hturner : resetTurner s = haltedTurner s := by
      have hrun : (if resetEnds s then removeNotice s.links.turner.notices TurnerNotice.turnWanted.place
            else s.links.turner.notices) =
          if s.run.state = .idle then s.links.turner.notices
          else removeNotice s.links.turner.notices TurnerNotice.turnWanted.place := by
        by_cases hr : s.run.state = .idle
        · rw [if_pos hr]
          exact if_neg fun h => hends.1 h hr
        · rw [if_neg hr]
          exact if_pos (hends.2 hr)
      refine (if_pos hs).trans ?_
      exact congrArg (fun w => addNotice (if s.turn.phase = .granted then addNotice w TurnerNotice.grantCancelled.place
        else w) TurnerNotice.cradleHalted.place) hrun
    have hrun : haltedRun s = resetRun s := by
      rw [haltedRun, resetRun]
      by_cases hr : s.run.state = .idle
      · rw [if_pos hr, if_neg fun h => hends.1 h hr]
      · rw [if_neg hr, if_pos (hends.2 hr)]
    have stopped (u : HeadUnit) : resetAborted u = HeadUnit.stopped u HaltCause.partialReset.abort := by
      show (if u.phase = .capturing then _ else u) = _
      unfold HeadUnit.stopped
      cases hu : u.phase with
      | idle => rfl
      | capturing =>
        rw [if_pos rfl, if_neg (by decide), HeadUnit.aborted, flags_mark_abort]
        rfl
    rw [accountOver, resetBase_of_entering hs, hstation, hturner, resetCradle, if_pos (show resetEnters s from hs), ← hrun, stopped, stopped]
    rfl

/-! ### What the cancel writes (R176) -/

/-- A delivery cancelled: its trailer fixed, and offered at once when no pixel is wanted of it any more. -/
def resetSent (d : Delivery) : Delivery :=
  let trailer := trailerWords .cancelled d.linesSent d.wordsSent (crcFinal d.crc)
  if d.phase = .pixels then { d with phase := .trailer, cancelled := true, toTake := trailer, trailer := trailer }
  else { d with cancelled := true, trailer := trailer }

/-- The trailer record of a delivery that a PARTIAL RESET finds. -/
def resetTrailer (s : State) (d : Delivery) : Option TrailerRecord :=
  if cancels d then
    some ⟨d.slot, d.owner, d.generation, d.format, .cancelled, d.linesSent, d.wordsSent, crcFinal d.crc⟩
  else s.delivery.lastTrailer

section Done
variable {s : State} (il : s.Interlocked)
include il

theorem delivery_resetDone : (resetDone s).delivery = { s.delivery with
    queue := s.delivery.queue.filter fun i => !resetGone s i
    current := s.delivery.current.map fun d => if cancels d then resetSent d else d
    lastTrailer := s.delivery.current.elim s.delivery.lastTrailer (resetTrailer s) } := by
  have hcurrent := (delivery_resetFreed s).1
  have hfreed : s.haltForReset.freeHeld.delivery =
      { s.delivery with queue := s.delivery.queue.filter fun i => !resetGone s i } := (slotsFreed_resetFreed il).delivery
  have kept {c : Option Delivery} (hb : s.delivery.current = c) :
      { s.delivery with queue := s.delivery.queue.filter fun i => !resetGone s i } =
      { s.delivery with queue := s.delivery.queue.filter fun i => !resetGone s i, current := c } := by rw [← hb]
  cases hb : s.delivery.current with
  | none =>
    rw [resetDone_of_staying fun d hd => absurd (hb.symm.trans hd) nofun, hfreed]
    exact kept hb
  | some d =>
    rw [Option.map_some, Option.elim_some, resetTrailer]
    cases hx : cancels d with
    | false =>
      rw [resetDone_of_staying fun d' hd => by rw [← Option.some.inj (hb.symm.trans hd), hx], hfreed,
        if_neg Bool.false_ne_true, if_neg Bool.false_ne_true]
      exact kept hb
    | true =>
      rw [resetDone_of_sending hb hx, cancelDelivery_eq (hcurrent.trans hb), hfreed, if_pos rfl, if_pos rfl]
      rfl

variable (hsent : ∀ d, s.delivery.current = some d → resetGone s d.slot = false)
include hsent

/-- No slot being sent is freed, so the slot table says at once which slots are freed and which is KEPT again. -/
theorem slot_resetDone_exact (i : SlotNo) : (resetDone s).slot i =
    if resetGone s i then Slot.cleared
    else if ∃ d, s.delivery.current = some d ∧ cancels d = true ∧ d.slot = i then
      { s.slot i with state := .kept, queued := false }
    else s.slot i := by
  have hfreed := (slotsFreed_resetFreed il).slots i
  by_cases hd : ∃ d, s.delivery.current = some d ∧ cancels d = true ∧ d.slot = i
  · obtain ⟨d, hb, hx, rfl⟩ := hd
    have hno : ¬resetGone s d.slot = true := by
      rw [hsent d hb]
      exact Bool.false_ne_true
    rw [if_neg hno] at hfreed
    rw [if_neg hno, if_pos ⟨d, hb, hx, rfl⟩, resetDone_of_sending hb hx,
      cancelDelivery_eq ((delivery_resetFreed s).1.trans hb), ← hfreed]
    exact (slot_setSlot_eq _ d.slot d.slot _).trans (if_pos rfl)
  · rw [if_neg hd, ← hfreed]
    cases hb : s.delivery.current with
    | none => rw [resetDone_of_staying fun d hx => absurd (hb.symm.trans hx) nofun]
    | some d =>
      cases hx : cancels d with
      | false => rw [resetDone_of_staying fun d' hy => by rw [← Option.some.inj (hb.symm.trans hy), hx]]
      | true =>
        have hne : d.slot ≠ i := fun e => hd ⟨d, hb, hx, e⟩
        refine (slot_resetDone il fun d' hy => ?_).trans hfreed.symm
        rw [← Option.some.inj (hb.symm.trans hy)]
        exact hne

end Done

end Sys2Proof.Proofs
end

section
/-! SUPPORT. PARTIAL RESET, whole (R194, R62, R46, R176). -/
namespace Sys2Proof.Proofs
open Sys2Proof.Machine Sys2Proof.Laws

/-- Settles O39: the three steps from any state, and where the records are sound the halt by `partsGone_halt`, the held
captures counted with it, and the delivery cancelled. -/
theorem partialResetHaltsAndDiscards : Obligations.PartialResetHaltsAndDiscards := by
  have run {s : State} (hi : s.initRunning = false) : exec .partialReset s = .next
      { (resetDone (s.taking .station 0)).modLink .station (·.answer (.accepted [6])) with skippedNow := [] } := by
    have hstate : (resetDone (s.taking .station 0)).cradle.state = .halted :=
      (resetDone_same (s.taking .station 0) (fun x => x.cradle.state) (fun _ => rfl) fun _ _ _ => rfl).trans
        (cradle_haltForReset _).1
    have hact : partialReset (s.taking .station 0) = (.accepted [6], resetDone (s.taking .station 0)) := by
      have hdone : partialReset (s.taking .station 0) =
          (.accepted (resetDone (s.taking .station 0)).cradle.state.word, resetDone (s.taking .station 0)) := by
        rw [partialReset, resetDone]
      rw [hdone, hstate]
      rfl
    exact exec_of_effect_unread (exec_partialReset hi) rfl rfl hact
  refine ⟨fun s hi il hk => ?any, fun s hi il hk canon hc => ?exact⟩
  case any =>
    intro unnamed captured gone
    let s₁ := s.taking .station 0
    have il₁ : s₁.Interlocked := interlocked_taking il .station 0
    have same {α : Type} (f : State → α) (hf : ∀ x, f (discardFrame x) = f x)
        (hc : ∀ (x : State) v d, f { x with slots := v, delivery := d } = f x) : f (resetDone s₁) = f s₁.haltForReset :=
      resetDone_same s₁ f hf hc
    obtain ⟨hdark, hflight, hgranted, hpending⟩ := still_haltForReset il₁
    obtain ⟨hstate, hcause⟩ := cradle_haltForReset s₁
    have hcradle := same State.cradle (fun _ => rfl) fun _ _ _ => rfl
    have hturn := same State.turn (fun _ => rfl) fun _ _ _ => rfl
    have hlight := same State.light (fun _ => rfl) fun _ _ _ => rfl
    have hheads := same State.heads (fun _ => rfl) fun _ _ _ => rfl
    have hturner := same (fun x => x.links.turner) (fun _ => rfl) fun _ _ _ => rfl
    have unnamedSlot (i : SlotNo) (hu : unnamed i) : (resetDone s₁).slot i =
        if resetGone s₁ i then Slot.cleared else s.slot i := slot_resetDone il₁ hu.2
    have uncaptured (i : SlotNo) (hu : unnamed i) : captured i = false := by
      refine eq_false_of_ne_true fun hcap => ?_
      obtain ⟨p, -, hp⟩ := List.any_eq_true.1 hcap
      obtain ⟨hphase, hslot⟩ := (Bool.and_eq_true _ _).mp hp
      obtain ⟨c, hcapture, hcs⟩ := Option.bind_eq_some_iff.1 (beq_iff_eq.1 hslot)
      exact hu.1 p c (beq_iff_eq.1 hphase) hcapture hcs
    have keptSlot (i : SlotNo) (hp : (s.slot i).state = .kept) (hu : unnamed i) : resetGone s₁ i = false := by
      have hcap : Proofs.captured s₁ i = false := uncaptured i hu
      have hslot : (s₁.slot i).state = .kept := hp
      rw [resetGone, hcap, hslot]
      rfl
    refine ⟨_, run hi, ?_, ?_, ?_, ?_, fun hs => ?_, ?_, ?_, rfl, fun i hp hu => ?_, fun i hp hu => ⟨?_, fun hq => ?_⟩,
      queue_resetDone il₁, fun d hb hp => ?_, ?_, ?_, fun p => ?_, ?_, fun hs hg hb hp => ?_⟩
    · exact (congrArg Cradle.state hcradle).trans hstate
    · exact (congrArg Cradle.haltCause hcradle).trans hcause
    · exact (congrArg Lighting.strobes hlight).trans hdark
    · exact (inFlight_of_heads hheads).trans hflight
    · exact (congrArg RunRecord.state (same State.run (fun _ => rfl) fun _ _ _ => rfl)).trans (run_haltForReset (s := s₁) hs)
    · exact fun h => hgranted ((congrArg TurnRecord.phase hturn).symm.trans h)
    · exact fun h => hpending ((congrArg TurnRecord.phase hturn).symm.trans h)
    · refine (unnamedSlot i hu).trans (if_pos ?_)
      have hslot : (s₁.slot i).state = .provisional := hp
      rw [resetGone, hslot]
      exact Bool.or_true _
    · exact (unnamedSlot i hu).trans (if_neg (by rw [keptSlot i hp hu]; exact Bool.false_ne_true))
    · have hmem : i ∈ (resetDone s₁).delivery.queue := by
        rw [queue_resetDone il₁]
        exact List.mem_filter.2 ⟨hq, by rw [keptSlot i hp hu]; rfl⟩
      exact hmem
    · have hcan : cancels d = true := by
        rcases hp with hp | ⟨hp, hd⟩
        · rw [cancels, hp]
          rfl
        · rw [cancels, hp, hd]
          rfl
      exact sent_resetDone (s := s₁) hb hcan
    · exact (congrArg Link.rx hturner).trans (turner_haltForReset s₁).1
    · exact (congrArg Link.response hturner).trans (turner_haltForReset s₁).2
    · have hhead : (resetDone s₁).head p = s₁.haltForReset.head p := congrArg (PerHead.get · p) hheads
      have hset := settings_haltForReset s₁ p
      rw [← hhead] at hset
      exact hset
    · exact answered_over (over_resetDone s₁)
    · have hreset : s₁.haltForReset = { s₁ with cradle := { s₁.cradle with haltCause := .partialReset } } :=
        haltForReset_of_halted ⟨hs, hg⟩
      have hfilter : (allSlots.filter fun i => (s₁.haltForReset.slot i).state = .provisional) = [] :=
        List.filter_eq_nil_iff.2 fun i _ => by
          have hno : (s₁.slot i).state ≠ .provisional := hp i
          rw [hreset]
          exact fun h => hno (of_decide_eq_true h)
      have hfree : s₁.haltForReset.freeHeld = s₁.haltForReset := by
        rw [State.freeHeld, hfilter]
        rfl
      have hdone : resetDone s₁ = s₁.haltForReset := by
        rw [resetDone, hfree, cancelCurrent_of_none]
        rw [hreset]
        exact hb
      rw [hdone, hreset]
      rfl
  case exact =>
    intro captured gone ho hn hsent enters ends doubt cancelling crc trailer cancelled station₀ station₁ station₂ station
      turner₀ turner₁ turner₂ turner aborted t₀
    let s₁ := s.taking .station 0
    let r := resetDone s₁
    let f := s₁.haltForReset.freeHeld
    have il₁ : s₁.Interlocked := interlocked_taking il .station 0
    have hgone : PartsGone (resetBase s₁) f gone fun _ => false :=
      partsGone_resetFreed il₁ ⟨canon.memory, canon.leaves, canon.gain⟩ (taking_tableClean hc .station 0) ho hn
    have hcancel : r = accountOver f r := by
      show resetDone s₁ = accountOver f (resetDone s₁)
      rw [resetDone]
      exact (congrArg (accountOver · f.cancelCurrent) (cancelCurrent_spec f).1 :)
    have hrest : r = accountOver (resetBase s₁) r :=
      accountOver_trans (congrArg (accountOver · f) hgone.eq :) hcancel
    have hvols : r.vols = f.vols ∧ r.leaves = f.leaves := by
      show (resetDone s₁).vols = f.vols ∧ (resetDone s₁).leaves = f.leaves
      rw [resetDone]
      exact ⟨(congrArg State.vols (cancelCurrent_spec f).1 :), (congrArg State.leaves (cancelCurrent_spec f).1 :)⟩
    refine ⟨_, run hi, slot_resetDone_exact il₁ hsent, ?_, fun h => ?_, ?_⟩
    · obtain ⟨hl, hs, -⟩ := resetBase_account s₁
      let y : State := { s with vols := (resetBase s₁).vols, delivery := (resetBase s₁).delivery }
      have hparts := partsRemoved_of_same (s := y) (s' := resetBase s₁) (t := r) ⟨rfl, hl, hs, rfl⟩ hgone.partsRemoved hvols.2
      exact ⟨hparts.panel, hparts.face, hparts.record, hparts.kept, hparts.others⟩
    · have hvol : r.vol h = f.vol h := congrArg (PerHandle.get · h) hvols.1
      have howned (w : SlotNo → Bool) : (resetBase s₁).ownedAmong h w = s.ownedAmong h w := by
        simp only [State.ownedAmong, State.slot, (resetBase_account s₁).2.1]
        rfl
      have hnone : (s.ownedAmong h fun _ => false) = 0 := by simp [State.ownedAmong]
      have hdoubt : (decide (s.active = some h) && haltDoubts s .partialReset) = decide (s.active = some h ∧ doubt) := by
        rw [haltDoubts_decide]
        simp [doubt]
      show r.vol h = _
      rw [hvol, hgone.vols h, vol_resetBase il₁, howned, howned]
      simp only [Bool.or_false, hnone, discounted, BitVec.sub_zero, ← hdoubt]
      rfl
    · refine (congrArg (fun x : State => { x.modLink .station (·.answer (.accepted [6])) with skippedNow := [] })
        (hrest.trans (resetBase_record il₁ r)) :).trans ?_
      have hphase : haltedPhase .partialReset s.turn.phase = match s.turn.phase with
          | .granted | .pending => .cancelled
          | p => p := by cases s.turn.phase <;> rfl
      have hdelivery : r.delivery = _ := delivery_resetDone il₁
      have hlast : s₁.delivery.current.elim s₁.delivery.lastTrailer (resetTrailer s₁) = match s.delivery.current with
          | none => s.delivery.lastTrailer
          | some d =>
            if cancelling d then
              some ⟨d.slot, d.owner, d.generation, d.format, .cancelled, d.linesSent, d.wordsSent, crc d⟩
            else s.delivery.lastTrailer := by
        show s.delivery.current.elim _ _ = _
        cases s.delivery.current <;> rfl
      rw [hdelivery, hlast, show haltedPhase .partialReset s₁.turn.phase = _ from hphase]
      rfl

end Sys2Proof.Proofs
end

section
/-! SUPPORT. Why a discard during SLOT_WAIT need not be followed by the cycle's step of its result (R160, R180, log 20):
the record updates counted skipped within the event are remembered to its end, and the result no longer has them. -/
namespace Sys2Proof.Proofs
open Sys2Proof.Machine Sys2Proof.Laws

/-- A leaf record with one correctable word, the dose of its verso. -/
def doseInError : LeafRecord := { LeafRecord.fresh .leaf with errors := [(.dose .verso, .single)] }

/-- A run in SLOT_WAIT on the volume of handle 0, and a KEPT slot of a DRAINING volume of handle 1. The memory of the
leaf records is not in canonical form: once the read of the first one's dose has corrected it, it is a fresh record and
leaves the memory, and the same leaf reads as the second one, invalid. An update of that leaf has been counted skipped
already. -/
def waitingRun : State :=
  { State.reset with
    initRunning := false
    vols := ⟨{ Volume.empty with
        state := .active, serial := 1, leaves := 10, volumeCeiling := 10000000000, sideCeiling := 4000000000 },
      { Volume.empty with state := .draining, serial := 2, leaves := 10 }⟩
    leaves := [(leafKey .zero 0, doseInError), (leafKey .zero 0, { LeafRecord.fresh .leaf with valid := false })]
    slots := State.reset.slots.set 0 { Slot.cleared with state := .kept, owner := some ⟨.one, 3, .verso, 1⟩ }
    cradle := { Cradle.reset false true true false false with state := .ready }
    run := { RunRecord.reset with state := .slotWait }
    skippedNow := [leafKey .zero 0] }

/-- The state an outcome leads to. -/
def stateOf : Host.Outcome State Fault Refusal → State
  | .next s => s
  | _ => State.reset

/-- The same discard with the run idle, and the run's record put back. -/
def discardedBeside : State :=
  { stateOf (exec (.discardVolume 1) { waitingRun with run := { waitingRun.run with state := .idle } }) with
    run := waitingRun.run }

/-- In the event the skip of the update at the capture's start is counted with the earlier one of its record. -/
theorem skipped_discard : (stateOf (exec (.discardVolume 1) waitingRun)).faults.skipped = 0 := by decide +kernel

/-- After the event it is counted again. -/
theorem skipped_step : waitingRun.freeCount < discardedBeside.freeCount ∧
    discardedBeside.cycleStep.faults.skipped = 1 := by decide +kernel

/-- Refutes O16: its last clause asks nothing of the updates skipped before the command and of the memory's form, and
`waitingRun` counts one skip fewer than the clause says. -/
theorem not_discardVolumeFreesItsSlots : ¬ Obligations.DiscardVolumeFreesItsSlots := by
  intro h
  obtain ⟨-, -, -, -, hwait⟩ := (h waitingRun 1 rfl ⟨rfl, rfl, rfl⟩).2 .one rfl
  obtain ⟨u, hu, hx⟩ := hwait rfl rfl rfl
  have hbeside : ({ u with run := waitingRun.run } : State) = discardedBeside := by
    rw [discardedBeside, hu]
    rfl
  dsimp only at hx
  rw [hbeside, if_pos skipped_step.1] at hx
  have hskipped := congrArg (fun o => (stateOf o).faults.skipped) hx
  exact Nat.zero_ne_one (skipped_discard.symm.trans (hskipped.trans skipped_step.2))

end Sys2Proof.Proofs
end

section
/-! SUPPORT. A capture start writes the faces of its sides (R109, R30, R31, R95), and the held captures it replaces. -/
namespace Sys2Proof.Proofs
open Sys2Proof.Machine Sys2Proof.Laws

/-! ### The faces of some sides written -/

/-- Of all the leaf records those of some sides alone have changed, and of each the face of its side. -/
structure SidesWritten (s t : State) (h : Handle) (ds : List Side) : Prop where
  others : ∀ h' n, n ≤ 2047 → (h' ≠ h ∨ ∀ d ∈ ds, d.leaf ≠ n) → t.leaf h' n = s.leaf h' n
  record : ∀ d ∈ ds, t.leaf h d.leaf = s.leaf h d.leaf ∨
    t.leaf h d.leaf = (s.leaf h d.leaf).setFace d.face (t.face h d)

/-- Some sides are on leaves of their own that there are. -/
def LeavesApart (ds : List Side) : Prop :=
  (∀ d ∈ ds, d.leaf ≤ 2047) ∧ ∀ d ∈ ds, ∀ e ∈ ds, d = e ∨ d.leaf ≠ e.leaf

theorem sidesWritten_refl (s : State) (h : Handle) (ds : List Side) : SidesWritten s s h ds :=
  ⟨fun _ _ _ _ => rfl, fun _ _ => .inl rfl⟩

theorem sidesWritten_of_leaves {s t : State} (e : t.leaves = s.leaves) (h : Handle) (ds : List Side) :
    SidesWritten s t h ds := by
  have leaf (h' : Handle) (n : Nat) : t.leaf h' n = s.leaf h' n := by simp only [State.leaf, e]
  exact ⟨fun h' n _ _ => leaf h' n, fun d _ => .inl (leaf h d.leaf)⟩

theorem sidesWritten_trans {s t u : State} {h : Handle} {ds : List Side} (a : SidesWritten s t h ds)
    (b : SidesWritten t u h ds) : SidesWritten s u h ds := by
  refine ⟨fun h' n hn hne => (b.others h' n hn hne).trans (a.others h' n hn hne), fun d hd => ?_⟩
  rcases b.record d hd with eb | eb
  · have hface : u.face h d = t.face h d := by rw [State.face, State.face, eb]
    rw [eb, hface]
    exact a.record d hd
  · refine .inr (eb.trans ?_)
    rcases a.record d hd with ea | ea
    · rw [ea]
    · rw [ea, setFace_setFace]

theorem sidesWritten_of_faceAlone {s t : State} {h : Handle} {ds : List Side} (hds : LeavesApart ds) {d : Side}
    (hd : d ∈ ds) (a : FaceAlone s t h d) : SidesWritten s t h ds := by
  have hle := hds.1 d hd
  refine ⟨fun h' n hn hne => a.others hle h' n (hne.imp id fun hne => (hne d hd).symm) hn, fun e he => ?_⟩
  rcases hds.2 d hd e he with rfl | hne
  · exact .inr a.record
  · exact .inl (a.others hle h e.leaf (.inr hne.symm) (hds.1 e he))

theorem face_of_written {s t : State} {h : Handle} {ds : List Side} (a : SidesWritten s t h ds) {d : Side}
    (hle : d.leaf ≤ 2047) (hne : ∀ e ∈ ds, e.leaf ≠ d.leaf) : t.face h d = s.face h d := by
  rw [State.face, State.face, a.others h d.leaf hle (.inr hne)]

/-- The records of some sides have been written, each with the face its side now has. -/
def SidesRecorded (s t : State) (h : Handle) (ds : List Side) : Prop :=
  ∀ d ∈ ds, t.leaf h d.leaf = (s.leaf h d.leaf).setFace d.face (t.face h d)

theorem recorded_of_written {s t u : State} {h : Handle} {ds : List Side} (a : SidesWritten s t h ds)
    (b : SidesRecorded t u h ds) : SidesRecorded s u h ds := fun d hd => by
  refine (b d hd).trans ?_
  rcases a.record d hd with e | e
  · rw [e]
  · rw [e, setFace_setFace]

theorem recorded_of_leaves {s t u : State} {h : Handle} {ds : List Side} (e : u.leaves = t.leaves)
    (a : SidesRecorded s t h ds) : SidesRecorded s u h ds := fun d hd => by
  have ha := a d hd
  simpa only [State.face, State.leaf, e] using ha

/-! ### One panel of a face written -/

/-- A face differs from another in one panel at most. -/
structure PanelOnly (f g : FaceRecord) (p : Nat) : Prop where
  panels : ∀ n, n ≠ p → g.panel? n = f.panel? n
  rest : { g with panels := [] } = { f with panels := [] }

theorem panelOnly_refl (f : FaceRecord) (p : Nat) : PanelOnly f f p := ⟨fun _ _ => rfl, rfl⟩

theorem panelOnly_trans {f g k : FaceRecord} {p : Nat} (a : PanelOnly f g p) (b : PanelOnly g k p) : PanelOnly f k p :=
  ⟨fun n hn => (b.panels n hn).trans (a.panels n hn), b.rest.trans a.rest⟩

theorem panelOnly_modPanel (f : FaceRecord) (p : Nat) {g : PanelEntry → PanelEntry} (hg : ∀ e, (g e).number = e.number) :
    PanelOnly f (f.modPanel p g) p :=
  ⟨fun n hn => (panel?_modPanel ((hg _).trans (panel_number f p)) n).trans (if_neg hn), rfl⟩

/-! ### Held captures replaced (R31) -/

section Discard
variable {s : State} (c : s.Canonical) (hc : s.TableClean) {i : SlotNo} {o : Owner} (ho : (s.slot i).owner = some o)
  (hl : s.cleanLeaf o.handle o.leaf) (hv : (s.vol o.handle).state ≠ .draining)
include hc ho hl hv

theorem leaves_discardSlot : (s.discardSlot i).leaves =
    (s.setFace o.handle o.side ((s.face o.handle o.side).modPanel o.panel withoutPending)).leaves := by
  rw [discardSlot_of_clean_settling hc ho (closes := False) (iff_of_false id fun h => hv h.1) hl]

include c in
/-- A capture discarded: its side's face is written, and of it the capture's panel. -/
theorem faceAlone_discardSlot : FaceAlone s (s.discardSlot i) o.handle o.side ∧
    PanelOnly (s.face o.handle o.side) ((s.discardSlot i).face o.handle o.side) o.panel := by
  have hleaves := leaves_discardSlot hc ho hl hv
  refine ⟨faceAlone_of_leaves (faceAlone_setFace c _ _ _) hleaves, ?_⟩
  rw [face_of_leaves hleaves, face_setFace_same c]
  exact panelOnly_modPanel _ _ fun _ => rfl

end Discard

/-- The captures of one panel discarded, one after another. -/
theorem faces_foldl_discard {s : State} (c : s.Canonical) (hc : s.TableClean) {o : Owner} (hle : o.leaf ≤ 2047)
    (hl : s.cleanLeaf o.handle o.leaf) (hv : (s.vol o.handle).state ≠ .draining) {l : List SlotNo}
    (ho : ∀ i ∈ l, s.slot i = Slot.cleared ∨ (s.slot i).owner = some o) :
    SidesWritten s (l.foldl State.discardSlot s) o.handle [o.side] ∧
    PanelOnly (s.face o.handle o.side) ((l.foldl State.discardSlot s).face o.handle o.side) o.panel := by
  induction l generalizing s with
  | nil => exact ⟨sidesWritten_refl _ _ _, panelOnly_refl _ _⟩
  | cons i l ih =>
    have hi := ho i List.mem_cons_self
    have hdis : Discardable s i := hi.imp id fun hown => ⟨o, hown, hle, hl, hv⟩
    have hone := partsGone_discardSlot c hc hdis
    have hstep : SidesWritten s (s.discardSlot i) o.handle [o.side] ∧
        PanelOnly (s.face o.handle o.side) ((s.discardSlot i).face o.handle o.side) o.panel := by
      rcases hi with hfree | hown
      · have hnone : (s.slot i).owner = none := by rw [hfree]; rfl
        have hleaves : (s.discardSlot i).leaves = s.leaves := by
          rw [State.discardSlot, hnone]
          dsimp only
          rw [State.freeSlot, hnone]
          rfl
        refine ⟨sidesWritten_of_leaves hleaves _ _, ?_⟩
        rw [face_of_leaves hleaves]
        exact panelOnly_refl _ _
      · obtain ⟨ha, hp⟩ := faceAlone_discardSlot c hc hown hl hv
        refine ⟨sidesWritten_of_faceAlone ⟨fun d hd => ?_, fun d hd e he => .inl ?_⟩ List.mem_cons_self ha, hp⟩
        · rw [List.mem_singleton.1 hd]
          exact hle
        · rw [List.mem_singleton.1 hd, List.mem_singleton.1 he]
    have hrest := ih (hone.canonical c) (hone.tableClean hc) (hone.cleanLeaf hle hl)
      (by rw [hone.vols o.handle]; exact hv) fun j hj => by
        rw [hone.slots j]
        split
        · exact .inl rfl
        · exact ho j (List.mem_cons_of_mem i hj)
    exact ⟨sidesWritten_trans hstep.1 hrest.1, panelOnly_trans hstep.2 hrest.2⟩

end Sys2Proof.Proofs
end

section
/-! SUPPORT. The slots of a capture start (R109, R30, R31): held captures replaced, and the lowest slots taken. -/
namespace Sys2Proof.Proofs
open Sys2Proof.Machine Sys2Proof.Laws

theorem sidesWritten_mono {s t : State} {h : Handle} {ds es : List Side} (hes : LeavesApart es) (hsub : ds ⊆ es)
    (a : SidesWritten s t h ds) : SidesWritten s t h es := by
  refine ⟨fun h' n hn hne => a.others h' n hn (hne.imp id fun hne d hd => hne d (hsub hd)), fun e he => ?_⟩
  by_cases hmem : e ∈ ds
  · exact a.record e hmem
  · refine .inl (a.others h e.leaf (hes.1 e he) (.inr fun d hd => ?_))
    exact (hes.2 d (hsub hd) e he).resolve_left fun e' => hmem (e' ▸ hd)

/-- The sides of a capture start, in the order LEFT, RIGHT: each on a leaf of its own with a sound record. -/
structure SidesReady (s : State) (h : Handle) (vs : List SideView) : Prop where
  order : vs.Pairwise fun v w => v.head = .left ∧ w.head = .right ∧ v.side.leaf ≠ w.side.leaf
  low : ∀ v ∈ vs, v.side.leaf ≤ 2047
  clean : ∀ v ∈ vs, s.cleanLeaf h v.side.leaf

section Ready
variable {s : State} {h : Handle} {v : SideView} {vs : List SideView}

theorem leavesApart_of_ready (r : SidesReady s h vs) : LeavesApart (vs.map (·.side)) := by
  refine ⟨fun d hd => ?_, fun d hd e he => ?_⟩
  · obtain ⟨v, hv, rfl⟩ := List.mem_map.1 hd
    exact r.low v hv
  · obtain ⟨v, hv, rfl⟩ := List.mem_map.1 hd
    obtain ⟨w, hw, rfl⟩ := List.mem_map.1 he
    have sym : ∀ x ∈ vs, ∀ y ∈ vs, x.side = y.side ∨ x.side.leaf ≠ y.side.leaf := by
      have apart := r.order.imp (S := fun x y : SideView => x.side.leaf ≠ y.side.leaf) fun a => a.2.2
      clear r hv hw hd he
      induction apart with
      | nil => nofun
      | cons hhead _ ih =>
        intro x hx y hy
        rcases List.mem_cons.1 hx with ex | hx <;> rcases List.mem_cons.1 hy with ey | hy
        · exact .inl (by rw [ex, ey])
        · exact .inr (ex ▸ hhead y hy)
        · exact .inr (ey ▸ (hhead x hx).symm)
        · exact ih x hx y hy
    exact sym v hv w hw

theorem ready_tail (r : SidesReady s h (v :: vs)) : SidesReady s h vs :=
  ⟨(List.pairwise_cons.1 r.order).2, fun w hw => r.low w (List.mem_cons_of_mem v hw),
    fun w hw => r.clean w (List.mem_cons_of_mem v hw)⟩

theorem ready_of_clean {t : State} (r : SidesReady s h vs) (hl : ∀ v ∈ vs, t.cleanLeaf h v.side.leaf) :
    SidesReady t h vs := ⟨r.order, r.low, hl⟩

theorem apart_of_ready (r : SidesReady s h (v :: vs)) :
    ∀ w ∈ vs, v.head = .left ∧ w.head = .right ∧ v.side.leaf ≠ w.side.leaf := (List.pairwise_cons.1 r.order).1

end Ready

/-! ### Held captures replaced (R31) -/

theorem contains_heldSlots (s : State) (o : Owner) (i : SlotNo) :
    (s.heldSlots o).contains i = ((s.slot i).state == .provisional && (s.slot i).owner == some o) := by
  rw [Bool.eq_iff_iff, List.contains_iff_mem, State.heldSlots, List.mem_filter]
  exact (and_iff_right (mem_allSlots i)).trans (by simp)

theorem replaced {s : State} (c : s.Canonical) (hc : s.TableClean) {h : Handle} (hv : (s.vol h).state ≠ .draining)
    {vs : List SideView} (r : SidesReady s h vs) :
    PartsGone s (vs.foldl (fun t v => t.replaceHeld h v) s) (fun i => heldFor (s.slot i) (vs.map (·.owner h)))
      (fun _ => false) ∧
    SidesWritten s (vs.foldl (fun t v => t.replaceHeld h v) s) h (vs.map (·.side)) ∧
    ∀ v ∈ vs, PanelOnly (s.face h v.side) ((vs.foldl (fun t v => t.replaceHeld h v) s).face h v.side) v.panel := by
  induction vs generalizing s with
  | nil =>
    have hnone : (fun i => heldFor (s.slot i) []) = fun _ => false := funext fun i => Bool.and_false _
    rw [List.map_nil, hnone]
    exact ⟨PartsGone.refl s, sidesWritten_refl s h [], nofun⟩
  | cons v vs ih =>
    let o := v.owner h
    let t : State := s.replaceHeld h v
    have hle : o.leaf ≤ 2047 := r.low v List.mem_cons_self
    have hl : s.cleanLeaf o.handle o.leaf := r.clean v List.mem_cons_self
    have held (i : SlotNo) (hi : i ∈ s.heldSlots o) : (s.slot i).owner = some o := by
      have hi := contains_heldSlots s o i ▸ List.contains_iff_mem.2 hi
      exact beq_iff_eq.1 (Bool.and_eq_true_iff.1 hi).2
    have hone : PartsGone s t (fun i => (s.slot i).state == .provisional && (s.slot i).owner == some o)
        (fun _ => false) := by
      have hfold := partsGone_foldl c hc (l := s.heldSlots o) fun i hi => .inr ⟨o, held i hi, hle, hl, hv⟩
      rw [show (fun i => (s.heldSlots o).contains i) = _ from funext (contains_heldSlots s o)] at hfold
      exact hfold
    obtain ⟨hwritten, hpanel⟩ := faces_foldl_discard c hc hle hl hv fun i hi => .inr (held i hi)
    have apart := leavesApart_of_ready r
    obtain ⟨hparts, hsides, hfaces⟩ := ih (s := t) (hone.canonical c) (hone.tableClean hc)
      (by rw [hone.vols h]; exact hv)
      (ready_of_clean (ready_tail r) fun w hw => hone.cleanLeaf (r.low w (List.mem_cons_of_mem v hw))
        (r.clean w (List.mem_cons_of_mem v hw)))
    refine ⟨?_, sidesWritten_trans (sidesWritten_mono apart ?_ hwritten) (sidesWritten_mono apart ?_ hsides),
      fun w hw => ?_⟩
    · have hboth := hone.trans hparts
      have hset : (fun i => ((s.slot i).state == .provisional && (s.slot i).owner == some o) ||
          (heldFor (t.slot i) (vs.map (·.owner h)) &&
            !(((s.slot i).state == .provisional && (s.slot i).owner == some o) || false))) =
          fun i => heldFor (s.slot i) ((v :: vs).map (·.owner h)) := by
        funext i
        rw [List.map_cons, heldFor_cons, hone.slots i]
        cases (s.slot i).state == .provisional && (s.slot i).owner == some o <;> simp
      rw [hset] at hboth
      simpa using hboth
    · exact List.cons_subset_cons _ (List.nil_subset _)
    · exact List.subset_cons_self _ _
    · rcases List.mem_cons.1 hw with rfl | hw
      · have hstays : (vs.foldl (fun t v => t.replaceHeld h v) t).face h w.side = t.face h w.side :=
          face_of_written hsides (r.low w List.mem_cons_self) fun d hd => by
            obtain ⟨u, hu, rfl⟩ := List.mem_map.1 hd
            exact (apart_of_ready r u hu).2.2.symm
        rw [List.foldl_cons, hstays]
        exact hpanel
      · have hstays : t.face h w.side = s.face h w.side :=
          face_of_written hwritten (r.low w (List.mem_cons_of_mem v hw)) fun d hd => by
            rw [List.mem_singleton.1 hd]
            exact (apart_of_ready r w hw).2.2
        rw [← hstays]
        exact hfaces w hw

end Sys2Proof.Proofs
end

section
/-! SUPPORT. The slots of a capture start taken, the lowest ones FREE first (R30). -/
namespace Sys2Proof.Proofs
open Sys2Proof.Machine Sys2Proof.Laws

/-! ### The lowest FREE slot -/

theorem allSlots_sorted : allSlots.Pairwise (· < ·) := by decide

theorem freeSlot_lowest {s : State} {i : SlotNo} (hi : s.freeSlot? = some i) :
    (s.slot i).state = .free ∧ ∀ j, (s.slot j).state = .free → i ≤ j := by
  obtain ⟨hfree, before, after, hall, hno⟩ := List.find?_eq_some_iff_append.1 hi
  refine ⟨of_decide_eq_true hfree, fun j hj => ?_⟩
  have hmem : j ∈ before ++ i :: after := hall ▸ mem_allSlots j
  have hsorted : (before ++ i :: after).Pairwise (· < ·) := hall ▸ allSlots_sorted
  rcases List.mem_append.1 hmem with hb | ha
  · have hnot := hno j hb
    rw [decide_eq_true hj] at hnot
    cases hnot
  · rcases List.mem_cons.1 ha with rfl | ha
    · exact Nat.le_refl _
    · exact Nat.le_of_lt ((List.pairwise_cons.1 (List.pairwise_append.1 hsorted).2.1).1 j ha)

theorem freeSlot_of_freeCount {s : State} (hf : 0 < s.freeCount) : ∃ i, s.freeSlot? = some i := by
  rw [freeCount_eq] at hf
  obtain ⟨i, hmem, hi⟩ := List.countP_pos_iff.1 hf
  have hfound : s.freeSlot?.isSome = true := List.find?_isSome.2 ⟨i, hmem, decide_eq_true (beq_iff_eq.1 hi)⟩
  exact Option.isSome_iff_exists.1 hfound

theorem freeCount_setSlot {s : State} {i : SlotNo} {x : Slot} (hi : (s.slot i).state = .free) (hx : x.state ≠ .free) :
    s.freeCount = (s.setSlot i x).freeCount + 1 := by
  have hsplit : (fun j => (s.slot j).state == .free) =
      fun j => (j == i && (s.slot j).state == .free) || ((s.setSlot i x).slot j).state == .free := by
    funext j
    rw [slot_setSlot_eq]
    by_cases hj : j = i
    · rw [if_pos hj, hj, hi, beq_false_of_ne hx]
      simp
    · rw [if_neg hj, beq_false_of_ne hj, Bool.false_and, Bool.false_or]
  rw [freeCount_eq, freeCount_eq, hsplit, countP_or, allSlots_countP_eq, hi]
  · exact Nat.add_comm _ _
  · intro j hj
    rw [slot_setSlot_eq, if_pos (beq_iff_eq.1 (Bool.and_eq_true_iff.1 hj).1)]
    exact beq_false_of_ne hx

/-! ### One slot taken -/

/-- The slot of a capture started now for a side (R30). -/
def slotFor (s : State) (h : Handle) (v : SideView) : Slot :=
  { Slot.cleared with
    state := .filling, owner := some (v.owner h), head := some v.head
    w := (s.head v.head).correction.w, h := (s.head v.head).correction.h
    generation := v.generation + 1
    baseDuration := (s.light.settings.latch v.head).base }

/-- A panel whose capture is being taken into a slot. -/
def exposingIn (i : SlotNo) (e : PanelEntry) : PanelEntry := { e with pending := some ⟨.exposing, i⟩ }

/-- A side's capture given a slot. -/
def slotTakenBy (s : State) (h : Handle) (v : SideView) (i : SlotNo) : State :=
  (s.setSlot i (slotFor s h v)).setFace h v.side ((s.face h v.side).modPanel v.panel (exposingIn i))

theorem allocate_of_clean {s : State} {h : Handle} {v : SideView} {i : SlotNo} (hi : s.freeSlot? = some i)
    (hl : s.cleanLeaf h v.side.leaf) : s.allocate h v = (some i, slotTakenBy s h v i) := by
  have hl' : (s.setSlot i (slotFor s h v)).cleanLeaf h v.side.leaf := hl
  have hupdate : ((s.setSlot i (slotFor s h v)).updateFace h v.side [.list v.side.face, .panel v.side.face v.panel]
      fun f => f.modPanel v.panel (exposingIn i)) = (true, slotTakenBy s h v i) := by
    rw [State.updateFace, readLeaf_of_clean hl'.1 hl'.2]
    rfl
  rw [State.allocate, hi]
  exact congrArg (fun p : Bool × State => (some i, p.2)) hupdate

section Taken
variable {s : State} (c : s.Canonical) {h : Handle} {v : SideView} {i : SlotNo}

theorem slot_slotTakenBy (j : SlotNo) :
    (slotTakenBy s h v i).slot j = if j = i then slotFor s h v else s.slot j := slot_setSlot_eq s i j _

include c

theorem canonical_slotTakenBy : (slotTakenBy s h v i).Canonical :=
  canonical_setFace (s := s.setSlot i (slotFor s h v)) ⟨c.memory, c.leaves, c.gain⟩ h v.side _

theorem face_slotTakenBy : (slotTakenBy s h v i).face h v.side = (s.face h v.side).modPanel v.panel (exposingIn i) :=
  face_setFace_same (s := s.setSlot i (slotFor s h v)) ⟨c.memory, c.leaves, c.gain⟩ h v.side _

theorem faceAlone_slotTakenBy : FaceAlone s (slotTakenBy s h v i) h v.side :=
  ⟨(faceAlone_setFace (s := s.setSlot i (slotFor s h v)) ⟨c.memory, c.leaves, c.gain⟩ h v.side _).record,
    (faceAlone_setFace (s := s.setSlot i (slotFor s h v)) ⟨c.memory, c.leaves, c.gain⟩ h v.side _).others⟩

theorem cleanLeaf_slotTakenBy {n : Nat} (hl : s.cleanLeaf h n) : (slotTakenBy s h v i).cleanLeaf h n :=
  cleanLeaf_setFace (s := s.setSlot i (slotFor s h v)) ⟨c.memory, c.leaves, c.gain⟩ hl _

end Taken

/-! ### The slots of all sides -/

/-- A side's capture has its slot: the lowest FREE one, but for one that the LEFT side has taken. -/
structure SlotTaken (s t : State) (h : Handle) (slots : PerHead (Option SlotNo)) (v : SideView) (i : SlotNo) : Prop where
  got : slots.get v.head = some i
  lowest : ∀ j, (s.slot j).state = .free → j < i → v.head = .right ∧ slots.left = some j
  filled : t.slot i = slotFor s h v
  face : t.face h v.side = (s.face h v.side).modPanel v.panel (exposingIn i)

/-- Each of some sides has its slot, and nothing else is written. -/
structure SlotsTaken (s t : State) (h : Handle) (vs : List SideView) (slots : PerHead (Option SlotNo)) : Prop where
  taken : ∀ v ∈ vs, ∃ i, SlotTaken s t h slots v i
  without : ∀ p, (∀ v ∈ vs, v.head ≠ p) → slots.get p = none
  free : ∀ p i, slots.get p = some i → (s.slot i).state = .free
  stays : ∀ j, slots.left ≠ some j → slots.right ≠ some j → t.slot j = s.slot j
  frame : t = { s with slots := t.slots, leaves := t.leaves }
  written : SidesWritten s t h (vs.map (·.side))
  clean : ∀ n, s.cleanLeaf h n → t.cleanLeaf h n
  canonical : t.Canonical

theorem slotsTaken_nil {s : State} (c : s.Canonical) (h : Handle) : SlotsTaken s s h [] ⟨none, none⟩ where
  taken := nofun
  without p _ := by cases p <;> rfl
  free p i hp := by cases p <;> cases hp
  stays _ _ _ := rfl
  frame := rfl
  written := sidesWritten_refl s h []
  clean _ := id
  canonical := c

theorem get_set_head (slots : PerHead (Option SlotNo)) (p q : Head) (i : Option SlotNo) :
    (slots.set p i).get q = if q = p then i else slots.get q := by
  cases p <;> cases q <;> rfl

section Cons
variable {s t : State} {h : Handle} {v : SideView} {vs : List SideView} {i : SlotNo} {slots : PerHead (Option SlotNo)}

variable (c : s.Canonical) (r : SidesReady s h (v :: vs)) (hi : s.freeSlot? = some i)
  (a : SlotsTaken (slotTakenBy s h v i) t h vs slots)
include a

theorem slot_ne_taken {p : Head} : slots.get p ≠ some i := fun hp => by
  have hstate := a.free p i hp
  rw [slot_slotTakenBy, if_pos rfl] at hstate
  cases hstate

theorem free_of_rest {p : Head} {j : SlotNo} (hp : slots.get p = some j) : (s.slot j).state = .free := by
  have hstate := a.free p j hp
  rw [slot_slotTakenBy] at hstate
  split at hstate
  · cases hstate
  · exact hstate

include c r hi in
theorem slotsTaken_cons : SlotsTaken s t h (v :: vs) (slots.set v.head (some i)) := by
  obtain ⟨hfree, hlowest⟩ := freeSlot_lowest hi
  have apart := apart_of_ready r
  have hone : SidesWritten s (slotTakenBy s h v i) h [v.side] :=
    sidesWritten_of_faceAlone ⟨fun d hd => List.mem_singleton.1 hd ▸ r.low v List.mem_cons_self,
      fun d hd e he => .inl ((List.mem_singleton.1 hd).trans (List.mem_singleton.1 he).symm)⟩ List.mem_cons_self
      (faceAlone_slotTakenBy c)
  have hheads (w : SideView) (hw : w ∈ vs) : w.head ≠ v.head := by
    rw [(apart w hw).1, (apart w hw).2.1]
    decide
  refine ⟨fun w hw => ?taken, fun p hp => ?without, fun p j hp => ?free, fun j hl hr => ?stays, ?frame, ?written,
    fun n hn => a.clean n (cleanLeaf_slotTakenBy c hn), a.canonical⟩
  case taken =>
    rcases List.mem_cons.1 hw with rfl | hw
    · refine ⟨i, (get_set_head _ _ _ _).trans (if_pos rfl), fun j hj hlt => ?_, ?_, ?_⟩
      · exact absurd hlt (Nat.not_lt.2 (hlowest j hj))
      · rw [a.stays i (slot_ne_taken a (p := .left)) (slot_ne_taken a (p := .right)), slot_slotTakenBy, if_pos rfl]
      · rw [face_of_written a.written (r.low w List.mem_cons_self) fun d hd => ?_, face_slotTakenBy c]
        obtain ⟨u, hu, rfl⟩ := List.mem_map.1 hd
        exact (apart u hu).2.2.symm
    · obtain ⟨hleft, hright, hne⟩ := apart w hw
      obtain ⟨j, hj⟩ := a.taken w hw
      have hnone : slots.left = none := a.without .left fun u hu => hleft ▸ hheads u hu
      have hslots : (slots.set v.head (some i)).left = some i := by rw [hleft]; rfl
      refine ⟨j, ?_, fun n hn hlt => ⟨hright, hslots.trans ?_⟩, hj.filled.trans ?_, ?_⟩
      · rw [get_set_head, if_neg (hheads w hw)]
        exact hj.got
      · by_cases hni : n = i
        · rw [hni]
        · have hlow := (hj.lowest n (by rw [slot_slotTakenBy, if_neg hni]; exact hn) hlt).2
          rw [hnone] at hlow
          cases hlow
      · rfl
      · rw [hj.face, face_of_written hone (r.low w (List.mem_cons_of_mem v hw)) fun d hd => ?_]
        rw [List.mem_singleton.1 hd]
        exact hne
  case without =>
    rw [get_set_head, if_neg (hp v List.mem_cons_self).symm]
    exact a.without p fun w hw => hp w (List.mem_cons_of_mem v hw)
  case free =>
    rw [get_set_head] at hp
    split at hp
    · exact Option.some.inj hp ▸ hfree
    · exact free_of_rest a hp
  case stays =>
    have hnone : slots.get v.head = none := a.without v.head hheads
    have hrest (p : Head) (hp : (slots.set v.head (some i)).get p ≠ some j) : slots.get p ≠ some j := by
      rw [get_set_head] at hp
      split at hp
      · next e =>
        rw [e, hnone]
        exact Option.some_ne_none j |>.symm
      · exact hp
    have hji : j ≠ i := fun e => by
      have hgot : (slots.set v.head (some i)).get v.head = some j := (get_set_head _ _ _ _).trans ((if_pos rfl).trans (by rw [e]))
      cases hv : v.head with
      | left => exact hl (by rw [hv] at hgot ⊢; exact hgot)
      | right => exact hr (by rw [hv] at hgot ⊢; exact hgot)
    rw [a.stays j (hrest .left hl) (hrest .right hr), slot_slotTakenBy, if_neg hji]
  case frame => rw [a.frame]; rfl
  case written =>
    have apart := leavesApart_of_ready r
    exact sidesWritten_trans (sidesWritten_mono apart (List.cons_subset_cons _ (List.nil_subset _)) hone)
      (sidesWritten_mono apart (List.subset_cons_self _ _) a.written)

end Cons

/-- There being enough FREE slots, each side gets one. -/
theorem slotsTaken {s : State} (c : s.Canonical) {h : Handle} {vs : List SideView} (r : SidesReady s h vs)
    (hf : vs.length ≤ s.freeCount) : SlotsTaken s (s.allocateAll h vs).2 h vs (s.allocateAll h vs).1 := by
  induction vs generalizing s with
  | nil => exact slotsTaken_nil c h
  | cons v vs ih =>
    obtain ⟨i, hi⟩ := freeSlot_of_freeCount (Nat.lt_of_lt_of_le (Nat.succ_pos _) hf)
    have hcount : s.freeCount = (slotTakenBy s h v i).freeCount + 1 :=
      freeCount_setSlot (x := slotFor s h v) (freeSlot_lowest hi).1 nofun
    have hrest := ih (canonical_slotTakenBy c) (ready_of_clean (ready_tail r) fun w hw =>
      cleanLeaf_slotTakenBy (v := v) (i := i) c (r.clean w (List.mem_cons_of_mem v hw)))
      (Nat.le_of_succ_le_succ (Nat.le_trans hf (Nat.le_of_eq hcount)))
    rw [State.allocateAll, allocate_of_clean hi (r.clean v List.mem_cons_self)]
    exact slotsTaken_cons c r hi hrest

end Sys2Proof.Proofs
end

section
/-! SUPPORT. The doses of a capture start charged (R94, R95): to its sides and to its volume. -/
namespace Sys2Proof.Proofs
open Sys2Proof.Machine Sys2Proof.Laws

/-- A face that has received a dose. -/
def dosed (f : FaceRecord) (n : Nat) : FaceRecord := { f with dose := f.dose + n }

/-- A dose charged to a side whose record has no bit error (R95). -/
def sideCharged (s : State) (h : Handle) (d : Side) (n : Nat) : State :=
  { s.setFace h d (dosed (s.face h d) n) with
    vols := s.vols.set h { s.vol h with highestSideDose := max (s.vol h).highestSideDose ((s.face h d).dose + n) } }

theorem chargeSide_of_clean {s : State} (c : s.Canonical) {h : Handle} (hv : (s.vol h).errors.single = 0) {d : Side}
    (hl : s.cleanLeaf h d.leaf) (n : Nat) : s.chargeSide h d n = sideCharged s h d n := by
  have hupdate : s.updateFace h d [.dose d.face] (fun f => { f with dose := f.dose + n }) =
      (true, s.setFace h d (dosed (s.face h d) n)) := by
    rw [State.updateFace, readLeaf_of_clean hl.1 hl.2]
    rfl
  have hdose : ((s.setFace h d (dosed (s.face h d) n)).face h d).dose = (s.face h d).dose + n := by
    rw [face_setFace_same c]
    rfl
  rw [State.chargeSide, hupdate]
  dsimp only
  rw [modVol_of_clean (s := s.setFace h d _) hv, hdose]
  rfl

section Charged
variable {s : State} (c : s.Canonical) {h : Handle} {d : Side} {n : Nat}

theorem vol_sideCharged_same : (sideCharged s h d n).vol h =
    { s.vol h with highestSideDose := max (s.vol h).highestSideDose ((s.face h d).dose + n) } :=
  PerHandle_get_set_same _ _ _

theorem vol_sideCharged_ne {h' : Handle} (hne : h' ≠ h) : (sideCharged s h d n).vol h' = s.vol h' :=
  PerHandle_get_set_ne _ _ hne.symm

theorem leaves_sideCharged : (sideCharged s h d n).leaves = (s.setFace h d (dosed (s.face h d) n)).leaves := rfl

include c

theorem canonical_sideCharged : (sideCharged s h d n).Canonical := by
  have c' := canonical_setFace c h d (dosed (s.face h d) n)
  exact ⟨c'.memory, c'.leaves, c'.gain⟩

theorem face_sideCharged : (sideCharged s h d n).face h d = dosed (s.face h d) n :=
  (face_of_leaves leaves_sideCharged h d).trans (face_setFace_same c h d _)

theorem faceAlone_sideCharged : FaceAlone s (sideCharged s h d n) h d :=
  faceAlone_of_leaves (faceAlone_setFace c h d (dosed (s.face h d) n)) leaves_sideCharged

theorem cleanLeaf_sideCharged {m : Nat} (hl : s.cleanLeaf h m) : (sideCharged s h d n).cleanLeaf h m :=
  cleanLeaf_setFace c hl (dosed (s.face h d) n)

end Charged

/-- Doses have been charged to some sides, and nothing else is written. -/
structure SidesCharged (s t : State) (h : Handle) (vs : List SideView) (g : SideView → Nat) : Prop where
  face : ∀ v ∈ vs, t.face h v.side = dosed (s.face h v.side) (g v)
  vol : t.vol h = { s.vol h with
    highestSideDose := vs.foldl (fun m v => max m ((s.face h v.side).dose + g v)) (s.vol h).highestSideDose }
  vols : ∀ h', h' ≠ h → t.vol h' = s.vol h'
  frame : t = { s with vols := t.vols, leaves := t.leaves }
  written : SidesWritten s t h (vs.map (·.side))
  recorded : SidesRecorded s t h (vs.map (·.side))
  clean : ∀ n, s.cleanLeaf h n → t.cleanLeaf h n
  canonical : t.Canonical

theorem sidesCharged {s : State} (c : s.Canonical) {h : Handle} (hv : (s.vol h).errors.single = 0)
    {vs : List SideView} (r : SidesReady s h vs) (g : SideView → Nat) :
    SidesCharged s (vs.foldl (fun t v => t.chargeSide h v.side (g v)) s) h vs g := by
  induction vs generalizing s with
  | nil => exact ⟨nofun, rfl, fun _ _ => rfl, rfl, sidesWritten_refl s h [], nofun, fun _ => id, c⟩
  | cons v vs ih =>
    have apart := apart_of_ready r
    have hlow := r.low v List.mem_cons_self
    let t : State := sideCharged s h v.side (g v)
    have hone : SidesWritten s t h [v.side] :=
      sidesWritten_of_faceAlone ⟨fun d hd => List.mem_singleton.1 hd ▸ hlow,
        fun d hd e he => .inl ((List.mem_singleton.1 hd).trans (List.mem_singleton.1 he).symm)⟩ List.mem_cons_self
        (faceAlone_sideCharged c)
    have hface (w : SideView) (hw : w ∈ vs) : t.face h w.side = s.face h w.side :=
      face_of_written hone (r.low w (List.mem_cons_of_mem v hw)) fun d hd => by
        rw [List.mem_singleton.1 hd]
        exact (apart w hw).2.2
    have hrest := ih (s := t) (canonical_sideCharged c) (by rw [vol_sideCharged_same]; exact hv)
      (ready_of_clean (ready_tail r) fun w hw => cleanLeaf_sideCharged c (r.clean w (List.mem_cons_of_mem v hw)))
    rw [List.foldl_cons, chargeSide_of_clean c hv (r.clean v List.mem_cons_self)]
    refine ⟨fun w hw => ?face, ?vol, fun h' hne => (hrest.vols h' hne).trans (vol_sideCharged_ne hne), ?frame, ?written, ?recorded,
      fun n hn => hrest.clean n (cleanLeaf_sideCharged c hn), hrest.canonical⟩
    case face =>
      rcases List.mem_cons.1 hw with rfl | hw
      · rw [face_of_written hrest.written hlow fun d hd => ?_, face_sideCharged c]
        obtain ⟨u, hu, rfl⟩ := List.mem_map.1 hd
        exact (apart u hu).2.2.symm
      · rw [hrest.face w hw, hface w hw]
    case vol =>
      rw [hrest.vol, vol_sideCharged_same, List.foldl_cons]
      exact congrArg (fun m => { s.vol h with highestSideDose := m })
        (foldl_of_steps (fun m (w : SideView) => max m ((t.face h w.side).dose + g w))
          (fun m w => max m ((s.face h w.side).dose + g w)) _ fun m w hw => by rw [hface w hw])
    case frame => rw [hrest.frame]; rfl
    case written =>
      have apart := leavesApart_of_ready r
      exact sidesWritten_trans (sidesWritten_mono apart (List.cons_subset_cons _ (List.nil_subset _)) hone)
        (sidesWritten_mono apart (List.subset_cons_self _ _) hrest.written)
    case recorded =>
      refine fun d hd => ?_
      rcases List.mem_cons.1 hd with rfl | hd
      · have hstays := hrest.written.others h v.side.leaf hlow (.inr fun e he => by
          obtain ⟨u, hu, rfl⟩ := List.mem_map.1 he
          exact (apart u hu).2.2.symm)
        rw [State.face, hstays]
        exact (faceAlone_sideCharged c).record
      · obtain ⟨w, hw, rfl⟩ := List.mem_map.1 hd
        have hstays := hone.others h w.side.leaf (r.low w (List.mem_cons_of_mem v hw)) (.inr fun e he => by
          rw [List.mem_singleton.1 he]
          exact (apart w hw).2.2)
        rw [hrest.recorded _ hd, hstays]

end Sys2Proof.Proofs
end

section
/-! SUPPORT. The light of a capture start (R94, R95) and its heads (R109, R110). -/
namespace Sys2Proof.Proofs
open Sys2Proof.Machine Sys2Proof.Laws

/-! ### The banks that are lit (R94) -/

theorem fire_get (b : PerBank (Option Nat)) (k k' : Bank) (n : Nat) :
    (b.fire k n).get k' = if k' = k ∧ n ≠ 0 then some n else b.get k' := by
  unfold PerBank.fire
  by_cases hn : n = 0
  · rw [if_pos hn, if_neg fun e => e.2 hn]
  · rw [if_neg hn]
    cases k <;> cases k' <;> simp [PerBank.set, PerBank.get, hn]

theorem firePosition_get_ne (b : PerBank (Option Nat)) {p q : Head} (hne : q ≠ p) (l : LightLatch) :
    (b.firePosition p l).get (upperBank q) = b.get (upperBank q) ∧
    (b.firePosition p l).get (lowerBank q) = b.get (lowerBank q) := by
  unfold PerBank.firePosition
  cases p <;> cases q <;> first | exact absurd rfl hne | simp [fire_get, upperBank, lowerBank]

theorem firePosition_get_same (b : PerBank (Option Nat)) (p : Head) (l : LightLatch) :
    (b.firePosition p l).get (upperBank p) =
      (if l.upperDuration = 0 then b.get (upperBank p) else some l.upperDuration) ∧
    (b.firePosition p l).get (lowerBank p) =
      if l.lowerDuration = 0 then b.get (lowerBank p) else some l.lowerDuration := by
  unfold PerBank.firePosition
  cases p <;> simp [fire_get, upperBank, lowerBank]

/-- A position's banks fired, if it is lit. -/
def positionFired (b : PerBank (Option Nat)) (p : Head) (l : Option LightLatch) : PerBank (Option Nat) :=
  (l.map fun l => b.firePosition p l).getD b

section Fire
variable (s : State) (kind : CaptureKind) (lit : PerHead (Option LightLatch))
  (charged : Option (Nat × PerHead (Option Side)))

theorem strobes_fire : (s.fire kind lit charged).light.strobes =
    positionFired (positionFired s.light.strobes .left lit.left) .right lit.right := by
  unfold State.fire
  rcases lit with ⟨- | l, - | r⟩ <;> rfl

theorem positionFired_get_ne (b : PerBank (Option Nat)) {p q : Head} (hne : q ≠ p) (l : Option LightLatch) :
    (positionFired b p l).get (upperBank q) = b.get (upperBank q) ∧
    (positionFired b p l).get (lowerBank q) = b.get (lowerBank q) := by
  cases l with
  | none => exact ⟨rfl, rfl⟩
  | some l => exact firePosition_get_ne b hne l

/-- The banks of a position depend on its own part of the firing alone. -/
theorem strobes_fire_get (p : Head) :
    (s.fire kind lit charged).light.strobes.get (upperBank p) =
      (positionFired s.light.strobes p (lit.get p)).get (upperBank p) ∧
    (s.fire kind lit charged).light.strobes.get (lowerBank p) =
      (positionFired s.light.strobes p (lit.get p)).get (lowerBank p) := by
  rw [strobes_fire]
  cases p with
  | left => exact positionFired_get_ne _ (by decide) _
  | right =>
    obtain ⟨hu, hl⟩ := positionFired_get_ne s.light.strobes (p := .left) (q := .right) (by decide) lit.left
    cases hr : lit.right with
    | none =>
      rw [show lit.get .right = none from hr]
      exact ⟨hu, hl⟩
    | some r =>
      rw [show lit.get .right = some r from hr]
      obtain ⟨hu', hl'⟩ := firePosition_get_same (positionFired s.light.strobes .left lit.left) .right r
      obtain ⟨hu'', hl''⟩ := firePosition_get_same s.light.strobes .right r
      exact ⟨hu'.trans (by rw [hu]; exact hu''.symm), hl'.trans (by rw [hl]; exact hl''.symm)⟩

end Fire

/-! ### The doses (R95) -/

/-- What a side of a capture start is charged. -/
def plannedAt (s : State) (v : SideView) : Nat := (s.light.settings.latch v.head).planned

/-- The positions that a capture start lights. -/
def litPositions (s : State) (vs : List SideView) : PerHead (Option LightLatch) :=
  ⟨(viewAt vs .left).map fun v => s.light.settings.latch v.head,
    (viewAt vs .right).map fun v => s.light.settings.latch v.head⟩

/-- The sides that a capture start charges. -/
def sidesLit (vs : List SideView) : PerHead (Option Side) :=
  ⟨(viewAt vs .left).map (·.side), (viewAt vs .right).map (·.side)⟩

/-- The light of a capture start. -/
def lightUp (s : State) (h : Handle) (vs : List SideView) : State :=
  s.fire .normal (litPositions s vs) (some ((s.vol h).serial, sidesLit vs))

theorem fireAndCharge_eq (s : State) (h : Handle) (vs : List SideView) : s.fireAndCharge h vs =
    (vs.foldl (fun t v => t.chargeSide h v.side (plannedAt s v)) (lightUp s h vs)).chargeVolume h
      (vs.map (plannedAt s)).sum := rfl

/-- A capture start has lit its positions and charged its sides and its volume, and nothing else is written. -/
structure ExposureCharged (s t : State) (h : Handle) (vs : List SideView) : Prop where
  face : ∀ v ∈ vs, t.face h v.side = dosed (s.face h v.side) (plannedAt s v)
  vol : t.vol h = { s.vol h with
    dose := (s.vol h).dose + (vs.map (plannedAt s)).sum
    highestSideDose := vs.foldl (fun m v => max m ((s.face h v.side).dose + plannedAt s v)) (s.vol h).highestSideDose }
  vols : ∀ h', h' ≠ h → t.vol h' = s.vol h'
  light : t.light = (lightUp s h vs).light
  frame : t = { s with vols := t.vols, leaves := t.leaves, light := t.light }
  written : SidesWritten s t h (vs.map (·.side))
  recorded : SidesRecorded s t h (vs.map (·.side))
  clean : ∀ n, s.cleanLeaf h n → t.cleanLeaf h n

theorem exposureCharged {s : State} (c : s.Canonical) {h : Handle} (hv : (s.vol h).errors.single = 0)
    {vs : List SideView} (r : SidesReady s h vs) : ExposureCharged s (s.fireAndCharge h vs) h vs := by
  have hsides := sidesCharged (s := lightUp s h vs) ⟨c.memory, c.leaves, c.gain⟩ hv
    (ready_of_clean r r.clean) (plannedAt s)
  have hclean : ((vs.foldl (fun t v => t.chargeSide h v.side (plannedAt s v)) (lightUp s h vs)).vol h).errors.single = 0 := by
    rw [hsides.vol]
    exact hv
  rw [fireAndCharge_eq, State.chargeVolume, modVol_of_clean hclean]
  refine ⟨hsides.face, ?vol, fun h' hne => (PerHandle_get_set_ne _ _ hne.symm).trans (hsides.vols h' hne), ?light, ?frame,
    ⟨hsides.written.others, hsides.written.record⟩, hsides.recorded, hsides.clean⟩
  case vol =>
    refine (PerHandle_get_set_same _ _ _).trans ?_
    rw [hsides.vol]
    rfl
  case light => exact (congrArg State.light hsides.frame :)
  case frame =>
    have hframe := hsides.frame
    generalize vs.foldl (fun t v => t.chargeSide h v.side (plannedAt s v)) (lightUp s h vs) = t at hframe ⊢
    rw [hframe]
    rfl

/-! ### The heads (R109, R110) -/

/-- A head whose capture starts for a side. -/
def headStarted (s : State) (slots : PerHead (Option SlotNo)) (v : SideView) : HeadUnit :=
  (s.head v.head).start .normal (slots.get v.head) (some ⟨v.side.leaf, v.side.face, v.panel⟩) (s.snapshot v.head 0)
    (s.timers.frame.get v.head)

/-- The heads of some sides have started, and nothing else is written. -/
structure HeadsStarted (s t : State) (slots : PerHead (Option SlotNo)) (vs : List SideView) : Prop where
  head : ∀ v ∈ vs, t.head v.head = headStarted s slots v
  others : ∀ p, (∀ v ∈ vs, v.head ≠ p) → t.head p = s.head p
  frame : t = { s with heads := t.heads }

theorem headsStarted (s : State) (slots : PerHead (Option SlotNo)) {vs : List SideView}
    (hn : (vs.map (·.head)).Nodup) : HeadsStarted s (vs.foldl (State.triggerSide slots) s) slots vs := by
  induction vs generalizing s with
  | nil => exact ⟨nofun, fun _ _ => rfl, rfl⟩
  | cons v vs ih =>
    obtain ⟨hnot, hn⟩ := List.nodup_cons.1 hn
    have hrest := ih (s.triggerSide slots v) hn
    have hsame : (s.triggerSide slots v).head v.head = headStarted s slots v := PerHead_get_set_same _ _ _
    have hother {p : Head} (hp : v.head ≠ p) : (s.triggerSide slots v).head p = s.head p := PerHead_get_set_ne _ _ hp
    have hne (w : SideView) (hw : w ∈ vs) : w.head ≠ v.head := fun e => hnot (List.mem_map.2 ⟨w, hw, e⟩)
    rw [List.foldl_cons]
    refine ⟨fun w hw => ?_, fun p hp => ?_, ?_⟩
    · rcases List.mem_cons.1 hw with rfl | hw
      · exact (hrest.others w.head hne).trans hsame
      · rw [hrest.head w hw, headStarted, State.snapshot, hother (hne w hw).symm]
        rfl
    · exact (hrest.others p fun w hw => hp w (List.mem_cons_of_mem v hw)).trans (hother (hp v List.mem_cons_self))
    · rw [hrest.frame]
      rfl

end Sys2Proof.Proofs
end

section
/-! SUPPORT. A capture start as a whole (R109, R30, R31, R94, R95, R110). -/
namespace Sys2Proof.Proofs
open Sys2Proof.Machine Sys2Proof.Laws

/-! ### The slots a start could take -/

theorem heldFor_eq (x : Slot) (owners : List Owner) :
    heldFor x owners = (x.availableFor owners && x.state == .provisional) := by
  rw [availableFor_eq, heldFor]
  generalize owners.any (fun o => x.owner == some o) = held
  cases x.state <;> cases held <;> rfl

theorem owner_of_heldFor {x : Slot} {h : Handle} {vs : List SideView} (hx : heldFor x (vs.map (·.owner h)) = true) :
    ∃ o, x.owner = some o ∧ o.handle = h := by
  obtain ⟨o, hmem, ho⟩ := List.any_eq_true.1 (Bool.and_eq_true_iff.1 hx).2
  obtain ⟨v, -, rfl⟩ := List.mem_map.1 hmem
  exact ⟨_, beq_iff_eq.1 ho, rfl⟩

theorem ownedAmong_heldFor (s : State) (h : Handle) (vs : List SideView) (h' : Handle) :
    s.ownedAmong h' (fun i => heldFor (s.slot i) (vs.map (·.owner h))) =
      if h' = h then allSlots.countP fun i => heldFor (s.slot i) (vs.map (·.owner h)) else 0 := by
  unfold State.ownedAmong
  split
  · next e =>
    refine List.countP_congr fun i _ => ?_
    refine Bool.and_eq_true_iff.trans (and_iff_left_of_imp fun hi => ?_)
    obtain ⟨o, ho, hh⟩ := owner_of_heldFor hi
    rw [ho, e, ← hh]
    simp
  · next e =>
    refine List.countP_eq_zero.2 fun i _ hi => ?_
    obtain ⟨hi, hown⟩ := Bool.and_eq_true_iff.1 hi
    obtain ⟨o, ho, hh⟩ := owner_of_heldFor hi
    rw [ho] at hown
    exact e ((of_decide_eq_true hown).symm.trans hh)

/-! ### The slots after the held captures were replaced -/

section Replaced
variable {s t : State} {owners : List Owner}
  (a : PartsGone s t (fun i => heldFor (s.slot i) owners) fun _ => false)
include a

theorem slot_of_replaced (i : SlotNo) :
    t.slot i = if heldFor (s.slot i) owners = true then Slot.cleared else s.slot i := by
  rw [a.slots i, Bool.or_false]

theorem free_of_replaced (i : SlotNo) : ((t.slot i).state == .free) = (s.slot i).availableFor owners := by
  rw [slot_of_replaced a, availableFor_eq]
  split
  · next h => rw [h, Bool.or_true]; rfl
  · next h => rw [eq_false_of_ne_true h, Bool.or_false]

theorem available_of_free {i : SlotNo} (hi : (t.slot i).state = .free) : (s.slot i).availableFor owners = true := by
  rw [← free_of_replaced a, hi]
  rfl

theorem free_of_available {i : SlotNo} (hi : (s.slot i).availableFor owners = true) : (t.slot i).state = .free :=
  beq_iff_eq.1 ((free_of_replaced a i).trans hi)

theorem freeCount_replaced : t.freeCount = allSlots.countP fun i => (s.slot i).availableFor owners :=
  (freeCount_eq t).trans (congrArg (fun p => allSlots.countP p) (funext (free_of_replaced a)))

theorem panel_of_replaced (h : Handle) {d : Side} (hd : d.leaf ≤ 2047) (p : Nat) (i : SlotNo) :
    exposingIn i ((t.face h d).panel p) = exposingIn i ((s.face h d).panel p) := by
  rw [a.panel h d p hd]
  simp [exposingIn]

end Replaced

/-! ### A face exposed -/

theorem panelOnly_dosed {f g : FaceRecord} {p : Nat} (a : PanelOnly f g p) (n : Nat) : PanelOnly (dosed f n) (dosed g n) p :=
  ⟨a.panels, congrArg (dosed · n) a.rest⟩

theorem dose_of_panelOnly {f g : FaceRecord} {p : Nat} (a : PanelOnly f g p) : g.dose = f.dose :=
  (congrArg FaceRecord.dose a.rest :)

/-! ### The capture start -/

/-- A side's exposure has started: its capture has a slot, its face a panel being exposed and a dose, and its head the
capture. -/
structure SideExposed (s t : State) (h : Handle) (owners : List Owner) (slots : PerHead (Option SlotNo)) (v : SideView)
    (i : SlotNo) : Prop where
  got : slots.get v.head = some i
  available : (s.slot i).availableFor owners = true
  lowest : ∀ j, (s.slot j).availableFor owners = true → j < i → v.head = .right ∧ slots.left = some j
  filled : t.slot i = slotFor s h v
  panel : (t.face h v.side).panel v.panel = exposingIn i ((s.face h v.side).panel v.panel)
  face : PanelOnly (dosed (s.face h v.side) (plannedAt s v)) (t.face h v.side) v.panel
  head : t.head v.head = headStarted s slots v

/-- The volume of a capture start (R95, R35, R10). -/
def volumeExposed (s : State) (h : Handle) (vs : List SideView) : Volume :=
  { s.vol h with
    dose := (s.vol h).dose + (vs.map (plannedAt s)).sum
    highestSideDose := vs.foldl (fun m v => max m ((s.face h v.side).dose + plannedAt s v)) (s.vol h).highestSideDose
    counters := { (s.vol h).counters with
      attempts := (s.vol h).counters.attempts + BitVec.ofNat 32 vs.length
      discarded := (s.vol h).counters.discarded +
        BitVec.ofNat 32 (allSlots.countP fun j => heldFor (s.slot j) (vs.map (·.owner h))) } }

/-- A capture start has been made for some sides, and nothing else is written. -/
structure ExposureStarted (s t : State) (h : Handle) (vs : List SideView) (slots : PerHead (Option SlotNo)) : Prop where
  exposed : ∀ v ∈ vs, ∃ i, SideExposed s t h (vs.map (·.owner h)) slots v i
  without : ∀ p, (∀ v ∈ vs, v.head ≠ p) → slots.get p = none ∧ t.head p = s.head p
  stays : ∀ j, slots.left ≠ some j → slots.right ≠ some j →
    t.slot j = if heldFor (s.slot j) (vs.map (·.owner h)) = true then Slot.cleared else s.slot j
  vol : t.vol h = volumeExposed s h vs
  vols : ∀ h', h' ≠ h → t.vol h' = s.vol h'
  light : t.light = (lightUp s h vs).light
  queue : t.delivery.queue = s.delivery.queue.filter fun j => !heldFor (s.slot j) (vs.map (·.owner h))
  frame : t = { s with
    vols := t.vols, leaves := t.leaves, slots := t.slots, heads := t.heads, light := t.light
    delivery := { s.delivery with queue := t.delivery.queue } }
  written : SidesWritten s t h (vs.map (·.side))
  recorded : SidesRecorded s t h (vs.map (·.side))
  clean : ∀ n, n ≤ 2047 → s.cleanLeaf h n → t.cleanLeaf h n

/-- The attempts of a capture start counted. -/
def attemptsCounted (s : State) (h : Handle) (n : Nat) : State :=
  { s with vols := s.vols.set h { s.vol h with counters := { (s.vol h).counters with
      attempts := (s.vol h).counters.attempts + BitVec.ofNat 32 n } } }

theorem startExposure_eq {s : State} {h : Handle} {vs : List SideView}
    (hc : (((vs.foldl (fun t v => t.replaceHeld h v) s).allocateAll h vs).2.vol h).errors.single = 0) :
    s.startExposure h vs =
      (((vs.foldl (fun t v => t.replaceHeld h v) s).allocateAll h vs).1,
        vs.foldl (State.triggerSide ((vs.foldl (fun t v => t.replaceHeld h v) s).allocateAll h vs).1)
          ((attemptsCounted ((vs.foldl (fun t v => t.replaceHeld h v) s).allocateAll h vs).2 h vs.length).fireAndCharge h vs)) := by
  rw [State.startExposure]
  dsimp only
  rw [count_of_clean hc]
  rfl

theorem heads_nodup_of_ready {s : State} {h : Handle} {vs : List SideView} (r : SidesReady s h vs) :
    (vs.map (·.head)).Nodup := by
  refine List.pairwise_map.2 (r.order.imp fun {v w} (a : v.head = .left ∧ w.head = .right ∧ v.side.leaf ≠ w.side.leaf) => ?_)
  rw [a.1, a.2.1]
  decide

/-! ### What a start reads of the state -/

section Reads
variable {s t : State} {h : Handle}

theorem plannedAt_congr (hl : t.light.settings = s.light.settings) : plannedAt t = plannedAt s := by
  funext v
  rw [plannedAt, plannedAt, hl]

theorem slotFor_congr (hl : t.light.settings = s.light.settings) (hh : t.heads = s.heads) (v : SideView) :
    slotFor t h v = slotFor s h v := by
  simp only [slotFor, State.head, hl, hh]

theorem headStarted_congr (hl : t.light.settings = s.light.settings) (hh : t.heads = s.heads) (hk : t.keep = s.keep)
    (ht : t.timers = s.timers) (slots : PerHead (Option SlotNo)) (v : SideView) :
    headStarted t slots v = headStarted s slots v := by
  simp only [headStarted, State.snapshot, State.head, hl, hh, hk, ht]

theorem lightUp_congr (hl : t.light = s.light) (hs : (t.vol h).serial = (s.vol h).serial) (vs : List SideView) :
    (lightUp t h vs).light = (lightUp s h vs).light := by
  simp only [lightUp, State.fire, litPositions, hl, hs]

end Reads

/-! ### The stages together -/

section Stages
variable {s r a t u : State} {h : Handle} {vs : List SideView} {slots : PerHead (Option SlotNo)}
  (replaced : PartsGone s r (fun i => heldFor (s.slot i) (vs.map (·.owner h))) fun _ => false)
  (taken : SlotsTaken r a h vs slots)

include replaced taken

theorem light_allocated : a.light = s.light :=
  (congrArg State.light taken.frame :).trans (congrArg State.light replaced.eq :)

theorem heads_allocated : a.heads = s.heads :=
  (congrArg State.heads taken.frame :).trans (congrArg State.heads replaced.eq :)

theorem vol_allocated (h' : Handle) : a.vol h' = discounted (s.vol h')
    (if h' = h then allSlots.countP fun i => heldFor (s.slot i) (vs.map (·.owner h)) else 0) 0 := by
  have hvols : a.vol h' = r.vol h' := (congrArg (fun x : State => x.vol h') taken.frame :)
  have hnone : (s.ownedAmong h' fun _ => false) = 0 := by simp [State.ownedAmong]
  rw [hvols, replaced.vols h', hnone, ← ownedAmong_heldFor]
  simp only [Bool.or_false]

variable (charged : ExposureCharged (attemptsCounted a h vs.length) t h vs)
include charged

theorem vol_charged (hdose : ∀ v ∈ vs, (a.face h v.side).dose = (s.face h v.side).dose) :
    t.vol h = volumeExposed s h vs := by
  have hlight : (attemptsCounted a h vs.length).light = s.light := (light_allocated replaced taken :)
  have hplan := plannedAt_congr (congrArg Lighting.settings hlight)
  have hcounted : (attemptsCounted a h vs.length).vol h = { a.vol h with counters := { (a.vol h).counters with
      attempts := (a.vol h).counters.attempts + BitVec.ofNat 32 vs.length } } := PerHandle_get_set_same _ _ _
  have hface (v : SideView) : (attemptsCounted a h vs.length).face h v.side = a.face h v.side := rfl
  have hhigh (m : Nat) : vs.foldl (fun m v => max m ((a.face h v.side).dose + plannedAt s v)) m =
      vs.foldl (fun m v => max m ((s.face h v.side).dose + plannedAt s v)) m :=
    foldl_of_steps _ _ _ fun m v hv => by rw [hdose v hv]
  rw [charged.vol, hplan, hcounted]
  simp only [hface, hhigh]
  rw [vol_allocated replaced taken h, if_pos rfl]
  simp [discounted, volumeExposed]

theorem vols_charged {h' : Handle} (hne : h' ≠ h) : t.vol h' = s.vol h' := by
  have hcounted : (attemptsCounted a h vs.length).vol h' = a.vol h' := PerHandle_get_set_ne _ _ hne.symm
  rw [charged.vols h' hne, hcounted, vol_allocated replaced taken, if_neg hne]
  simp [discounted]

theorem light_charged : t.light = (lightUp s h vs).light := by
  have hcounted : (attemptsCounted a h vs.length).vol h = { a.vol h with counters := { (a.vol h).counters with
      attempts := (a.vol h).counters.attempts + BitVec.ofNat 32 vs.length } } := PerHandle_get_set_same _ _ _
  have hlight : (attemptsCounted a h vs.length).light = s.light := (light_allocated replaced taken :)
  refine charged.light.trans (lightUp_congr hlight ?_ vs)
  rw [hcounted, vol_allocated replaced taken]
  rfl

theorem heads_charged : t.heads = s.heads := by
  have hheads : t.heads = a.heads := (congrArg State.heads charged.frame :)
  exact hheads.trans (heads_allocated replaced taken)

theorem headStarted_charged (v : SideView) : headStarted t slots v = headStarted s slots v := by
  have hkeep : t.keep = a.keep := (congrArg State.keep charged.frame :)
  have htimers : t.timers = a.timers := (congrArg State.timers charged.frame :)
  refine headStarted_congr (by rw [light_charged replaced taken charged]; rfl)
    (heads_charged replaced taken charged) ?_ ?_ slots v
  · exact (hkeep.trans (congrArg State.keep taken.frame :)).trans (congrArg State.keep replaced.eq :)
  · exact (htimers.trans (congrArg State.timers taken.frame :)).trans (congrArg State.timers replaced.eq :)

end Stages

end Sys2Proof.Proofs
end

section
/-! SUPPORT. A capture start as a whole (R109). -/
namespace Sys2Proof.Proofs
open Sys2Proof.Machine Sys2Proof.Laws

/-- A state with the fields that a capture start writes taken from another. -/
def startFrame (u s : State) : State :=
  { s with
    vols := u.vols, leaves := u.leaves, slots := u.slots, heads := u.heads, light := u.light
    delivery := { s.delivery with queue := u.delivery.queue } }

section Started
variable {s r a t u : State} {h : Handle} {vs : List SideView} {slots : PerHead (Option SlotNo)}
  (ready : SidesReady s h vs)
  (replaced : PartsGone s r (fun i => heldFor (s.slot i) (vs.map (·.owner h))) fun _ => false)
  (faces : ∀ v ∈ vs, PanelOnly (s.face h v.side) (r.face h v.side) v.panel)
  (taken : SlotsTaken r a h vs slots)
  (charged : ExposureCharged (attemptsCounted a h vs.length) t h vs)
  (started : HeadsStarted t u slots vs)

section Faces
variable {v : SideView} {i : SlotNo} (hv : v ∈ vs) (hi : SlotTaken r a h slots v i)
include hv hi

include faces in
theorem panelOnly_taken : PanelOnly (s.face h v.side) (a.face h v.side) v.panel := by
  rw [hi.face]
  exact panelOnly_trans (faces v hv) (panelOnly_modPanel _ _ fun _ => rfl)

include ready replaced in
theorem panel_taken : (a.face h v.side).panel v.panel = exposingIn i ((s.face h v.side).panel v.panel) := by
  rw [hi.face, panel_modPanel (panel_number _ _), if_pos rfl]
  exact panel_of_replaced replaced h (ready.low v hv) v.panel i

include ready replaced faces taken charged started in
theorem sideExposed_of_stages : SideExposed s u h (vs.map (·.owner h)) slots v i := by
  have hface : u.face h v.side = dosed (a.face h v.side) (plannedAt s v) := by
    have hlight : (attemptsCounted a h vs.length).light = s.light := (light_allocated replaced taken :)
    have hplan := plannedAt_congr (congrArg Lighting.settings hlight)
    refine ((congrArg (fun x : State => x.face h v.side) started.frame :).trans (charged.face v hv)).trans ?_
    rw [hplan]
    rfl
  have hslot : u.slot i = a.slot i := (congrArg (fun x : State => x.slot i) started.frame :).trans
    (congrArg (fun x : State => x.slot i) charged.frame :)
  refine ⟨hi.got, available_of_free replaced (taken.free v.head i hi.got),
    fun j hj => hi.lowest j (free_of_available replaced hj), ?filled, ?panel, ?face, ?head⟩
  case filled =>
    refine (hslot.trans hi.filled).trans (slotFor_congr ?_ ?_ v)
    · exact congrArg Lighting.settings (congrArg State.light replaced.eq :)
    · exact (congrArg State.heads replaced.eq :)
  case panel =>
    rw [hface]
    exact panel_taken ready replaced hv hi
  case face =>
    rw [hface]
    exact panelOnly_dosed (panelOnly_taken faces hv hi) _
  case head => exact (started.head v hv).trans (headStarted_charged replaced taken charged v)

end Faces

include ready replaced faces taken charged started

theorem exposureStarted_of_stages (hw : SidesWritten s r h (vs.map (·.side))) : ExposureStarted s u h vs slots := by
  have hheads := heads_charged replaced taken charged
  have hvol (h' : Handle) : u.vol h' = t.vol h' := (congrArg (fun x : State => x.vol h') started.frame :)
  have hqueue : u.delivery = r.delivery := ((congrArg State.delivery started.frame :).trans
    (congrArg State.delivery charged.frame :)).trans (congrArg State.delivery taken.frame :)
  refine ⟨fun v hv => ?exposed, fun p hp => ⟨taken.without p hp, ?others⟩, fun j hl hr => ?stays, ?vol,
    fun h' hne => (hvol h').trans (vols_charged replaced taken charged hne), ?light, ?queue, ?frame, ?written, ?recorded,
    fun n hn hcl => ?clean⟩
  case exposed =>
    obtain ⟨i, hi⟩ := taken.taken v hv
    exact ⟨i, sideExposed_of_stages ready replaced faces taken charged started hv hi⟩
  case others =>
    refine (started.others p hp).trans ?_
    rw [State.head, hheads, State.head]
  case stays =>
    have hslot : u.slot j = a.slot j := (congrArg (fun x : State => x.slot j) started.frame :).trans
      (congrArg (fun x : State => x.slot j) charged.frame :)
    rw [hslot, taken.stays j hl hr, slot_of_replaced replaced]
  case vol =>
    refine (hvol h).trans (vol_charged replaced taken charged fun v hv => ?_)
    obtain ⟨i, hi⟩ := taken.taken v hv
    exact dose_of_panelOnly (panelOnly_taken faces hv hi)
  case light =>
    have hlight : u.light = t.light := (congrArg State.light started.frame :)
    exact hlight.trans (light_charged replaced taken charged)
  case queue =>
    rw [hqueue, replaced.queue]
    simp only [Bool.or_false]
  case frame =>
    have hallocated : startFrame u a = startFrame u s :=
      (congrArg (startFrame u) taken.frame :).trans (congrArg (startFrame u) replaced.eq :)
    have hstarted : startFrame u u = startFrame u a :=
      (congrArg (startFrame u) started.frame :).trans (congrArg (startFrame u) charged.frame :)
    exact hstarted.trans hallocated
  case written =>
    have hcounted : SidesWritten a (attemptsCounted a h vs.length) h (vs.map (·.side)) :=
      sidesWritten_of_leaves (s := a) (t := attemptsCounted a h vs.length) rfl h _
    have hstarted : SidesWritten t u h (vs.map (·.side)) :=
      sidesWritten_of_leaves (s := t) (congrArg State.leaves started.frame :) h _
    exact sidesWritten_trans (sidesWritten_trans (sidesWritten_trans (sidesWritten_trans hw taken.written) hcounted)
      charged.written) hstarted
  case recorded =>
    have hcounted : SidesWritten a (attemptsCounted a h vs.length) h (vs.map (·.side)) :=
      sidesWritten_of_leaves (s := a) (t := attemptsCounted a h vs.length) rfl h _
    have hbefore := sidesWritten_trans (sidesWritten_trans hw taken.written) hcounted
    exact recorded_of_leaves (t := t) (congrArg State.leaves started.frame :) (recorded_of_written hbefore charged.recorded)
  case clean =>
    have hlast := charged.clean n (taken.clean n (replaced.cleanLeaf hn hcl))
    rw [started.frame]
    exact hlast

end Started

theorem exposureStarted {s : State} (c : s.Canonical) (hc : s.TableClean) {h : Handle}
    (hv : (s.vol h).state ≠ .draining) {vs : List SideView} (ready : SidesReady s h vs)
    (hf : vs.length ≤ allSlots.countP fun i => (s.slot i).availableFor (vs.map (·.owner h))) :
    ExposureStarted s (s.startExposure h vs).2 h vs (s.startExposure h vs).1 := by
  obtain ⟨hreplaced, hw, hfaces⟩ := replaced c hc hv ready
  have hreplacedClean := hreplaced.tableClean hc
  have htaken := slotsTaken (hreplaced.canonical c)
    (ready_of_clean ready fun v hv => hreplaced.cleanLeaf (ready.low v hv) (ready.clean v hv))
    (Nat.le_trans hf (Nat.le_of_eq (freeCount_replaced hreplaced).symm))
  have hclean : (((vs.foldl (fun t v => t.replaceHeld h v) s).allocateAll h vs).2.vol h).errors.single = 0 := by
    rw [htaken.frame]
    exact vol_clean hreplacedClean h
  rw [startExposure_eq hclean]
  generalize vs.foldl (fun t v => t.replaceHeld h v) s = r at *
  generalize (r.allocateAll h vs).2 = a at *
  generalize (r.allocateAll h vs).1 = slots at *
  have hcharged := exposureCharged (s := attemptsCounted a h vs.length)
    ⟨htaken.canonical.memory, htaken.canonical.leaves, htaken.canonical.gain⟩
    (by rw [attemptsCounted, State.vol, PerHandle_get_set_same]; exact hclean)
    (ready_of_clean ready fun v hv => htaken.clean _ (hreplaced.cleanLeaf (ready.low v hv) (ready.clean v hv)))
  exact exposureStarted_of_stages ready hreplaced hfaces htaken hcharged
    (headsStarted _ slots (heads_nodup_of_ready ready)) hw

end Sys2Proof.Proofs
end

section
/-! O43. EXPOSE starts an exposure (R109, R30, R31, R94, R95, R110). -/
namespace Sys2Proof.Proofs
open Sys2Proof.Machine Sys2Proof.Laws

/-! ### The sides that are left of a request -/

section Rest
variable {s : State} {h : Handle} {k : Nat} {rest : List (Head × Nat)}

/-- Requests in the order LEFT, RIGHT (R107). -/
def InOrder (rs : List (Head × Nat)) : Prop := rs.Pairwise fun r q => r.1 = .left ∧ q.1 = .right

theorem requestsOf_inOrder (sides left right : Nat) : InOrder (requestsOf sides left right) := by
  unfold requestsOf InOrder
  split <;> simp

theorem ready_of_rest (hk : k ≤ 2046) (ho : InOrder rest) (hl : ∀ r ∈ rest, s.cleanLeaf h (sideAt k r.1).leaf) :
    SidesReady s h (rest.map (sideSeen s h k)) := by
  have low (p : Head) : (sideAt k p).leaf ≤ 2047 := by
    cases p
    · exact Nat.le_succ_of_le hk
    · exact Nat.succ_le_succ hk
  have order : rest.Pairwise fun r q => r.1 = .left ∧ q.1 = .right := ho
  refine ⟨List.pairwise_map.2 (order.imp fun {r q} e => ?_), fun v hv => ?_, fun v hv => ?_⟩
  · rw [head_sideSeen, head_sideSeen, side_sideSeen, side_sideSeen, e.1, e.2]
    exact ⟨rfl, rfl, (Nat.succ_ne_self k).symm⟩
  · obtain ⟨r, -, rfl⟩ := List.mem_map.1 hv
    rw [side_sideSeen]
    exact low r.1
  · obtain ⟨r, hr, rfl⟩ := List.mem_map.1 hv
    rw [side_sideSeen]
    exact hl r hr

theorem owners_rest : (rest.map (sideSeen s h k)).map (·.owner h) = rest.map fun r => panelAt h k r.1 r.2 := by
  rw [List.map_map]
  exact List.map_congr_left fun r _ => owner_sideSeen s h k r

theorem plannedAt_sideSeen (t : State) (r : Head × Nat) :
    plannedAt t (sideSeen s h k r) = (t.light.settings.latch r.1).planned := by
  rw [plannedAt, head_sideSeen]

theorem viewAt_of_mem (ho : InOrder rest) {r : Head × Nat} (hr : r ∈ rest) :
    viewAt (rest.map (sideSeen s h k)) r.1 = some (sideSeen s h k r) := by
  induction rest with
  | nil => cases hr
  | cons q rest ih =>
    obtain ⟨hq, hrest⟩ := List.pairwise_cons.1 ho
    rw [List.map_cons, viewAt]
    rcases List.mem_cons.1 hr with rfl | hr
    · exact List.find?_cons_of_pos (decide_eq_true (head_sideSeen s h k r))
    · have hne : (sideSeen s h k q).head ≠ r.1 := by
        rw [head_sideSeen, (hq r hr).1, (hq r hr).2]
        decide
      rw [List.find?_cons_of_neg (by simpa using hne)]
      exact ih hrest hr

theorem viewAt_of_without {p : Head} (hp : ∀ r ∈ rest, r.1 ≠ p) :
    viewAt (rest.map (sideSeen s h k)) p = none := by
  refine List.find?_eq_none.2 fun v hv => ?_
  obtain ⟨r, hr, rfl⟩ := List.mem_map.1 hv
  rw [head_sideSeen]
  simpa using hp r hr

theorem any_head_iff {p : Head} : rest.any (fun r => r.1 == p) = true ↔ ∃ r ∈ rest, r.1 = p := by
  simp

/-- What is read of the view at a head. -/
theorem viewAt_map {α : Type} (ho : InOrder rest) (p : Head) {f : SideView → α} {a : α}
    (hf : ∀ r ∈ rest, r.1 = p → f (sideSeen s h k r) = a) :
    (viewAt (rest.map (sideSeen s h k)) p).map f = if rest.any (fun r => r.1 == p) then some a else none := by
  split
  · next hany =>
    obtain ⟨r, hr, rfl⟩ := any_head_iff.1 hany
    rw [viewAt_of_mem ho hr, Option.map_some, hf r hr rfl]
  · next hany =>
    rw [viewAt_of_without fun r hr e => hany (any_head_iff.2 ⟨r, hr, e⟩)]
    rfl

end Rest

/-! ### Answers and doses -/

theorem response_started (slots : PerHead (Option SlotNo)) : (exposeReply (.started slots)).response =
    [.status none, .data ((if slots.left.isSome then 1 else 0) + (if slots.right.isSome then 2 else 0)),
      .data (slotWord slots.left), .data (slotWord slots.right)] := by
  rcases slots with ⟨- | l, - | r⟩ <;> rfl

theorem doseRefused_of_within {s : State} {h : Handle} {k : Nat} {rest : List (Head × Nat)}
    (hvc : 0 < (s.vol h).volumeCeiling) (hsc : 0 < (s.vol h).sideCeiling)
    (hside : ∀ r ∈ rest, (s.face h (sideAt k r.1)).dose + (s.light.settings.latch r.1).planned ≤ (s.vol h).sideCeiling)
    (hvol : (s.vol h).dose + (rest.map fun r => (s.light.settings.latch r.1).planned).sum ≤ (s.vol h).volumeCeiling) :
    doseRefused (s.vol h) (rest.map (litAt s h k)) = false := by
  refine eq_false_of_ne_true fun hd => ?_
  rcases doseRefused_iff.1 hd with h0 | h0 | ⟨p, hp, hover⟩ | hover
  · exact absurd h0 (Nat.ne_of_gt hvc)
  · exact absurd h0 (Nat.ne_of_gt hsc)
  · obtain ⟨r, hr, rfl⟩ := List.mem_map.1 hp
    exact absurd hover (Nat.not_lt.2 (hside r hr))
  · rw [List.map_map] at hover
    exact absurd hover (Nat.not_lt.2 hvol)

/-! ### The records a start leaves -/

theorem face_setFace_ne (r : LeafRecord) {f g : Face} (hne : g ≠ f) (x : FaceRecord) :
    (r.setFace f x).face g = r.face g := by
  cases f <;> cases g <;> first | exact absurd rfl hne | rfl

theorem valid_setFace (r : LeafRecord) (f : Face) (x : FaceRecord) : (r.setFace f x).valid = r.valid := by
  cases f <;> rfl

/-- Sides that were not written. -/
theorem face_of_others {s t : State} {h h' : Handle} {ds : List Side} (a : SidesWritten s t h ds) {d : Side}
    (hd : d.leaf ≤ 2047) (hne : h' ≠ h ∨ ∀ e ∈ ds, e ≠ d) :
    t.face h' d = s.face h' d ∧ (t.leaf h' d.leaf).valid = (s.leaf h' d.leaf).valid := by
  by_cases hleaf : h' ≠ h ∨ ∀ e ∈ ds, e.leaf ≠ d.leaf
  · have e := a.others h' d.leaf hd hleaf
    rw [State.face, State.face, e]
    exact ⟨rfl, rfl⟩
  · obtain ⟨hsame, hex⟩ := not_or.1 hleaf
    obtain rfl := Classical.not_not.1 hsame
    have hne := hne.resolve_left hsame
    simp only [Classical.not_forall, Classical.not_not] at hex
    obtain ⟨e, he, heq⟩ := hex
    have hface : d.face ≠ e.face := fun hf => hne e he (by
      obtain ⟨n, f⟩ := d
      obtain ⟨m, g⟩ := e
      exact congr (congrArg Side.mk heq) hf.symm)
    rcases a.record e he with hr | hr
    · rw [State.face, State.face, ← heq, hr]
      exact ⟨rfl, rfl⟩
    · rw [State.face, State.face, ← heq, hr]
      exact ⟨face_setFace_ne _ hface _, valid_setFace _ _ _⟩

end Sys2Proof.Proofs
end

section
/-! O43. EXPOSE starts an exposure (R109, R30, R31, R94, R95, R110). -/
namespace Sys2Proof.Proofs
open Sys2Proof.Machine Sys2Proof.Laws

section Clauses
variable {s t : State} {h : Handle} {k : Nat} {rest : List (Head × Nat)} {slots : PerHead (Option SlotNo)}
  (a : ExposureStarted s t h (rest.map (sideSeen s h k)) slots)
include a

theorem strobes_started (p : Head) :
    t.light.strobes.get (upperBank p) = (positionFired s.light.strobes p
      ((litPositions s (rest.map (sideSeen s h k))).get p)).get (upperBank p) ∧
    t.light.strobes.get (lowerBank p) = (positionFired s.light.strobes p
      ((litPositions s (rest.map (sideSeen s h k))).get p)).get (lowerBank p) := by
  rw [a.light]
  exact strobes_fire_get s .normal _ _ p

theorem strobes_without {p : Head} (hp : ∀ r ∈ rest, r.1 ≠ p) :
    t.light.strobes.get (upperBank p) = s.light.strobes.get (upperBank p) ∧
    t.light.strobes.get (lowerBank p) = s.light.strobes.get (lowerBank p) := by
  have hnone : (litPositions s (rest.map (sideSeen s h k))).get p = none := by
    have hview := viewAt_of_without (s := s) (h := h) (k := k) hp
    cases p
    · exact congrArg (Option.map _) hview
    · exact congrArg (Option.map _) hview
  have hfired := strobes_started a p
  rw [hnone] at hfired
  exact hfired

variable (ho : InOrder rest) {r : Head × Nat} (hr : r ∈ rest)
include ho hr

theorem strobes_of_side :
    t.light.strobes.get (upperBank r.1) = (if (s.light.settings.latch r.1).upperDuration = 0 then
      s.light.strobes.get (upperBank r.1) else some (s.light.settings.latch r.1).upperDuration) ∧
    t.light.strobes.get (lowerBank r.1) = if (s.light.settings.latch r.1).lowerDuration = 0 then
      s.light.strobes.get (lowerBank r.1) else some (s.light.settings.latch r.1).lowerDuration := by
  have hlit : (litPositions s (rest.map (sideSeen s h k))).get r.1 = some (s.light.settings.latch r.1) := by
    have hview := viewAt_of_mem (s := s) (h := h) (k := k) ho hr
    have hmap := congrArg (Option.map fun v : SideView => s.light.settings.latch v.head) hview
    rw [Option.map_some, head_sideSeen] at hmap
    cases hp : r.1
    · rw [hp] at hmap
      exact hmap
    · rw [hp] at hmap
      exact hmap
  have hfired := strobes_started a r.1
  rw [hlit] at hfired
  obtain ⟨hu, hl⟩ := firePosition_get_same s.light.strobes r.1 (s.light.settings.latch r.1)
  exact ⟨hfired.1.trans hu, hfired.2.trans hl⟩

end Clauses

theorem headStarted_sideSeen (s : State) (h : Handle) (k : Nat) (slots : PerHead (Option SlotNo)) (r : Head × Nat)
    {i : SlotNo} (hi : slots.get r.1 = some i) : headStarted s slots (sideSeen s h k r) =
      { s.head r.1 with
        phase := .capturing, port := .between
        capture := some
          { kind := .normal, slot := some i
            side := some ⟨(sideAt k r.1).leaf, (sideAt k r.1).face, r.2⟩, lines := 0, overlong := false
            clipCount := 0, substitutions := 0, outcome := .inFlight }
        snapshot := some ⟨(s.head r.1).correction, (s.head r.1).running, (s.head r.1).measurement, s.keep,
          s.light.settings.latch r.1, 0⟩
        frameTimer := some (s.timers.frame.get r.1)
        lineBuffer := [], darkSums := ⟨0, 0, 0⟩, activeSums := ⟨0, 0, 0⟩, flatSums := []
        work := WorkRecord.started (effectiveWindow (s.head r.1).measurement (s.head r.1).correction.w
          (s.head r.1).correction.h) } := by
  rw [headStarted, head_sideSeen, side_sideSeen, panel_sideSeen, hi]
  rfl

theorem slotFor_sideSeen (s : State) (h : Handle) (k : Nat) (r : Head × Nat)
    (hv : (s.leaf h (sideAt k r.1).leaf).valid = true) : slotFor s h (sideSeen s h k r) =
      { Slot.cleared with
        state := .filling, owner := some (panelAt h k r.1 r.2), head := some r.1
        w := (s.head r.1).correction.w, h := (s.head r.1).correction.h
        generation := ((s.face h (sideAt k r.1)).panel r.2).generation + 1
        baseDuration := (s.light.settings.latch r.1).base } := by
  rw [slotFor, owner_sideSeen, head_sideSeen, generation_sideSeen s h k r hv]

/-- The lit positions of a start's firing record (R94). -/
theorem lit_started (s : State) (h : Handle) (k : Nat) {rest : List (Head × Nat)} (ho : InOrder rest) (p : Head) :
    (PerHead.mk ((litPositions s (rest.map (sideSeen s h k))).left.map LightLatch.shots)
      ((litPositions s (rest.map (sideSeen s h k))).right.map LightLatch.shots)).get p =
      if rest.any (fun r => r.1 == p) then some (s.light.settings.latch p).shots else none := by
  have hmap := viewAt_map (s := s) (h := h) (k := k) ho p (f := fun v => (s.light.settings.latch v.head).shots)
    (a := (s.light.settings.latch p).shots) fun r _ e => by rw [head_sideSeen, e]
  rw [← hmap]
  cases p
  · exact Option.map_map _ _ _
  · exact Option.map_map _ _ _

/-- The sides of a start's firing record (R95). -/
theorem sidesLit_started (s : State) (h : Handle) (k : Nat) {rest : List (Head × Nat)} (ho : InOrder rest) (p : Head) :
    (sidesLit (rest.map (sideSeen s h k))).get p =
      if rest.any (fun r => r.1 == p) then some (sideAt k p) else none := by
  have hmap := viewAt_map (s := s) (h := h) (k := k) ho p (f := fun v => v.side) (a := sideAt k p)
    fun r _ e => by rw [side_sideSeen, e]
  rw [← hmap]
  cases p <;> rfl

theorem volumeExposed_rest (s : State) (h : Handle) (k : Nat) (rest : List (Head × Nat)) :
    volumeExposed s h (rest.map (sideSeen s h k)) = { s.vol h with
      dose := (s.vol h).dose + (rest.map fun r => (s.light.settings.latch r.1).planned).sum
      highestSideDose := rest.foldl (fun m r => max m ((s.face h (sideAt k r.1)).dose +
        (s.light.settings.latch r.1).planned)) (s.vol h).highestSideDose
      counters := { (s.vol h).counters with
        attempts := (s.vol h).counters.attempts + BitVec.ofNat 32 rest.length
        discarded := (s.vol h).counters.discarded + BitVec.ofNat 32 (allSlots.countP fun j =>
          (s.slot j).availableFor (rest.map fun r => panelAt h k r.1 r.2) && (s.slot j).state == .provisional) } } := by
  have hplan : (rest.map (sideSeen s h k)).map (plannedAt s) =
      rest.map fun r => (s.light.settings.latch r.1).planned := by
    rw [List.map_map]
    exact List.map_congr_left fun r _ => plannedAt_sideSeen s r
  simp only [volumeExposed, hplan, owners_rest, heldFor_eq, List.foldl_map, plannedAt_sideSeen, side_sideSeen,
    List.length_map]

/-! ### EXPOSE of sides that pass every test -/

/-- The state in which an EXPOSE starts its exposure. -/
def exposing (s : State) : State := (s.taking .station 3).countRequest

section Passed
variable {s : State} {h : Handle} {sides left right : Word} {rest : List (Head × Nat)}

theorem exec_expose_started (ready : s.ExposureReady h) (hc : s.TableClean)
    (hpass : (exposing s).attemptSides h (requestsOf sides.toNat left.toNat right.toNat) =
      (.started ((exposing s).startExposure h (rest.map (sideSeen s h (s.vol h).opening))).1,
        ((exposing s).startExposure h (rest.map (sideSeen s h (s.vol h).opening))).2)) :
    exec (.expose sides left right) s =
      .next { ((exposing s).startExposure h (rest.map (sideSeen s h (s.vol h).opening))).2.modLink .station (·.answer
        (exposeReply (.started ((exposing s).startExposure h (rest.map (sideSeen s h (s.vol h).opening))).1))) with
          skippedNow := [] } :=
  exec_of_effect hc (exec_expose ready.running sides left right)
    ((expose_of_idle (s := s.taking .station 3) ready.idle _ _ _).trans
      (congrArg (fun p : Attempt × State => (exposeReply p.1, p.2))
        ((attemptExposure_of_certain (s := exposing s) (vol_clean hc h) ready.active ready.parity ready.ready ready.free
          ready.certain).trans hpass)))

/-- Tests 6 to 11 passed: the sides that are left start. -/
theorem attemptSides_of_passed {asked : List (Head × Nat)} (hleft : requestsLeft s h (s.vol h).opening asked = rest)
    (hne : rest ≠ []) (hn : (asked.map Prod.fst).Nodup)
    (hasked : ∀ r ∈ asked, s.cleanLeaf h (sideAt (s.vol h).opening r.1).leaf ∧ 1 ≤ r.2 ∧
      r.2 ≤ (s.face h (sideAt (s.vol h).opening r.1)).declared)
    (hgen : ∀ r ∈ rest, ((s.face h (sideAt (s.vol h).opening r.1)).panel r.2).generation < 255)
    (havail : rest.length ≤ allSlots.countP fun i =>
      (s.slot i).availableFor (rest.map fun r => panelAt h (s.vol h).opening r.1 r.2))
    (hdose : doseRefused (s.vol h) (rest.map (litAt s h (s.vol h).opening)) = false) :
    s.attemptSides h asked = (.started (s.startExposure h (rest.map (sideSeen s h (s.vol h).opening))).1,
      (s.startExposure h (rest.map (sideSeen s h (s.vol h).opening))).2) := by
  subst hleft
  have hmem (r : Head × Nat) (hr : r ∈ requestsLeft s h (s.vol h).opening asked) : r ∈ asked := (List.mem_filter.1 hr).1
  have hnodup := (List.Sublist.map Prod.fst (List.filter_sublist (p := fun r : Head × Nat =>
    !((s.leaf h (sideAt (s.vol h).opening r.1).leaf).valid && (s.face h (sideAt (s.vol h).opening r.1)).skip))
    (l := asked))).nodup hn
  have hgood : ¬badRequest s h (s.vol h).opening asked := by
    rintro (he | ⟨r, hr, hlow | hhigh⟩)
    · exact hne (by rw [he]; rfl)
    · exact absurd (hasked r hr).2.1 (Nat.not_le.2 hlow)
    · rw [(hasked r hr).1.1, if_pos rfl] at hhigh
      exact absurd (hasked r hr).2.2 (Nat.not_le.2 hhigh)
  refine (attemptSides_of_fresh (fun he => hne (by rw [he]; rfl)) (fun r hr _ => (hasked r hr).1.2) hgood hne
    (fun r hr => (hasked r (hmem r hr)).1.1) hgen).trans ?_
  exact attemptRemaining_of_ok hnodup (Nat.not_lt.2 havail) (fun r hr => (hasked r (hmem r hr)).1) hdose

end Passed

/-- Settles O43: the held captures are replaced, the lowest slots taken, the doses charged, and the heads started. -/
theorem exposeStartsAnExposure : Obligations.ExposeStartsAnExposure := by
  intro s h sides left right ready canon hc k face asked rest owners avail plan total hk hne hasked hgen havail hvc hsc
    hside hvol
  let x := exposing s
  have hclean (r : Head × Nat) (hr : r ∈ asked) : s.cleanLeaf h (sideAt k r.1).leaf := (hasked r hr).1
  have hleft : requestsLeft x h k asked = rest := List.filter_congr fun r hr => by
    have hv : (x.leaf h (sideAt k r.1).leaf).valid = true := (hclean r hr).1
    rw [hv, Bool.true_and]
    rfl
  have hrest (r : Head × Nat) (hr : r ∈ rest) : s.cleanLeaf h (sideAt k r.1).leaf := hclean r (List.mem_filter.1 hr).1
  have ho : InOrder rest := (requestsOf_inOrder _ _ _).sublist List.filter_sublist
  have hdose : doseRefused (x.vol h) (rest.map (litAt x h k)) = false :=
    doseRefused_of_within (s := x) hvc hsc hside hvol
  have hpass := attemptSides_of_passed (s := x) hleft hne (requestsOf_nodup _ _ _) hasked hgen havail hdose
  have hexec := exec_expose_started ready hc hpass
  have hready : SidesReady x h (rest.map (sideSeen x h k)) := ready_of_rest (s := x) hk ho hrest
  have a := exposureStarted (s := x) ⟨canon.memory, canon.leaves, canon.gain⟩ ⟨hc.zero, hc.one, hc.rescan⟩
    (h := h) (vs := rest.map (sideSeen s h k)) (by rw [show x.vol h = s.vol h from rfl, state_of_active ready.active]; decide) hready
    (by rw [List.length_map, owners_rest]; exact havail)
  generalize x.startExposure h (rest.map (sideSeen s h k)) = p at hexec a
  obtain ⟨slots, u⟩ := p
  replace a : ExposureStarted x u h (rest.map (sideSeen x h k)) slots := a
  refine ⟨_, slots, hexec, response_started slots, ?requests, fun p hp => ?without, fun r hr => ?side, fun j hl hr => ?stays,
    ?firing, ?vol, fun h' hne => a.vols h' hne, fun h' d hd hne => ?others, fun h' n hn hne => ?leaves, ?frame⟩
  case requests => exact (congrArg State.requests a.frame :)
  case without =>
    obtain ⟨hslot, hhead⟩ := a.without p fun v hv => by
      obtain ⟨r, hr, rfl⟩ := List.mem_map.1 hv
      rw [head_sideSeen]
      exact hp r hr
    exact ⟨hslot, hhead, strobes_without a hp⟩
  case side =>
    have hv := List.mem_map_of_mem (f := sideSeen x h k) hr
    obtain ⟨i, hi⟩ := a.exposed (sideSeen x h k r) hv
    have hrecord := a.recorded _ (List.mem_map_of_mem hv)
    have hface := hi.face
    have hpanel := hi.panel
    have hlowest := hi.lowest
    have havailable := hi.available
    have hgot := hi.got
    rw [side_sideSeen, panel_sideSeen, plannedAt_sideSeen] at hface
    rw [side_sideSeen, panel_sideSeen] at hpanel
    rw [side_sideSeen] at hrecord
    rw [head_sideSeen, owners_rest] at hlowest
    rw [owners_rest] at havailable
    rw [head_sideSeen] at hgot
    have hhead := hi.head
    rw [headStarted_sideSeen x h k slots r hgot, head_sideSeen] at hhead
    refine ⟨i, hgot, havailable, hlowest, hi.filled.trans (slotFor_sideSeen x h k r (hrest r hr).1), ?_, hface.panels,
      dose_of_panelOnly hface, ?_, a.clean _ ?_ (hrest r hr), hrecord, hhead, strobes_of_side a ho hr⟩
    · refine hpanel.trans ?_
      exact (congrArg (fun n => ({ (face r.1).panel r.2 with number := n, pending := some ⟨.exposing, i⟩ } : PanelEntry))
        (panel_number (face r.1) r.2) :)
    · exact (congrArg (fun f : FaceRecord => { f with panels := (face r.1).panels, dose := (face r.1).dose }) hface.rest :)
    · have hlow := hready.low _ hv
      rw [side_sideSeen] at hlow
      exact hlow
  case stays =>
    refine (a.stays j hl hr).trans (ite_of_iff ?_ rfl rfl)
    rw [heldFor_eq, owners_rest, Bool.and_eq_true, beq_iff_eq]
    rfl
  case firing =>
    refine ⟨_, congrArg Lighting.lastFiring a.light, rfl, lit_started x h k ho, _, rfl, sidesLit_started x h k ho⟩
  case vol => exact a.vol.trans (volumeExposed_rest x h k rest)
  case others =>
    exact face_of_others a.written hd (hne.imp id fun hne e he => by
      obtain ⟨v, hv, rfl⟩ := List.mem_map.1 he
      obtain ⟨r, hr, rfl⟩ := List.mem_map.1 hv
      rw [side_sideSeen]
      exact hne r hr)
  case leaves =>
    exact a.written.others h' n hn (hne.imp id fun hne e he => by
      obtain ⟨v, hv, rfl⟩ := List.mem_map.1 he
      obtain ⟨r, hr, rfl⟩ := List.mem_map.1 hv
      rw [side_sideSeen]
      exact hne r hr)
  case frame =>
    have hlight : u.light = { s.light with strobes := u.light.strobes, lastFiring := u.light.lastFiring } := by
      rw [a.light]
      rfl
    have hqueue := a.queue
    simp only [heldFor_eq, owners_rest] at hqueue
    have hanswered : { u.modLink .station (·.answer (exposeReply (.started slots))) with skippedNow := [] } =
        { (startFrame u x).modLink .station (·.answer (exposeReply (.started slots))) with skippedNow := [] } :=
      congrArg (fun w : State => { w.modLink .station (·.answer (exposeReply (.started slots))) with skippedNow := [] })
        a.frame
    refine hanswered.trans ?_
    have hrequests : u.requests = x.requests := (congrArg State.requests a.frame :)
    rw [startFrame, hqueue, hlight, ← hrequests]
    rfl

end Sys2Proof.Proofs
end

section
/-! SUPPORT. LEAF REWRITE: its words and its tests (R181). -/
namespace Sys2Proof.Proofs
open Sys2Proof.Machine Sys2Proof.Laws

/-! ### The words (R181) -/

theorem exec_leafRewrite {s : State} (hi : s.initRunning = false) {ws : List Word} {r : SuppliedLeaf}
    (hw : parseRewrite ws = some (r, [])) :
    exec (.leafRewrite ws) s = done (handed s .station .leafRewrite ws) :=
  exec_action rfl rfl rfl (leafRewrite_completes (by rw [rewriteFits, hw]; rfl)) hi

theorem perform_leafRewrite {ws : List Word} {r : SuppliedLeaf} (hw : parseRewrite ws = some (r, [])) (s : State) :
    Cmd.perform .leafRewrite .station ws s = leafRewrite r s := by
  rw [show Cmd.perform .leafRewrite .station ws s = (match parseRewrite ws with
    | some (r, _) => leafRewrite r s
    | none => (.refused .badParam, s)) from rfl, hw]

/-- The face groups are those of the faces asked for, unless one was cut short. -/
theorem faces_of_parseFaces {fs : List Face} {ws rest : List Word} {gs : List (Face × SuppliedFace)}
    (hp : parseFaces fs ws = some (gs, rest)) (hg : ∀ g ∈ gs, ¬4 < g.2.panelCount) : gs.map Prod.fst = fs := by
  induction fs generalizing ws gs rest with
  | nil =>
    obtain ⟨rfl, -⟩ := Prod.mk.inj (Option.some.inj hp)
    rfl
  | cons f fs ih =>
    rw [parseFaces] at hp
    cases hface : parseFace ws with
    | none =>
      rw [hface] at hp
      cases hp
    | some x =>
      obtain ⟨g, ws'⟩ := x
      rw [hface] at hp
      dsimp only at hp
      split at hp
      · next hlong =>
        obtain ⟨rfl, -⟩ := Prod.mk.inj (Option.some.inj hp)
        exact absurd hlong (hg _ List.mem_cons_self)
      · cases hrest : parseFaces fs ws' with
        | none =>
          rw [hrest] at hp
          cases hp
        | some y =>
          obtain ⟨gs', rest'⟩ := y
          rw [hrest] at hp
          obtain ⟨rfl, -⟩ := Prod.mk.inj (Option.some.inj hp)
          rw [List.map_cons, ih hrest fun g hmem => hg g (List.mem_cons_of_mem _ hmem)]

theorem facesOfKindWord_of_kindOf {n : Nat} {k : LeafKind} (hk : kindOf n = some k) : facesOfKindWord n = k.faces := by
  rw [facesOfKindWord, hk]
  cases k <;> rfl

theorem faces_of_parseRewrite {ws : List Word} {r : SuppliedLeaf} {k : LeafKind} (hw : parseRewrite ws = some (r, []))
    (hk : kindOf r.kind = some k) (hg : ∀ g ∈ r.faces, ¬4 < g.2.panelCount) : r.faces.map Prod.fst = k.faces := by
  unfold parseRewrite at hw
  split at hw
  · next h l kw rest =>
    cases hfaces : parseFaces (facesOfKindWord kw.toNat) rest with
    | none =>
      rw [hfaces] at hw
      cases hw
    | some x =>
      obtain ⟨fs, rest'⟩ := x
      rw [hfaces] at hw
      obtain ⟨rfl, -⟩ := Prod.mk.inj (Option.some.inj hw)
      exact (faces_of_parseFaces hfaces hg).trans (facesOfKindWord_of_kindOf hk)
  · cases hw

/-! ### Tests 3 and 4 (R181) -/

theorem hasTwice_iff {l : List Nat} : hasTwice l = true ↔ ¬l.Nodup := by
  induction l with
  | nil => simp [hasTwice]
  | cons x xs ih =>
    rw [hasTwice, Bool.or_eq_true, ih, List.contains_iff_mem, List.nodup_cons, Classical.not_and_iff_not_or_not,
      Classical.not_not]

/-- A face group that is refused. -/
def BadGroup (g : SuppliedFace) : Prop :=
  4 < g.panelCount ∨ g.declared < 1 ∨ 4 < g.declared ∨ ¬(g.panels.map (·.number)).Nodup ∨
    ∃ p ∈ g.panels, p.number < 1 ∨ 4 < p.number ∨ 255 < p.generation ∨ 2 < p.settled

theorem bad_iff (g : SuppliedFace) : g.bad = true ↔ BadGroup g := by
  simp only [SuppliedFace.bad, Bool.or_eq_true, decide_eq_true_eq, List.any_eq_true, hasTwice_iff, BadGroup, or_assoc]
  exact or_congr_right (or_congr_right (or_congr_right or_comm))

theorem rewriteBad_iff {n : Nat} {r : SuppliedLeaf} : rewriteBad n r = true ↔
    n + 1 < r.leaf ∨ kindOf r.kind ≠ some (kindAt n r.leaf) ∨ ∃ g ∈ r.faces, BadGroup g.2 := by
  simp only [rewriteBad, Bool.or_eq_true, decide_eq_true_eq, List.any_eq_true, bad_iff, or_assoc, Bool.not_eq_true',
    beq_eq_false_iff_ne, ne_eq]

theorem mem_heldPanels {s : State} {h : Handle} {d : Side} {p : Nat} : p ∈ s.heldPanels h d ↔
    1 ≤ p ∧ p ≤ 4 ∧ ∃ i, (s.slot i).holds ⟨h, d.leaf, d.face, p⟩ = true := by
  have hrange : p ∈ [1, 2, 3, 4] ↔ 1 ≤ p ∧ p ≤ 4 := by
    simp only [List.mem_cons, List.not_mem_nil, or_false]
    omega
  rw [State.heldPanels, List.mem_filter, hrange, and_assoc, State.panelHeld, List.any_eq_true]
  simp only [mem_allSlots, true_and]

theorem belowHighest_iff {s : State} {h : Handle} {leaf : Nat} {g : Face × SuppliedFace} :
    s.belowHighest h leaf g = true ↔ (∃ p ∈ g.2.panels, g.2.declared < p.number) ∨
      ∃ p, 1 ≤ p ∧ p ≤ 4 ∧ g.2.declared < p ∧ ∃ i, (s.slot i).holds ⟨h, leaf, g.1, p⟩ = true := by
  rw [State.belowHighest, List.any_append, Bool.or_eq_true, List.any_map, List.any_eq_true, List.any_eq_true]
  refine or_congr (by simp) (exists_congr fun p => ?_)
  rw [mem_heldPanels, decide_eq_true_eq]
  exact ⟨fun ⟨⟨hone, hfour, hheld⟩, hlow⟩ => ⟨hone, hfour, hlow, hheld⟩,
    fun ⟨hone, hfour, hlow, hheld⟩ => ⟨⟨hone, hfour, hheld⟩, hlow⟩⟩

/-! ### The tests in their order (R181, R183) -/

section Tests
variable {s : State} {r : SuppliedLeaf}

theorem leafRewrite_of_noHandle (hn : 2 ≤ r.handle) : leafRewrite r s = (.refused .badParam, s) := by
  rw [leafRewrite, handleOf_of_ge hn]

variable {h : Handle} (hh : r.handle = h.place)
include hh

theorem leafRewrite_of_handle : leafRewrite r s =
    if (s.vol h).state = .empty then (.refused .noVolume, s)
    else if rewriteBad (s.vol h).leaves r then (.refused .badParam, s)
    else if r.faces.any (s.belowHighest h r.leaf) then (.refused .badParam, s)
    else if r.faces.any (fun g => decide ((s.vol h).sideCeiling < g.2.dose)) then (.refused .badParam, s)
    else if ((s.rewriteDoses h r).2.vol h).volumeCeiling < (s.rewriteDoses h r).1.sum then
      (.refused .badParam, (s.rewriteDoses h r).2)
    else (.accepted (num16 r.leaf ++ split32
        (((s.rewriteDoses h r).2.rewriteLeaf h r (s.rewriteDoses h r).1).vol h).counters.damagedLeaves),
      (s.rewriteDoses h r).2.rewriteLeaf h r (s.rewriteDoses h r).1) := by
  rw [leafRewrite, hh, handleOf_place]

theorem leafRewrite_of_empty (he : (s.vol h).state = .empty) : leafRewrite r s = (.refused .noVolume, s) :=
  (leafRewrite_of_handle hh).trans (if_pos he)

variable (he : (s.vol h).state ≠ .empty)
include he

theorem leafRewrite_of_refused (hbad : rewriteBad (s.vol h).leaves r = true ∨
      r.faces.any (s.belowHighest h r.leaf) = true ∨
      r.faces.any (fun g => decide ((s.vol h).sideCeiling < g.2.dose)) = true) :
    leafRewrite r s = (.refused .badParam, s) := by
  rw [leafRewrite_of_handle hh, if_neg he]
  split
  · rfl
  · next hb =>
    split
    · rfl
    · next hl => exact if_pos ((hbad.resolve_left hb).resolve_left hl)

theorem leafRewrite_of_tested (hbad : ¬rewriteBad (s.vol h).leaves r = true)
    (hlow : ¬r.faces.any (s.belowHighest h r.leaf) = true)
    (hhigh : ¬r.faces.any (fun g => decide ((s.vol h).sideCeiling < g.2.dose)) = true) : leafRewrite r s =
    if ((s.rewriteDoses h r).2.vol h).volumeCeiling < (s.rewriteDoses h r).1.sum then
      (.refused .badParam, (s.rewriteDoses h r).2)
    else (.accepted (num16 r.leaf ++ split32
        (((s.rewriteDoses h r).2.rewriteLeaf h r (s.rewriteDoses h r).1).vol h).counters.damagedLeaves),
      (s.rewriteDoses h r).2.rewriteLeaf h r (s.rewriteDoses h r).1) := by
  rw [leafRewrite_of_handle hh, if_neg he, if_neg hbad, if_neg hlow, if_neg hhigh]

end Tests

end Sys2Proof.Proofs
end

section
/-! SUPPORT. LEAF REWRITE: the doses of the volume read again (R183). -/
namespace Sys2Proof.Proofs
open Sys2Proof.Machine Sys2Proof.Laws

/-- The figures of some doses added to others. -/
theorem foldl_add_doses (l : List Nat) (d : DoseFigures) :
    l.foldl DoseFigures.add d = ⟨d.sum + l.sum, l.foldl max d.highest⟩ := by
  induction l generalizing d with
  | nil => rfl
  | cons n l ih =>
    rw [List.foldl_cons, ih, List.sum_cons, ← Nat.add_assoc]
    rfl

/-- The doses of a leaf that count: those of a valid record other than the one to be rewritten. -/
def otherDoses (s : State) (h : Handle) (leaf n : Nat) : List Nat :=
  if n ≠ leaf ∧ (s.leaf h n).valid then (s.leaf h n).kind.faces.map fun f => ((s.leaf h n).face f).dose else []

/-- The doses of a volume after a rewrite. -/
def dosesAfter (s : State) (h : Handle) (r : SuppliedLeaf) : List Nat :=
  ((List.range ((s.vol h).leaves + 2)).flatMap (otherDoses s h r.leaf)) ++ r.faces.map (·.2.dose)

section Doses
variable {s : State} {h : Handle}

theorem addLeafDoses_of_clean {leaf n : Nat} (hne : n ≠ leaf)
    (hl : (s.leaf h n).valid = true → (s.leaf h n).errors = []) (d : DoseFigures) :
    State.addLeafDoses h (d, s) n = ((otherDoses s h leaf n).foldl DoseFigures.add d, s) := by
  rw [State.addLeafDoses, otherDoses]
  dsimp only
  cases hv : (s.leaf h n).valid with
  | false =>
    rw [readLeaf_of_invalid hv, if_neg fun e => Bool.false_ne_true e.2]
    rfl
  | true =>
    rw [readLeaf_of_clean hv (hl hv), if_pos ⟨hne, rfl⟩, List.foldl_map]

theorem foldl_addLeafDoses {leaf : Nat} {ns : List Nat}
    (hl : ∀ n ∈ ns, (s.leaf h n).valid = true → (s.leaf h n).errors = []) (d : DoseFigures) :
    (ns.filter fun l => !(l == leaf)).foldl (State.addLeafDoses h) (d, s) =
      ((ns.flatMap (otherDoses s h leaf)).foldl DoseFigures.add d, s) := by
  induction ns generalizing d with
  | nil => rfl
  | cons n ns ih =>
    have hrest := ih fun m hm => hl m (List.mem_cons_of_mem _ hm)
    rw [List.flatMap_cons, List.foldl_append]
    by_cases hne : n = leaf
    · rw [List.filter_cons_of_neg (by simp [hne]), hrest, otherDoses, if_neg fun e => e.1 hne]
      rfl
    · rw [List.filter_cons_of_pos (by simp [hne]), List.foldl_cons,
        addLeafDoses_of_clean hne (hl n List.mem_cons_self), hrest]

/-- The reads of clean records write nothing. -/
theorem rewriteDoses_of_clean (r : SuppliedLeaf)
    (hl : ∀ n, n ≤ (s.vol h).leaves + 1 → (s.leaf h n).valid = true → (s.leaf h n).errors = []) :
    s.rewriteDoses h r = (⟨(dosesAfter s h r).sum, (dosesAfter s h r).foldl max 0⟩, s) := by
  have hothers := foldl_addLeafDoses (leaf := r.leaf) (ns := List.range ((s.vol h).leaves + 2))
    (fun n hn => hl n (Nat.le_of_lt_succ (List.mem_range.1 hn))) ⟨0, 0⟩
  have hall := foldl_add_doses (dosesAfter s h r) ⟨0, 0⟩
  rw [dosesAfter, List.foldl_append, List.foldl_map, Nat.zero_add] at hall
  rw [State.rewriteDoses]
  dsimp only
  rw [hothers]
  exact Prod.ext hall rfl

end Doses

end Sys2Proof.Proofs
end

section
/-! SUPPORT. LEAF REWRITE: the panel entries written (R182). -/
namespace Sys2Proof.Proofs
open Sys2Proof.Machine Sys2Proof.Laws

/-! ### Lists of figures -/

theorem foldl_max_eq (l : List Nat) (n : Nat) : l.foldl max n = max n (l.foldl max 0) := by
  induction l generalizing n with
  | nil => exact (Nat.max_zero n).symm
  | cons m l ih => rw [List.foldl_cons, List.foldl_cons, ih, ih (max 0 m), Nat.zero_max, Nat.max_assoc]

/-- Of some panels with different numbers at most one has a number. -/
theorem filter_number {ps : List SuppliedPanel} (hn : (ps.map (·.number)).Nodup) (n : Nat) :
    ps.filter (·.number = n) = (ps.find? (·.number = n)).toList := by
  induction ps with
  | nil => rfl
  | cons p ps ih =>
    obtain ⟨hp, hps⟩ := List.nodup_cons.1 hn
    by_cases hpn : p.number = n
    · rw [List.filter_cons_of_pos (by simpa using hpn), List.find?_cons_of_pos (by simpa using hpn),
        List.filter_eq_nil_iff.2 fun q hq hqn => ?_]
      · rfl
      · exact hp (List.mem_map.2 ⟨q, hq, (of_decide_eq_true hqn).trans hpn.symm⟩)
    · rw [List.filter_cons_of_neg (by simpa using hpn), List.find?_cons_of_neg (by simpa using hpn), ih hps]

theorem foldl_max_toList (x : Option Nat) : x.toList.foldl max 0 = x.getD 0 := by
  cases x with
  | none => rfl
  | some n => exact Nat.zero_max n

/-! ### The slots of a panel -/

/-- A slot holds a pending capture of a panel. -/
def pendingSlot (s : State) (o : Owner) (i : SlotNo) : Prop :=
  (s.slot i).holds o = true ∧ ((s.slot i).state = .filling ∨ (s.slot i).state = .provisional)

/-- A slot holds a settled capture of a panel. -/
def standingSlot (s : State) (o : Owner) (i : SlotNo) : Bool :=
  (s.slot i).holds o && ((s.slot i).state == .kept || (s.slot i).state == .delivering)

section Panel
variable {s : State} {o : Owner} {g : SuppliedFace} {old : Option FaceRecord}

theorem pendingSlot_iff {i : SlotNo} : ((s.slot i).holds o && (s.slot i).isPending) = true ↔ pendingSlot s o i := by
  rw [Bool.and_eq_true, Slot.isPending, Bool.or_eq_true, beq_iff_eq, beq_iff_eq]
  rfl

theorem slotWith_eq (s : State) (o : Owner) (p : Slot → Bool) :
    s.slotWith o p = (allSlots.find? fun i => (s.slot i).holds o && p (s.slot i)).map s.slot := by
  rw [State.slotWith, List.find?_map]
  rfl

theorem find_pending_none (hp : ¬∃ i, pendingSlot s o i) :
    (allSlots.find? fun i => (s.slot i).holds o && (s.slot i).isPending) = none :=
  List.find?_eq_none.2 fun i _ hi => hp ⟨i, pendingSlot_iff.1 hi⟩

theorem find_pending_some (hp : ∃ i, pendingSlot s o i) : ∃ i, pendingSlot s o i ∧
    (allSlots.find? fun i => (s.slot i).holds o && (s.slot i).isPending) = some i := by
  obtain ⟨i, hi⟩ := hp
  obtain ⟨j, hj⟩ := Option.isSome_iff_exists.1
    (List.find?_isSome (p := fun i => (s.slot i).holds o && (s.slot i).isPending).2
      ⟨i, mem_allSlots i, pendingSlot_iff.2 hi⟩)
  exact ⟨j, pendingSlot_iff.1 (List.find?_some hj :), hj⟩

theorem standingGeneration_eq : s.standingGeneration o =
    ((allSlots.filter (standingSlot s o)).map fun i => (s.slot i).generation).foldl max 0 := by
  rw [State.standingGeneration, List.foldl_map, List.foldl_map, List.foldl_filter]
  rfl

/-- The generations of which the largest is written where no capture is pending. -/
def generationsOf (s : State) (o : Owner) (g : SuppliedFace) (old : Option FaceRecord) : List Nat :=
  (g.panels.filter (·.number = o.panel)).map (·.generation) ++
    (allSlots.filter (standingSlot s o)).map (fun i => (s.slot i).generation) ++
    (old.map fun f => (f.panel o.panel).generation).toList

theorem foldl_generationsOf (hn : (g.panels.map (·.number)).Nodup) : (generationsOf s o g old).foldl max 0 =
    max (max (((g.panels.find? fun p => p.number = o.panel).map (·.generation)).getD 0) (s.standingGeneration o))
      ((old.map fun f => (f.panel o.panel).generation).getD 0) := by
  have hsupplied : (g.panels.filter (·.number = o.panel)).map (·.generation) =
      ((g.panels.find? fun p => p.number = o.panel).map (·.generation)).toList := by
    rw [filter_number hn]
    cases g.panels.find? fun p => p.number = o.panel <;> rfl
  rw [generationsOf, List.foldl_append, List.foldl_append, hsupplied, foldl_max_toList, foldl_max_eq _ (List.foldl _ _ _),
    foldl_max_toList, foldl_max_eq _ (Option.getD _ _), standingGeneration_eq]

theorem generation_rebuiltPanel : (s.rebuiltPanel o g old).generation =
    s.rebuiltGeneration o (((g.panels.find? fun p => p.number = o.panel).map (·.generation)).getD 0)
      ((old.map fun f => (f.panel o.panel).generation).getD 0) := by
  cases old <;> rfl

theorem rebuiltPanel_of_notPending (hn : (g.panels.map (·.number)).Nodup) (hp : ¬∃ i, pendingSlot s o i) :
    (s.rebuiltPanel o g old).pending = none ∧
    (s.rebuiltPanel o g old).generation = (generationsOf s o g old).foldl max 0 := by
  have hfind := find_pending_none hp
  constructor
  · exact (congrArg (Option.map _) hfind :)
  · have hslot : s.slotWith o Slot.isPending = none := by rw [slotWith_eq, hfind]; rfl
    rw [generation_rebuiltPanel, State.rebuiltGeneration, hslot, foldl_generationsOf hn]

theorem rebuiltPanel_of_pending (hp : ∃ i, pendingSlot s o i) : ∃ i, pendingSlot s o i ∧
    (s.rebuiltPanel o g old).generation = (s.slot i).generation - 1 ∧
    (s.rebuiltPanel o g old).pending =
      some ⟨if (s.slot i).state = .filling then .exposing else .provisional, i⟩ := by
  obtain ⟨i, hi, hfind⟩ := find_pending_some hp
  have hslot : s.slotWith o Slot.isPending = some (s.slot i) := by rw [slotWith_eq, hfind]; rfl
  refine ⟨i, hi, ?_, (congrArg (Option.map _) hfind :)⟩
  rw [generation_rebuiltPanel, State.rebuiltGeneration, hslot]

theorem rebuiltSettled_of_standing {n : Nat} {p : Option SuppliedPanel}
    (hs : ∃ i, standingSlot s o i = true ∧ (s.slot i).generation = n) :
    ∃ i, standingSlot s o i = true ∧ (s.slot i).generation = n ∧ s.rebuiltSettled o n p = .kept (s.slot i).stats := by
  have hiff (i : SlotNo) : ((s.slot i).holds o && ((s.slot i).isStanding && (s.slot i).generation == n)) = true ↔
      standingSlot s o i = true ∧ (s.slot i).generation = n := by
    rw [← Bool.and_assoc, Bool.and_eq_true, beq_iff_eq]
    rfl
  obtain ⟨i, hi⟩ := hs
  obtain ⟨j, hj⟩ := Option.isSome_iff_exists.1
    (List.find?_isSome (p := fun i => (s.slot i).holds o && ((s.slot i).isStanding && (s.slot i).generation == n)).2
      ⟨i, mem_allSlots i, (hiff i).2 hi⟩)
  obtain ⟨hstanding, hgen⟩ := (hiff j).1 (List.find?_some hj :)
  have hslot : s.slotWith o (fun x => x.isStanding && x.generation == n) = some (s.slot j) := by
    rw [slotWith_eq, hj]
    rfl
  exact ⟨j, hstanding, hgen, by unfold State.rebuiltSettled; rw [hslot]⟩

theorem rebuiltSettled_of_notStanding {n : Nat} {p : Option SuppliedPanel}
    (hs : ¬∃ i, standingSlot s o i = true ∧ (s.slot i).generation = n) :
    s.rebuiltSettled o n p = (p.map fun q => if q.settled = 0 then Settled.none else .delivered q.stats).getD .none := by
  have hslot : s.slotWith o (fun x => x.isStanding && x.generation == n) = none := by
    rw [slotWith_eq, List.find?_eq_none.2 fun i _ hi => ?_]
    · rfl
    · rw [← Bool.and_assoc, Bool.and_eq_true, beq_iff_eq] at hi
      exact hs ⟨i, hi⟩
  unfold State.rebuiltSettled
  rw [hslot]
  cases p <;> rfl

theorem find_supplied (hn : (g.panels.map (·.number)).Nodup) {q : SuppliedPanel} (hq : q ∈ g.panels) {n : Nat}
    (hqn : q.number = n) : (g.panels.find? fun p => p.number = n) = some q := by
  have hmem : q ∈ g.panels.filter (·.number = n) := List.mem_filter.2 ⟨hq, decide_eq_true hqn⟩
  rw [filter_number hn] at hmem
  exact Option.mem_toList.1 hmem

end Panel

end Sys2Proof.Proofs
end

section
/-! SUPPORT. LEAF REWRITE: the record written (R182), and the rescan list brought into agreement (R183, R80, R81). -/
namespace Sys2Proof.Proofs
open Sys2Proof.Machine Sys2Proof.Laws

/-! ### The record -/

section Record
variable {s : State} {h : Handle} {r : SuppliedLeaf} {old : Option LeafRecord} {k : LeafKind}

theorem find_face {gs : List (Face × SuppliedFace)} (hn : (gs.map Prod.fst).Nodup) {g : Face × SuppliedFace}
    (hg : g ∈ gs) : gs.find? (fun x => x.1 = g.1) = some g := by
  induction gs with
  | nil => cases hg
  | cons x gs ih =>
    obtain ⟨hx, hgs⟩ := List.nodup_cons.1 hn
    rcases List.mem_cons.1 hg with rfl | hg
    · exact List.find?_cons_of_pos (decide_eq_true rfl)
    · have hne : x.1 ≠ g.1 := fun e => hx (List.mem_map.2 ⟨g, hg, e.symm⟩)
      rw [List.find?_cons_of_neg (by simpa using hne), ih hgs hg]

theorem faces_nodup (k : LeafKind) : k.faces.Nodup := by cases k <;> decide

theorem face_rebuiltLeaf (hf : r.faces.map Prod.fst = k.faces) {g : Face × SuppliedFace} (hg : g ∈ r.faces) :
    (s.rebuiltLeaf h r old k).face g.1 = s.rebuiltFace h r.leaf g (old.map (·.face g.1)) := by
  have hfind := find_face (hf ▸ faces_nodup k) hg
  have hface : (s.rebuiltLeaf h r old k).face g.1 = s.rebuiltFaceOf h r old g.1 := by cases g.1 <;> rfl
  rw [hface, State.rebuiltFaceOf, hfind]

theorem keptRescan_rebuiltLeaf (f : Face) :
    (s.rebuiltLeaf h r old k).keptRescan f = ((s.rebuiltLeaf h r old k).face f).rescan := by cases f <;> rfl

theorem blank_rebuiltFaceOf (f : Face) : (s.rebuiltFaceOf h r old f).blank =
    ((r.faces.find? fun g => g.1 = f).map (·.2.blank)).getD false := by
  unfold State.rebuiltFaceOf
  cases r.faces.find? fun g => g.1 = f <;> rfl

theorem keptBlank_rebuiltLeaf (hf : r.faces.map Prod.fst = k.faces) :
    (s.rebuiltLeaf h r old k).keptBlank = r.faces.countP (·.2.blank) := by
  have hkept : (s.rebuiltLeaf h r old k).keptBlank = (if (s.rebuiltFaceOf h r old .recto).blank then 1 else 0) +
      (if (s.rebuiltFaceOf h r old .verso).blank then 1 else 0) := rfl
  rw [hkept, blank_rebuiltFaceOf, blank_rebuiltFaceOf]
  cases k with
  | leaf =>
    obtain ⟨⟨_, a⟩, l, hl, rfl, hl'⟩ := List.map_eq_cons_iff.1 hf
    obtain ⟨⟨_, b⟩, l', rfl, rfl, hnil⟩ := List.map_eq_cons_iff.1 hl'
    rw [hl, List.map_eq_nil_iff.1 hnil, List.countP_cons, List.countP_cons, List.countP_nil, Nat.zero_add, Nat.add_comm]
    rfl
  | frontBoard =>
    obtain ⟨⟨_, b⟩, l, hl, rfl, hnil⟩ := List.map_eq_cons_iff.1 hf
    rw [hl, List.map_eq_nil_iff.1 hnil, List.countP_cons, List.countP_nil]
    rfl
  | backBoard =>
    obtain ⟨⟨_, a⟩, l, hl, rfl, hnil⟩ := List.map_eq_cons_iff.1 hf
    rw [hl, List.map_eq_nil_iff.1 hnil, List.countP_cons, List.countP_nil, Nat.zero_add]
    rfl

end Record

/-! ### The rescan list (R80, R81) -/

/-- The list and the overflow after a flag passed from one value to another. -/
def accountOf (new old : Bool) (d : Side) (a : List Side × BitVec 32) : List Side × BitVec 32 :=
  if new && !old then if a.1.length < 64 then (a.1 ++ [d], a.2) else (a.1, a.2 + 1)
  else if old && !new then if d ∈ a.1 then (a.1.filter (· ≠ d), a.2) else (a.1, a.2 - 1)
  else a

/-- A state with another rescan list, overflow and set of notices. -/
def accounted (s : State) (h : Handle) (a : List Side × BitVec 32) (n : Word) : State :=
  { s with
    links := { s.links with station := { s.links.station with notices := n } }
    vols := s.vols.set h { s.vol h with counters := { (s.vol h).counters with rescanOverflow := a.2 } }
    rescan := a.1 }

section Account
variable {s : State} {h : Handle} (hc : s.TableClean)

theorem vol_accounted (a : List Side × BitVec 32) (n : Word) : (accounted s h a n).vol h =
    { s.vol h with counters := { (s.vol h).counters with rescanOverflow := a.2 } } := PerHandle_get_set_same _ _ _

theorem accounted_none (s : State) (h : Handle) :
    accounted s h (s.rescan, (s.vol h).counters.rescanOverflow) s.links.station.notices = s := by
  have hvols : s.vols.set h (s.vol h) = s.vols := PerHandle_set_get _ _
  exact congrArg (fun vols => { s with vols := vols }) hvols

theorem overflowed_accounted (f : BitVec 32 → BitVec 32) (a : List Side × BitVec 32) (n : Word) :
    { accounted s h a n with
      vols := (accounted s h a n).vols.set h (overflowed ((accounted s h a n).vol h) f) } =
      accounted s h (a.1, f a.2) n := by
  have hset (v : Volume) : (accounted s h a n).vols.set h v = s.vols.set h v := PerHandle_set_set _ _ _ _
  rw [vol_accounted, hset]
  rfl

include hc

theorem tableClean_accounted (a : List Side × BitVec 32) (n : Word) : (accounted s h a n).TableClean := by
  have ht := tableClean_setVol hc (h := h)
    (v := { s.vol h with counters := { (s.vol h).counters with rescanOverflow := a.2 } }) rfl
  exact ⟨ht.zero, ht.one, ht.rescan⟩

theorem rescanAccount_of_inactive (ha : (s.vol h).state ≠ .active) (d : Side) (old : Bool) :
    s.rescanAccount h d old = s := by
  have hleave : s.leaveRescan h d = s := by
    rw [State.leaveRescan, readVolume_of_clean (vol_clean hc h)]
    exact if_neg ha
  rw [State.rescanAccount, joinRescan_of_inactive hc ha, hleave]
  simp only [ite_self]

variable (ha : (s.vol h).state = .active)
include ha

theorem joinRescan_accounted (d : Side) (a : List Side × BitVec 32) (n : Word) :
    (accounted s h a n).joinRescan h d =
      accounted s h (accountOf true false d a) (addNotice n StationNotice.rescanAdded.place) := by
  rw [joinRescan_of_active (tableClean_accounted hc a n) (by rw [vol_accounted]; exact ha)]
  by_cases hlt : a.1.length < 64
  · have hlist : (accounted s h a n).rescan.length < 64 := hlt
    have hacc : accountOf true false d a = (a.1 ++ [d], a.2) := (if_pos rfl).trans (if_pos hlt)
    rw [if_pos hlist, hacc]
    rfl
  · have hlist : ¬(accounted s h a n).rescan.length < 64 := hlt
    have hacc : accountOf true false d a = (a.1, a.2 + 1) := (if_pos rfl).trans (if_neg hlt)
    rw [if_neg hlist, hacc, overflowed_accounted]
    rfl

theorem leaveRescan_accounted (d : Side) (a : List Side × BitVec 32) (n : Word) :
    (accounted s h a n).leaveRescan h d = accounted s h (accountOf false true d a) n := by
  have hactive : ((accounted s h a n).vol h).state = .active := by rw [vol_accounted]; exact ha
  have hacc : accountOf false true d a = if d ∈ a.1 then (a.1.filter (· ≠ d), a.2) else (a.1, a.2 - 1) :=
    (if_neg Bool.false_ne_true).trans (if_pos rfl)
  by_cases hd : d ∈ a.1
  · rw [leaveRescan_of_mem (tableClean_accounted hc a n) hactive hd, hacc, if_pos hd]
    rfl
  · rw [leaveRescan_of_not_mem (tableClean_accounted hc a n) hactive hd, hacc, if_neg hd, overflowed_accounted]

theorem rescanAccount_accounted (d : Side) (old : Bool) (a : List Side × BitVec 32) (n : Word) :
    (accounted s h a n).rescanAccount h d old = accounted s h (accountOf (s.face h d).rescan old d a)
      (if (s.face h d).rescan && !old then addNotice n StationNotice.rescanAdded.place else n) := by
  have hface : (accounted s h a n).face h d = s.face h d := rfl
  rw [State.rescanAccount, hface]
  cases (s.face h d).rescan <;> cases old
  · rfl
  · exact leaveRescan_accounted hc ha d a n
  · exact joinRescan_accounted hc ha d a n
  · rfl

/-- The faces of a leaf accounted for, one after another. -/
theorem foldl_rescanAccount (leaf : Nat) (old flag : Face → Bool) {fs : List Face}
    (hflag : ∀ f ∈ fs, (s.face h ⟨leaf, f⟩).rescan = flag f) (a : List Side × BitVec 32) (n : Word) :
    fs.foldl (fun t f => t.rescanAccount h ⟨leaf, f⟩ (old f)) (accounted s h a n) =
      accounted s h (fs.foldl (fun a f => accountOf (flag f) (old f) ⟨leaf, f⟩ a) a)
        (if fs.any (fun f => flag f && !old f) then addNotice n StationNotice.rescanAdded.place else n) := by
  induction fs generalizing a n with
  | nil => rfl
  | cons f fs ih =>
    rw [List.foldl_cons, List.foldl_cons, rescanAccount_accounted hc ha, hflag f List.mem_cons_self,
      ih fun g hg => hflag g (List.mem_cons_of_mem _ hg), List.any_cons]
    congr 1
    cases flag f && !old f
    · rfl
    · rw [if_pos rfl, addNotice_twice, ite_self]
      rfl

end Account

end Sys2Proof.Proofs
end

section
/-! O22. LEAF REWRITE (R181 to R183). -/
namespace Sys2Proof.Proofs
open Sys2Proof.Machine Sys2Proof.Laws

/-! ### The write -/

/-- The record that a rewrite writes over one that is invalid or has no bit error. -/
def newLeaf (s : State) (h : Handle) (r : SuppliedLeaf) : LeafRecord :=
  s.rebuiltLeaf h r (if (s.leaf h r.leaf).valid then some (s.leaf h r.leaf) else none)
    (kindAt (s.vol h).leaves r.leaf)

/-- The record and the volume written. -/
def leafWritten (s : State) (h : Handle) (r : SuppliedLeaf) (d : DoseFigures) : State :=
  { s.setLeaf h r.leaf (newLeaf s h r) with
    vols := s.vols.set h ((s.vol h).afterRewrite (s.leaf h r.leaf) (newLeaf s h r) d) }

section Write
variable {s : State} {h : Handle} {r : SuppliedLeaf} {d : DoseFigures}

theorem vol_leafWritten : (leafWritten s h r d).vol h =
    (s.vol h).afterRewrite (s.leaf h r.leaf) (newLeaf s h r) d := PerHandle_get_set_same _ _ _

theorem leaf_leafWritten (c : s.Canonical) : (leafWritten s h r d).leaf h r.leaf = newLeaf s h r :=
  leaf_setLeaf_same c h r.leaf _

theorem leaf_leafWritten_ne (c : s.Canonical) (hle : r.leaf ≤ 2047) {h' : Handle} {n : Nat} (hn : n ≤ 2047)
    (hne : h' ≠ h ∨ n ≠ r.leaf) : (leafWritten s h r d).leaf h' n = s.leaf h' n := by
  refine (leaf_setLeaf c hle hn _).trans (if_neg fun e => ?_)
  rcases hne with hh | hn
  · exact hh e.1.symm
  · exact hn e.2.symm

theorem tableClean_leafWritten (hc : s.TableClean) : (leafWritten s h r d).TableClean := by
  have ht := tableClean_setVol hc (h := h) (v := (s.vol h).afterRewrite (s.leaf h r.leaf) (newLeaf s h r) d) rfl
  exact ⟨ht.zero, ht.one, ht.rescan⟩

theorem rewriteLeaf_of_clean (hc : s.TableClean)
    (hl : (s.leaf h r.leaf).valid = true → (s.leaf h r.leaf).errors = []) : s.rewriteLeaf h r d =
      (newLeaf s h r).kind.faces.foldl
        (fun t f => t.rescanAccount h ⟨r.leaf, f⟩ ((s.leaf h r.leaf).keptRescan f)) (leafWritten s h r d) := by
  have hread : s.readLeaf h r.leaf (s.leaf h r.leaf).rewriteWords = ((s.leaf h r.leaf).valid, s) := by
    cases hv : (s.leaf h r.leaf).valid with
    | false => exact readLeaf_of_invalid hv _
    | true => exact readLeaf_of_clean hv (hl hv) _
  rw [State.rewriteLeaf, hread]
  dsimp only
  rw [modVol_of_clean (s := s.setLeaf h r.leaf _) (vol_clean hc h)]
  rfl

end Write

/-- The list and the overflow after a rewrite of a volume's leaf. -/
def figuresAfter (s : State) (h : Handle) (r : SuppliedLeaf) : List Side × BitVec 32 :=
  if (s.vol h).state = .active then
    (newLeaf s h r).kind.faces.foldl (fun a f =>
      accountOf ((newLeaf s h r).face f).rescan ((s.leaf h r.leaf).keptRescan f) ⟨r.leaf, f⟩ a)
      (s.rescan, (s.vol h).counters.rescanOverflow)
  else (s.rescan, (s.vol h).counters.rescanOverflow)

/-- Whether a rewrite adds a side to the rescan list or its overflow. -/
def joinedAfter (s : State) (h : Handle) (r : SuppliedLeaf) : Bool :=
  (newLeaf s h r).kind.faces.any fun f => ((newLeaf s h r).face f).rescan && !(s.leaf h r.leaf).keptRescan f

/-- The state a rewrite comes to. -/
def rewrittenState (s : State) (h : Handle) (r : SuppliedLeaf) (d : DoseFigures) : State :=
  accounted (leafWritten s h r d) h (figuresAfter s h r)
    (if (s.vol h).state = .active ∧ joinedAfter s h r = true then
      addNotice s.links.station.notices StationNotice.rescanAdded.place else s.links.station.notices)

theorem rewriteLeaf_eq {s : State} (c : s.Canonical) (hc : s.TableClean) {h : Handle} {r : SuppliedLeaf}
    (hl : (s.leaf h r.leaf).valid = true → (s.leaf h r.leaf).errors = []) (d : DoseFigures) :
    s.rewriteLeaf h r d = rewrittenState s h r d := by
  have hclean := tableClean_leafWritten (h := h) (r := r) (d := d) hc
  have hstate : ((leafWritten s h r d).vol h).state = (s.vol h).state := by rw [vol_leafWritten]; rfl
  have hover : ((leafWritten s h r d).vol h).counters.rescanOverflow = (s.vol h).counters.rescanOverflow := by
    rw [vol_leafWritten]
    rfl
  have hsame := accounted_none (leafWritten s h r d) h
  rw [hover] at hsame
  have hsame : accounted (leafWritten s h r d) h (s.rescan, (s.vol h).counters.rescanOverflow)
      s.links.station.notices = leafWritten s h r d := hsame
  rw [rewriteLeaf_of_clean hc hl]
  by_cases ha : (s.vol h).state = .active
  · have hflag (f : Face) (_ : f ∈ (newLeaf s h r).kind.faces) :
        ((leafWritten s h r d).face h ⟨r.leaf, f⟩).rescan = ((newLeaf s h r).face f).rescan := by
      rw [State.face, leaf_leafWritten c]
    have hfold := foldl_rescanAccount hclean (hstate.trans ha) r.leaf (fun f => (s.leaf h r.leaf).keptRescan f)
      (fun f => ((newLeaf s h r).face f).rescan) hflag (s.rescan, (s.vol h).counters.rescanOverflow)
      s.links.station.notices
    rw [hsame] at hfold
    rw [hfold, rewrittenState, figuresAfter, if_pos ha]
    congr 1
    exact ite_of_iff (and_iff_right ha).symm rfl rfl
  · have hfold : ∀ fs : List Face, fs.foldl (fun t f => t.rescanAccount h ⟨r.leaf, f⟩ ((s.leaf h r.leaf).keptRescan f))
        (leafWritten s h r d) = leafWritten s h r d := by
      intro fs
      induction fs with
      | nil => rfl
      | cons f fs ih =>
        rw [List.foldl_cons, rescanAccount_of_inactive hclean (by rw [hstate]; exact ha)]
        exact ih
    rw [hfold, rewrittenState, figuresAfter, if_neg ha, if_neg fun e => ha e.1, hsame]

end Sys2Proof.Proofs
end

section
/-! O22. LEAF REWRITE (R181 to R183). -/
namespace Sys2Proof.Proofs
open Sys2Proof.Machine Sys2Proof.Laws

/-! ### What the words say of the record and the list -/

section Words
variable {s : State} {h : Handle} {r : SuppliedLeaf}

/-- The face group's flag as written (R182, R21). -/
def flagOf (g : Face × SuppliedFace) : Bool := g.2.rescan && !g.2.skip

variable (hf : r.faces.map Prod.fst = (kindAt (s.vol h).leaves r.leaf).faces)
include hf

theorem kindFaces_newLeaf : (newLeaf s h r).kind.faces = r.faces.map Prod.fst := hf.symm

theorem face_newLeaf {g : Face × SuppliedFace} (hg : g ∈ r.faces) : (newLeaf s h r).face g.1 =
    s.rebuiltFace h r.leaf g
      (if (s.leaf h r.leaf).valid then some ((s.leaf h r.leaf).face g.1) else none) := by
  rw [newLeaf, face_rebuiltLeaf hf hg]
  cases (s.leaf h r.leaf).valid <;> rfl

theorem rescan_newLeaf {g : Face × SuppliedFace} (hg : g ∈ r.faces) :
    ((newLeaf s h r).face g.1).rescan = flagOf g := by
  rw [face_newLeaf hf hg]
  rfl

theorem figuresAfter_eq : figuresAfter s h r =
    if (s.vol h).state = .active then
      r.faces.foldl (fun a g => accountOf (flagOf g) ((s.leaf h r.leaf).keptRescan g.1) ⟨r.leaf, g.1⟩ a)
        (s.rescan, (s.vol h).counters.rescanOverflow)
    else (s.rescan, (s.vol h).counters.rescanOverflow) := by
  rw [figuresAfter, kindFaces_newLeaf hf, List.foldl_map]
  refine ite_of_iff Iff.rfl (foldl_of_steps _ _ _ fun a g hg => ?_) rfl
  rw [rescan_newLeaf hf hg]

theorem joinedAfter_iff : joinedAfter s h r = true ↔
    ∃ g ∈ r.faces, flagOf g = true ∧ (s.leaf h r.leaf).keptRescan g.1 = false := by
  rw [joinedAfter, kindFaces_newLeaf hf, List.any_map, List.any_eq_true]
  refine exists_congr fun g => and_congr_right fun hg => ?_
  rw [Function.comp_apply, rescan_newLeaf hf hg, Bool.and_eq_true, Bool.not_eq_true']

theorem vols_rewritten (d : DoseFigures) : (rewrittenState s h r d).vols = s.vols.set h { s.vol h with
    dose := d.sum, highestSideDose := d.highest
    counters := { (s.vol h).counters with
      damagedLeaves := if (s.leaf h r.leaf).valid then (s.vol h).counters.damagedLeaves
        else (s.vol h).counters.damagedLeaves - 1
      blankSides := (s.vol h).counters.blankSides + BitVec.ofNat 32 (r.faces.countP (·.2.blank)) -
        BitVec.ofNat 32 (s.leaf h r.leaf).keptBlank
      rescanOverflow := (figuresAfter s h r).2 } } := by
  have hblank : (newLeaf s h r).keptBlank = r.faces.countP (·.2.blank) := keptBlank_rebuiltLeaf hf
  refine (PerHandle_set_set _ _ _ _).trans ?_
  rw [vol_leafWritten, ← hblank]
  rfl

end Words

/-! ### The entries of a face written (R182) -/

section Entries
variable {s : State} {h : Handle} {leaf : Nat} {g : Face × SuppliedFace} {old : Option FaceRecord}

theorem numbers_rebuiltFace : (s.rebuiltFace h leaf g old).panels.map (·.number) = [1, 2, 3, 4].filter fun p =>
    g.2.panels.any (fun q => q.number = p) || allSlots.any fun i => (s.slot i).holds ⟨h, leaf, g.1, p⟩ := by
  refine List.map_map.trans (List.map_id'' (fun p => ?_) _)
  rfl

theorem eq_rebuiltPanel {e : PanelEntry} (he : e ∈ (s.rebuiltFace h leaf g old).panels) :
    e = s.rebuiltPanel ⟨h, leaf, g.1, e.number⟩ g.2 old := by
  obtain ⟨p, -, rfl⟩ := List.mem_map.1 he
  rfl

theorem settled_rebuiltPanel (s : State) (o : Owner) (g : SuppliedFace) (old : Option FaceRecord) :
    (s.rebuiltPanel o g old).settled = s.rebuiltSettled o (s.rebuiltPanel o g old).generation
      (g.panels.find? fun p => p.number = o.panel) := rfl

end Entries

/-! ### The obligation -/

/-- Settles O22: each test refuses in its turn; past them the record is written whole from the words and the slots, and
the volume and the rescan list brought into agreement. -/
theorem leafRewriteRebuildsTheRecord : Obligations.LeafRewriteRebuildsTheRecord := by
  intro s ws r hi canon hc hw run refused
  let x := s.taking .station ws.length
  have hx := exec_leafRewrite hi hw
  have refuse {q : Reason} (hr : leafRewrite r x = (.refused q, x)) : refused q :=
    exec_of_answer hc hx ((perform_leafRewrite hw x).trans hr)
  refine ⟨fun hn => refuse (leafRewrite_of_noHandle hn), fun h hh => ?_⟩
  intro v was badGroup bad low high doses
  have hbadIff : rewriteBad (x.vol h).leaves r = true ↔ bad := rewriteBad_iff
  have hlowIff : r.faces.any (x.belowHighest h r.leaf) = true ↔ low :=
    List.any_eq_true.trans (exists_congr fun g => and_congr_right fun _ => belowHighest_iff)
  have hhighIff : r.faces.any (fun g => decide ((x.vol h).sideCeiling < g.2.dose)) = true ↔ high :=
    List.any_eq_true.trans (exists_congr fun g => and_congr_right fun _ => decide_eq_true_iff)
  refine ⟨fun he => refuse (leafRewrite_of_empty (s := x) hh he), fun he hany => ?_, fun he hbad hlow hhigh hle hclean => ?_⟩
  · exact refuse (leafRewrite_of_refused (s := x) hh he
      (hany.imp hbadIff.2 fun hany => hany.imp hlowIff.2 hhighIff.2))
  have htested := leafRewrite_of_tested (s := x) hh he (mt hbadIff.1 hbad) (mt hlowIff.1 hlow) (mt hhighIff.1 hhigh)
  rw [rewriteDoses_of_clean (s := x) r hclean] at htested
  refine ⟨fun hover => refuse (htested.trans (if_pos hover)), fun hwithin => ?_⟩
  intro flag account figures joined
  have hleafLe : r.leaf ≤ v.leaves + 1 := Nat.le_of_not_lt fun hlt => hbad (.inl hlt)
  have hkind : kindOf r.kind = some (kindAt v.leaves r.leaf) := Classical.not_not.1 fun hne => hbad (.inr (.inl hne))
  have hgood (g : Face × SuppliedFace) (hg : g ∈ r.faces) : ¬badGroup g.2 := fun hb => hbad (.inr (.inr ⟨g, hg, hb⟩))
  have hfaces : r.faces.map Prod.fst = (kindAt (x.vol h).leaves r.leaf).faces :=
    faces_of_parseRewrite hw hkind fun g hg h4 => hgood g hg (.inl h4)
  let d : DoseFigures := ⟨(dosesAfter x h r).sum, (dosesAfter x h r).foldl max 0⟩
  have hcanon : x.Canonical := ⟨canon.memory, canon.leaves, canon.gain⟩
  have haccepted : leafRewrite r x = (.accepted (num16 r.leaf ++ split32
      ((rewrittenState x h r d).vol h).counters.damagedLeaves), rewrittenState x h r d) := by
    refine (htested.trans (if_neg (Nat.not_lt.2 hwithin))).trans ?_
    dsimp only
    rw [rewriteLeaf_eq (s := x) hcanon ⟨hc.zero, hc.one, hc.rescan⟩ (hclean r.leaf hleafLe)]
  have hexec := exec_of_effect hc hx ((perform_leafRewrite hw x).trans haccepted)
  have hleaf : (rewrittenState x h r d).leaf h r.leaf = newLeaf x h r := leaf_leafWritten (d := d) hcanon
  have hfigures : figuresAfter x h r = figures := figuresAfter_eq hfaces
  refine ⟨_, hexec, ?valid, ?errors, ?kind, ?blank, ?rescan, ?vols, fun g hg => ?face, fun h' n hne hn => ?others, ?frame⟩
  case valid => exact (congrArg LeafRecord.valid hleaf :)
  case errors => exact (congrArg LeafRecord.errors hleaf :)
  case kind => exact (congrArg LeafRecord.kind hleaf :)
  case blank => exact (congrArg LeafRecord.keptBlank hleaf :).trans (keptBlank_rebuiltLeaf hfaces)
  case rescan => exact (congrArg Prod.fst hfigures :)
  case vols =>
    refine (vols_rewritten hfaces d).trans ?_
    rw [hfigures]
    rfl
  case face =>
    intro f
    have hf : f = x.rebuiltFace h r.leaf g (if was.valid then some (was.face g.1) else none) :=
      (congrArg (fun l : LeafRecord => l.face g.1) hleaf :).trans (face_newLeaf hfaces hg)
    have hkept : (newLeaf x h r).keptRescan g.1 = flag g :=
      (keptRescan_rebuiltLeaf g.1).trans (rescan_newLeaf hfaces hg)
    have hnodup : (g.2.panels.map (·.number)).Nodup :=
      Classical.not_not.1 fun hn => hgood g hg (.inr (.inr (.inr (.inl hn))))
    refine ⟨congrArg FaceRecord.declared hf, congrArg FaceRecord.skip hf, congrArg FaceRecord.missed hf,
      congrArg FaceRecord.rescan hf, (congrArg (fun l : LeafRecord => l.keptRescan g.1) hleaf :).trans hkept,
      congrArg FaceRecord.blank hf, congrArg FaceRecord.dose hf,
      (congrArg (fun f : FaceRecord => f.panels.map (·.number)) hf).trans numbers_rebuiltFace, fun e he => ?_⟩
    intro o pending standing generations
    rw [hf] at he
    have hentry : e = x.rebuiltPanel o g.2 _ := eq_rebuiltPanel he
    have hgenerations : generationsOf x o g.2 (if was.valid then some (was.face g.1) else none) = generations := by
      refine congrArg (List.append _) ?_
      cases was.valid <;> rfl
    have hsettled := settled_rebuiltPanel x o g.2 (if was.valid then some (was.face g.1) else none)
    rw [← hentry] at hsettled
    refine ⟨fun hnone => ?notPending, fun hsome => ?pending, fun hstand => ?standing, fun hnone => ?notStanding⟩
    case notPending =>
      have hall := rebuiltPanel_of_notPending (s := x) (old := if was.valid then some (was.face g.1) else none) hnodup hnone
      rw [← hentry, hgenerations] at hall
      exact hall
    case pending =>
      have hall := rebuiltPanel_of_pending (s := x) (g := g.2)
        (old := if was.valid then some (was.face g.1) else none) hsome
      rw [← hentry] at hall
      exact hall
    case standing =>
      rw [hsettled]
      exact rebuiltSettled_of_standing (s := x) hstand
    case notStanding =>
      rw [hsettled, rebuiltSettled_of_notStanding (s := x) hnone]
      refine ⟨fun q hq hqn => ?_, fun hno => ?_⟩
      · rw [show o.panel = e.number from rfl, find_supplied hnodup hq hqn]
        rfl
      · rw [List.find?_eq_none.2 fun q hq hqn => hno ⟨q, hq, of_decide_eq_true hqn⟩]
        rfl
  case others => exact leaf_leafWritten_ne (d := d) hcanon (Nat.le_trans hleafLe (Nat.succ_le_succ hle)) hn hne
  case frame =>
    have hnotices : (if (x.vol h).state = .active ∧ joinedAfter x h r = true then
        addNotice x.links.station.notices StationNotice.rescanAdded.place else x.links.station.notices) =
        if joined then addNotice s.links.station.notices StationNotice.rescanAdded.place
          else s.links.station.notices :=
      ite_of_iff (and_congr_right fun _ => joinedAfter_iff hfaces) rfl rfl
    rw [rewrittenState, hnotices]
    rfl

end Sys2Proof.Proofs
end
